-- ==== Sys2Proof/Word.lean ====
section
/-! DEFINITION. The word types of the Zitrasha Z9 model (R17, R21): a byte, and the widths of the module's registers. -/

namespace Sys2Proof

/-- One byte of the module's memory or of a message (R21). -/
abbrev Byte := BitVec 8

/-- A 16-bit field of a message or record. -/
abbrev Half := BitVec 16

/-- A 32-bit register or message word (R17). -/
abbrev Word := BitVec 32

/-- A 64-bit quantity, two consecutive registers (R17). -/
abbrev Dword := BitVec 64

end Sys2Proof
end

