-- ==== Sys2Proof/Syntax.lean ====
section
/-! DEFINITION. The commands of the block: one constructor of `Instr` per row of spec/opcode_table.json, with the
operands each action brings from outside. Indices the module fixes (mailboxes, clusters, links, ...) are `Fin`;
contents that the outside chooses (register values, packets, samples) are plain data checked in WellFormed. -/

namespace Sys2Proof

/-- A PCIe function: 0 the physical function, n the virtual function n (R25). -/
abbrev Fn := Fin 17
/-- A Klova mailbox MB000-MB255 (R29). -/
abbrev Mb := Fin 256
/-- A cluster C00-C31 (R15). -/
abbrev Clu := Fin 32
/-- A context slot of a cluster (R120). -/
abbrev SlotIx := Fin 4
/-- A logical array of a cluster (R5). -/
abbrev ArrIx := Fin 4
/-- A partition P0-P15 (R15). -/
abbrev PartIx := Fin 16
/-- A link L00-L95 (R15). -/
abbrev LinkIx := Fin 96
/-- A die group G00-G31 (R75). -/
abbrev GroupIx := Fin 32
/-- A requester ID of the coherence protocol, 0-33 (R136). -/
abbrev AgentId := Fin 34
/-- The number of a 64-byte DRAM line: a module address shifted right by 6 (R136). -/
abbrev LineNo := Nat

/-- The request a Klova opcode row acts on: the accepted request of a mailbox by its HSEQ, or the
request in the mailbox's out-of-window context (R52, R55). -/
structure ReqId where
  mb : Mb
  oow : Bool
  hseq : Word
  deriving DecidableEq, Repr

/-- The NVMe command a command row acts on: controller, submission queue and command identifier (R368). -/
structure CmdKey where
  ctrl : Fn
  sq : Nat
  cid : Half
  deriving DecidableEq, Repr

/-- A register as an agent names it: a controller property at an offset of a function's BAR0 (R25, R358), an offset of a function's BAR2, where
the mailbox windows lie (R30, R35), or a module address (R22). -/
inductive RegRef where
  | bar0 (fn : Fn) (off : BitVec 16)
  | bar2 (fn : Fn) (off : BitVec 24)
  | module (addr : BitVec 48)
  deriving DecidableEq, Repr

/-- A regulated path (R97) or the trunk facing a position (R432). -/
inductive Path where
  | dram | fabric | pcieOut | pcieIn | sage
  | trunk (q : Fin 8)
  deriving DecidableEq, Repr

/-- A port of a store bank (R115). -/
inductive Port where
  | arr (k : ArrIx)
  | vu
  | dma
  | nb (dir : Fin 4)
  | ca
  deriving DecidableEq, Repr

/-- One 64-byte row access that a port presents to a bank (R116). -/
structure RowAccess where
  port : Port
  seg : Fin 7
  bank : Fin 64
  row : BitVec 12
  write : Bool
  mask : Dword
  data : List Byte
  deriving DecidableEq, Repr

/-- An engine whose running command may finish (R121). -/
inductive Engine where
  | dma | vec
  | arr (k : ArrIx)
  | remote
  | sync
  deriving DecidableEq, Repr

/-- What a level or event input shows behind its 1 us glitch filter (R468): a level held for 1 us, or a shorter pulse. -/
inductive SbEvent where
  | level (high : Bool)
  | glitch
  deriving DecidableEq, Repr

/-- How a 4 KiB codeword of a flash read decodes (R408): hard decision with so many corrected bits; soft decision after
so many retries; rebuilt from the stripe; or uncorrectable at the 4.0 ms cutoff. -/
inductive EccResult where
  | hard (bits : Nat)
  | soft (retries : Fin 4)
  | parity
  | uncorrectable
  deriving DecidableEq, Repr

/-- A kind of NAND operation that completes (R389). -/
inductive NandKind where
  | read | program | erase
  deriving DecidableEq, Repr

/-- Identity of an Evsel connection: the partner's position and the partition (R426). -/
structure ConnId where
  pos : Fin 8
  part : PartIx
  deriving DecidableEq, Repr

/-- An Evsel frame as received: the 32-byte Evsel header and the payload (R424, R425). -/
structure EvFrame where
  header : List Byte
  payload : List Byte
  deriving DecidableEq, Repr

/-- The remote operation an Evsel message of kind PUT carries (R248, R431). -/
structure PutMsg where
  job : Word
  rank : Nat
  runEpoch : Word
  off : Nat
  data : List Byte
  sig : Option (Fin 16)
  tag : Nat
  deriving DecidableEq, Repr

/-- The remote operation an Evsel message of kind GET_REQ carries (R248, R431). -/
structure GetMsg where
  job : Word
  rank : Nat
  fromJob : Word
  fromRank : Nat
  runEpoch : Word
  off : Nat
  len : Nat
  tag : Nat
  deriving DecidableEq, Repr

/-- A remote response (R250): the requester's job, rank, run epoch and remote-table tag, and the data of a GET. -/
structure RemoteResp where
  job : Word
  rank : Nat
  runEpoch : Word
  tag : Nat
  data : List Byte
  deriving DecidableEq, Repr

/-- What a NAK of a RoCEv2 target reports (R313). -/
inductive NakKind where
  | psnSequence | remoteAccess
  deriving DecidableEq, Repr

/-- The outcome of one self-test step of a segment (R378). -/
inductive StepOutcome where
  | pass | fail
  deriving DecidableEq, Repr

/-- The classes that have a unit waiting on a flash channel at a slot (R382). -/
structure ChannelWaits where
  urgent : Bool
  host : Bool
  service : Bool
  background : Bool
  deriving DecidableEq, Repr

/-- What an ECC read of a line finds: the stored 64 bytes and the stored side word (R490-R492). -/
structure LineRead where
  data : List Byte
  side : Word
  deriving DecidableEq, Repr

/-- What the SEC-DED code of a tag SRAM, directory cache, Sage cache, operand register or crossing FIFO finds in a step that reads it (R497). -/
inductive SecDed where
  | clean | corrected | uncorrectable
  deriving DecidableEq, Repr

/-- What the bank of a store that serves a row in a cluster cycle finds there: segment, bank, and the row with its side word (R492, R493). -/
structure RowFound where
  seg : Fin 7
  bank : Fin 64
  row : LineRead
  deriving DecidableEq, Repr

/-- What a cluster sees in a cycle: row accesses that join its ports, what banks that serve a row find there, and what its own structures under
SEC-DED show (R115, R116, R492, R497). -/
structure CycleInput where
  arrivals : List RowAccess
  found : List RowFound
  ecc : SecDed
  deriving DecidableEq, Repr

/-- What a home agent sees as requests of a line arrive in one cycle: whether the next request to reach it does so in the same cycle (R139), the line
as it finds it in DRAM where it is not as written (R492), and what the shared structures of DX that they pass show (R497). -/
structure HomeInput where
  more : Bool
  found : Option LineRead
  ecc : SecDed
  deriving DecidableEq, Repr

/-- Requesters whose requests of one kind for a line arrive in one cycle (R139). -/
structure CohInput where
  ids : List AgentId
  home : HomeInput
  deriving DecidableEq, Repr

/-- The requester of a non-caching request (R136). -/
structure NcInput where
  r : AgentId
  home : HomeInput
  deriving DecidableEq, Repr

/-- The commands of the block, one constructor per row of the table, in the table's order. -/
inductive Instr where
  -- registers and mailboxes (R18, R35-R41, R44, R57, R66, R67)
  | registerWrite (r : RegRef) (v : Word)
  | rcRead (r : RegRef) (wide : Bool)
  | klvReqDb (fn : Fn) (mb : Mb) (v : Word)
  | klvCplDb (fn : Fn) (mb : Mb) (v : Word)
  | enSet (fn : Fn) (mb : Mb) (v : Word)
  | enabledRise (mb : Mb)
  | enClear (fn : Fn) (mb : Mb) (v : Word)
  | enabledFall (mb : Mb)
  | activeFall (mb : Mb)
  | dmaBlock (fn : Fn) (mb : Mb) (v : Word)
  | mreset (fn : Fn) (mb : Mb) (v : Word)
  | mresetDone (mb : Mb)
  | requestConsume (mb : Mb)
  | completionPost (mb : Mb)
  | upperTimeout (r : ReqId)
  | lateResult (mb : Mb)
  | hello (r : ReqId)
  | identify (r : ReqId)
  | abort (r : ReqId)
  | readRecords (r : ReqId)
  | eventWait (r : ReqId)
  | nop (r : ReqId)
  | functionLevelReset (fn : Fn)
  | vfDisable (enable : Bool) (numVFs : Fin 17)
  | vfEnable (enable : Bool) (numVFs : Fin 17)
  -- partitions (R85-R90, R98)
  | configRead (r : ReqId)
  | configApply (r : ReqId)
  | configActivate
  | partReset (r : ReqId)
  | readState (r : ReqId)
  | slotTable (r : ReqId)
  | regulatorSlot (p : Path) (waiting : BitVec 16) (sys : Bool)
  -- clusters (R115-R146)
  | clusterCycle (c : Clu) (x : CycleInput)
  | dispatchWord (c : Clu) (ready : BitVec 4)
  | commandFinish (c : Clu) (s : SlotIx) (e : Engine)
  | dmaCopy (c : Clu) (s : SlotIx)
  | dmaFill (c : Clu) (s : SlotIx)
  | cacheOp (c : Clu) (s : SlotIx)
  | vadd (c : Clu) (s : SlotIx)
  | vsub (c : Clu) (s : SlotIx)
  | vmul (c : Clu) (s : SlotIx)
  | vfma (c : Clu) (s : SlotIx)
  | vmax (c : Clu) (s : SlotIx)
  | vmin (c : Clu) (s : SlotIx)
  | vexp (c : Clu) (s : SlotIx)
  | vlog (c : Clu) (s : SlotIx)
  | vrcp (c : Clu) (s : SlotIx)
  | vrsqrt (c : Clu) (s : SlotIx)
  | vtanh (c : Clu) (s : SlotIx)
  | vsigm (c : Clu) (s : SlotIx)
  | vrsum (c : Clu) (s : SlotIx)
  | vrmax (c : Clu) (s : SlotIx)
  | vcvt (c : Clu) (s : SlotIx)
  -- coherence (R136-R142)
  | rdS (line : LineNo) (q : CohInput)
  | rdX (line : LineNo) (q : CohInput)
  | upg (line : LineNo) (q : CohInput)
  | rdNc (line : LineNo) (q : NcInput)
  | wrNc (line : LineNo) (q : NcInput) (data : List Byte)
  | wrNcPart (line : LineNo) (q : NcInput) (mask : Dword) (data : List Byte)
  | inv (line : LineNo) (o : AgentId)
  | recall (line : LineNo) (o : AgentId)
  | downgrade (line : LineNo) (o : AgentId)
  | wb (line : LineNo) (o : AgentId) (data : List Byte)
  | cleanEvict (line : LineNo) (o : AgentId)
  | invAck (line : LineNo) (o : AgentId)
  | dataM (line : LineNo) (o : AgentId) (data : List Byte)
  | dataClean (line : LineNo) (o : AgentId) (data : List Byte)
  | ackWb (line : LineNo) (o : AgentId)
  | wbCommit (line : LineNo)
  | gntS (line : LineNo) (o : AgentId) (data : List Byte)
  | gntE (line : LineNo) (o : AgentId) (data : List Byte)
  | gntX (line : LineNo) (o : AgentId) (data : List Byte)
  | gntUpg (line : LineNo) (o : AgentId)
  | wbAck (line : LineNo) (o : AgentId)
  | ncData (line : LineNo) (r : AgentId) (data : List Byte)
  | ncAck (line : LineNo) (r : AgentId)
  -- arrays (R152-R169)
  | arrLayout (c : Clu) (s : SlotIx) (k : ArrIx)
  | arrMm (c : Clu) (s : SlotIx) (k : ArrIx)
  | arrayGrant (c : Clu) (k : ArrIx)
  | arrayQuantumExpire (c : Clu) (k : ArrIx)
  | arrayTest (r : ReqId)
  | arrayStatus (r : ReqId)
  | testPatternEnd (c : Clu) (k : ArrIx) (fail : Option Word)
  | testResume (c : Clu) (k : ArrIx)
  | thyFill (c : Clu) (s : SlotIx)
  -- synchronisation and context commands (R248-R252)
  | syncNop (c : Clu) (s : SlotIx)
  | barrier (c : Clu) (s : SlotIx)
  | remotePut (c : Clu) (s : SlotIx)
  | remoteGet (c : Clu) (s : SlotIx)
  | rwait (c : Clu) (s : SlotIx)
  | dlArm (c : Clu) (s : SlotIx)
  | dlCheck (c : Clu) (s : SlotIx)
  | dlEnd (c : Clu) (s : SlotIx)
  | deadlineExpire (c : Clu) (s : SlotIx)
  | pathStore (c : Clu) (s : SlotIx)
  | jump (c : Clu) (s : SlotIx)
  | loop (c : Clu) (s : SlotIx)
  | yield (c : Clu) (s : SlotIx)
  | streamEnd (c : Clu) (s : SlotIx)
  | watchdogExpire (c : Clu) (s : SlotIx)
  | remoteResponse (x : RemoteResp)
  | jobTeardown (job : Word)
  | load (r : ReqId)
  | jobRun (r : ReqId)
  | suspend (r : ReqId)
  | resume (r : ReqId)
  | kill (r : ReqId)
  | jobStatus (r : ReqId)
  | unload (r : ReqId)
  | jobPlace (job : Word)
  | jobEvict (job : Word)
  | jobRestore (job : Word)
  -- memory tiers (R259-R283)
  | tierCreate (r : ReqId)
  | tierDelete (r : ReqId)
  | promote (r : ReqId)
  | evict (r : ReqId)
  | tierFlush (r : ReqId)
  | share (r : ReqId)
  | unshare (r : ReqId)
  | schedule (r : ReqId)
  | tierInfo (r : ReqId)
  | pool (r : ReqId)
  | store (job : Word) (ecc : EccResult)
  | stage (job : Word)
  | writeback (job : Word)
  | release (job : Word)
  | tileCopyDone (obj : Word) (tile : Nat) (root : Bool) (ecc : EccResult)
  | dirtyWritebackTimer (obj : Word) (chunk : Nat)
  -- video ingest (R286-R322)
  | addSource (r : ReqId)
  | removeSource (r : ReqId)
  | ingestCommit (r : ReqId)
  | sourceInfo (r : ReqId)
  | target (r : ReqId)
  | ingestRun (r : ReqId)
  | fetch (r : ReqId)
  | sampleDecode (p : PartIx) (e : Fin 64) (ecc : EccResult)
  | pieceWrite (p : PartIx)
  | pieceSend (p : PartIx) (t : Fin 16)
  | roceAck (p : PartIx) (t : Fin 16) (psn : BitVec 24)
  | roceNak (p : PartIx) (t : Fin 16) (psn : BitVec 24) (k : NakKind)
  | roceAckTimeout (p : PartIx) (t : Fin 16)
  | creditWrite (p : PartIx) (t : Fin 16) (consumed : Dword)
  | cnp (p : PartIx) (t : Fin 16)
  | rateRecoveryTimer (p : PartIx) (t : Fin 16)
  -- filter and search (R324-R356)
  | scan (r : ReqId) (bad : Option Nat)
  | searchCreate (r : ReqId)
  | drop (r : ReqId)
  | insert (r : ReqId)
  | searchDelete (r : ReqId)
  | searchCommit (r : ReqId)
  | query (r : ReqId)
  | merge (r : ReqId)
  | searchInfo (r : ReqId)
  -- NVMe (R358-R387)
  | sqDoorbell (fn : Fn) (sq : Nat) (v : Half)
  | sqFetch (fn : Fn) (sq : Nat)
  | ccEnSet (fn : Fn) (cc : Word)
  | controllerReset (fn : Fn) (cc : Word)
  | shutdown (fn : Fn) (cc : Word)
  | nssr (fn : Fn) (v : Word)
  | createIoSq (k : CmdKey)
  | deleteIoSq (k : CmdKey)
  | createIoCq (k : CmdKey)
  | deleteIoCq (k : CmdKey)
  | getLogPage (k : CmdKey)
  | nvmeIdentify (k : CmdKey)
  | nvmeAbort (k : CmdKey)
  | setFeatures (k : CmdKey)
  | getFeatures (k : CmdKey)
  | asynchronousEventRequest (k : CmdKey)
  | namespaceManagement (k : CmdKey)
  | namespaceAttachment (k : CmdKey)
  | firmwareImageDownload (k : CmdKey)
  | firmwareCommit (k : CmdKey)
  | deviceSelfTest (k : CmdKey)
  | selfTestStep (fn : Fn) (o : StepOutcome)
  | selfTestResume (fn : Fn)
  | formatNvm (k : CmdKey)
  | nvmeFlush (k : CmdKey)
  | write (k : CmdKey)
  | read (k : CmdKey) (ecc : EccResult) (latency : Nat)
  | writeZeroes (k : CmdKey)
  | datasetManagement (k : CmdKey)
  -- flash media (R382-R413)
  | channelFrameSlot (ch : Fin 128) (w : ChannelWaits)
  | nandOpDone (g : GroupIx) (die : Fin 36) (kind : NandKind) (ok : Bool)
  | fold (g : GroupIx)
  | garbageCollect (g : GroupIx)
  | rewrite (g : GroupIx)
  | patrolRead (g : GroupIx) (nsid : Word) (unit : Nat) (ecc : EccResult)
  | checkpoint (g : GroupIx)
  | holdupMeasure (energy : Nat)
  | tempHistoryInterval
  | nsCommit (r : ReqId)
  | nsMode (r : ReqId)
  | nsInfo (r : ReqId)
  | groupInfo (r : ReqId)
  | holdupTest (r : ReqId) (energy : Nat)
  -- links and Evsel (R415-R440)
  | linkUp (l : LinkIx) (f : EvFrame)
  | linkDown (l : LinkIx)
  | flapHoldExpire (l : LinkIx)
  | helloTx (l : LinkIx)
  | lldpTx (l : LinkIx)
  | helloTimeout (l : LinkIx)
  | evselHello (l : LinkIx) (f : EvFrame)
  | evselData (l : LinkIx) (f : EvFrame)
  | evselAck (l : LinkIx) (f : EvFrame)
  | nackSeq (l : LinkIx) (f : EvFrame)
  | nackRnr (l : LinkIx) (f : EvFrame)
  | cancel (l : LinkIx) (f : EvFrame)
  | ackTimer (k : ConnId)
  | gapTimer (k : ConnId)
  | rnrResendTimer (k : ConnId)
  | rtoExpire (k : ConnId)
  | msgTimeoutExpire (k : ConnId)
  | klovaReq (k : ConnId)
  | klovaCpl (k : ConnId)
  | put (k : ConnId) (m : PutMsg)
  | getReq (k : ConnId) (m : GetMsg)
  | getData (k : ConnId) (x : RemoteResp)
  | signal (k : ConnId) (job : Word) (rank : Nat) (sig : Fin 16)
  | linkInfo (r : ReqId)
  | neighbours (r : ReqId)
  | forward (r : ReqId)
  | hold (r : ReqId)
  | linkRelease (r : ReqId)
  -- reset, clocks, power, sideband (R443-R469)
  | porAssert
  | modRstN (e : SbEvent)
  | perstN (e : SbEvent)
  | warm
  | wdt
  | kick (v : Word)
  | resetExit
  | pllLockLoss (d : Fin 18)
  | refclkLost
  | blockReset (v : Word)
  | blockIdle
  | blockResetTimeout
  | powerSample (centivolts : Nat) (watts : Nat) (mean10ms : Nat) (mean1s : Nat)
  | powerLoss (internalRails : Bool)
  | powerControlTick
  | operatingPointChange (d : Fin 4)
  | thermalSample (temps : List Int)
  | envelopeSample (inlet : Int)
  | pwrbrkN (e : SbEvent)
  | tsSyncN (e : SbEvent)
  | wakeReqN (e : SbEvent)
  | configurationSet (id : Byte) (v : Word)
  | configurationGet (id : Byte)
  | readNvmeMiDataStructure (dtyp : Byte)
  | subsystemHealthStatusPoll
  | controllerHealthStatusPoll
  | vpdRead (off len : Nat)
  | tunnelledAdmin (sqe : List Byte)
  -- firmware store and boot (R471-R489)
  | boot
  | trialConfirm
  | logCompact
  | storeReadBusy (off : Nat)
  | calRead (r : ReqId)
  | calWrite (r : ReqId)
  | calClear (r : ReqId)
  | warmReset (r : ReqId)
  | bootStatus (r : ReqId)
  | recoveryLoad (r : ReqId)
  -- error protection (R490-R508)
  | dramScrub (ch : Fin 32) (x : Option LineRead)
  | storeScrub (c : Clu) (seg : Fin 7) (x : Option LineRead)
  | rootScrub (x : Option LineRead)
  | logRead (r : ReqId)
  | retire (r : ReqId)
  | repairStatus (r : ReqId)
  -- debug (R510-R523)
  | dbgCmd (v : BitVec 128)
  | dbgHalt (v : Word)
  | dbgResume (v : Word)
  | dbgStep (v : Word)
  | debugStalled
  | challenge (r : ReqId)
  | challengeExpire
  | unlock (r : ReqId)
  | lock (r : ReqId)
  | consent (r : ReqId)
  | debugStatus (r : ReqId)
  -- store controller, completion doorbell, test port, management bus
  | firmwareStoreOpDone (ok : Bool)
  | storeBrownOut
  | cqHeadDoorbell (fn : Fn) (cq : Nat) (v : Half)
  | tapInstructionUpdate (ir : Byte)
  | trstN
  | dynamicAddressAssignment (addr : BitVec 7)
  deriving DecidableEq, Repr

end Sys2Proof
end

