-- ==== Sys2Proof/Config.lean ====
section
/-! DEFINITION. What an implementation fixes and the spec leaves open: free values (constants with no body, of which nothing can be
proved) and uninterpreted functions of the module's bytes and keys. The log entries named beside each say which rule is open. -/

namespace Sys2Proof.Config

/-- A video profile under the names of R287; every profile that R287 does not list is `other`. -/
inductive Profile where
  | simple | main | p422 | constrainedBaseline | high | high10 | main10 | other
  deriving DecidableEq, Repr, Inhabited

/-- A coded picture as parsing finds it, in decoding order: its byte offset, PTS unwrapped to 64 bits, the presentation rank of its frame (the
two field pictures of a frame share it), its type as its standard numbers types, whether it is a random-access picture and whether it is
interlaced; width, height, chroma (0 mono, 1 4:2:0, 2 4:2:2, else another) and bit depth; whether it is damaged, whether a PTS or PCR
discontinuity comes before its frame, and whether it carries film grain; the pictures it depends on directly, by decoding order, and the TS
packets that hold it. -/
structure Picture where
  offset : Nat
  pts : Nat
  rank : Nat
  type : Nat
  randomAccess : Bool
  interlaced : Bool
  width : Nat
  height : Nat
  chroma : Nat
  depth : Nat
  damaged : Bool
  discontinuity : Bool
  grain : Bool
  refs : List Nat
  packets : Nat
  deriving DecidableEq, Repr, Inhabited

/-- An audio stream or track: its TS stream_type or MP4 object type, whether its coded form is the AAC-LC or MPEG-1 Layer II its carriage
stands for, its channels and sampling rate. -/
structure Audio where
  carriage : Nat
  formatOk : Bool
  channels : Nat
  rate : Nat
  deriving DecidableEq, Repr, Inhabited

/-- A caption service (R288): CC1-CC4 of CEA-608, services 1-6 of CEA-708, DVB subtitles. -/
inductive CaptionService where
  | cc (k : Fin 4)
  | c708 (k : Fin 6)
  | dvb
  deriving DecidableEq, Repr, Inhabited

/-- What a cue shows (R288): UTF-8 text, or a bitmap object. -/
inductive CueBody where
  | text (bytes : List Byte)
  | bitmap
  deriving DecidableEq, Repr, Inhabited

/-- A caption cue (R310): start and end in 90 kHz, its service and what it shows. -/
structure Cue where
  start : Nat
  stop : Nat
  service : CaptionService
  body : CueBody
  deriving DecidableEq, Repr, Inhabited

/-- A program of a transport stream or a video track of an ISO file: its program_number or track_ID, its stream_type or four-character sample
entry, whether a registration descriptor names 'AV01', whether its sample entry is encrypted, the media_time of each edit of its edit list;
profile and level (ten times the level number; H.262: 0 Low, 1 Main, 2 High 1440, 3 High) and the bytes that code them; the tools FMO, ASO, redundant
slices and reference picture resampling; frame rate; the matrix (0 BT.601, 1 BT.709, 2 BT.2020) and range the stream states, if any, and the bytes
that code them; chroma_sample_loc_type, if present, or whether AV1 states CSP_COLOCATED; audio streams in order, caption services, and its pictures. -/
structure Program where
  number : Nat
  carriage : Nat
  av01 : Bool
  encrypted : Bool
  edits : List Int
  profile : Profile
  level : Nat
  profileCode : Nat
  levelCode : Nat
  fmo : Bool
  aso : Bool
  redundantSlices : Bool
  resampling : Bool
  rateNum : Nat
  rateDen : Nat
  matrix : Option Nat
  fullRange : Option Bool
  matrixCode : Nat
  rangeCode : Nat
  chromaLoc : Option Nat
  colocated : Bool
  audio : List Audio
  captions : List CaptionService
  pictures : List Picture
  deriving DecidableEq, Repr, Inhabited

/-- A decoded frame: its size, chroma (0 mono, 1 4:2:0, 2 4:2:2) and depth, and the samples of its planes in raster order. -/
structure Frame where
  width : Nat
  height : Nat
  chroma : Nat
  depth : Nat
  y : List Nat
  cb : List Nat
  cr : List Nat
  deriving DecidableEq, Repr, Inhabited

/-- Containers, video, audio and captions as their standards define them, which the spec names and does not restate (R286-R288; log
entry 31). Of a transport stream's bytes: its packet size, and transport_scrambling_control of a packet of 188 bytes. Of a container kind and the
container's bytes: its programs in order, none if it is malformed. Of the program as well: a luma or chroma sample (frame; plane 0, 1, 2; place in
raster order) with film grain applied or not, whether decoding a picture meets a bitstream error, a PCM sample by channel and index counted from a PTS, and the
cues. An index entry codes a picture's offset, PTS, decoding order, type and random-access flag in 16 bytes (R289). -/
opaque packetSize : List Byte → Nat
opaque scramblingControl : List Byte → Nat
opaque programs : Nat → List Byte → Option (List Program)
opaque planeSample : Nat → Nat → List Byte → Bool → Nat → Nat → Nat → Nat
opaque pictureError : Nat → Nat → List Byte → Nat → Bool
opaque pcmSample : Nat → Nat → List Byte → Nat → Nat → Nat → BitVec 16
opaque cues : Nat → Nat → List Byte → List Cue
opaque indexEntry : Nat → Nat → Nat → Nat → Bool → List Byte

/-- The integrity check value of a RoCEv2 packet (R313; log entry 31): a function of its header fields and data. -/
opaque icrc : List Nat → List Byte → Word

/-- The matrix (0 BT.601, 1 BT.709, 2 BT.2020) and full range that nonzero MATRIX and RANGE fields of a run name (R304, R320; log entry
32). -/
opaque matrixOf : Nat → Nat
opaque rangeFull : Nat → Bool

/-- The flash channel that holds a list of an index (R324, R337; log entry 33). -/
opaque listChannel : Nat → Nat → Nat

/-- The payload of a remote message by its kind (2 PUT, 3 GET_REQ, 4 GET_DATA): the numbers it names and its data (R248, R250; log entry 37).
The Chassis ID and Port ID values of LLDP, and the content of its organisation-specific TLV by NODE_ID, GROUP_ID, position and link (R422; log
entry 37); the MAC address of a partner's link by its NODE_ID and number (R424; log entry 37). -/
opaque remoteBytes : Nat → List Nat → List Byte → List Byte
opaque lldpChassis : List Byte
opaque lldpPort : Nat → List Byte
opaque lldpOrg : Nat → Nat → Nat → Nat → List Byte
opaque linkMac : Nat → Nat → Nat

/-- The bank and row of a DRAM line within its channel (R502; log entry 41). -/
opaque dramBankRow : Nat → Nat

/-- What a line of DRAM reads as under the key of a number when it was written under an erased one (R81; log entry 46). -/
opaque rekeyedLine : Nat → Nat → List Byte

/-- A free 64-bit value: the n-th time the model needs one (log entry 5). -/
opaque freeVal : Nat → BitVec 64

/-- The known-answer check of a generator of Thyme finds a wrong answer, by the number of the draw (R234; log entry 121). -/
opaque thymeWrong : Nat → Bool

/-- A byte of an out-buffer that the module leaves undefined, by the number of the draw and the offset (R49; log entry 109). -/
opaque freeByte : Nat → Nat → Byte

/-- A byte of a saved context record, by the number of the draw and the offset (R246; log entry 79). -/
opaque contextByte : Nat → Nat → Byte

/-- Bytes of the firmware store as manufactured, by store offset (R472; log entry 24). -/
opaque factoryByte : Nat → Byte

/-- Factory calibration of an item (R486; log entry 24). -/
opaque factoryCal : Nat → Nat → Int

/-- The factory calibration passes its check at a start of Tilir; the most conservative value of an item, in force if it does not (R489; log entry
134). -/
opaque factoryGood : Nat → Bool
opaque conservativeCal : Nat → Nat → Int

/-- FW_VERSION while the boot loader alone runs (R72, R485; log entry 135). -/
opaque loaderVersion : List Byte

/-- The key of an index is fused and not revoked (R481); the image's signature verifies under it (R481); an unlock signature verifies over
a challenge record (R519, R520) (log entry 25). -/
opaque keyTrusted : Nat → Bool
opaque imageSigned : List Byte → Bool
opaque unlockSigned : List Byte → List Byte → Bool

end Sys2Proof.Config
end

