-- ==== Sys2Proof/Machine/Bytes.lean ====
section
/-! DEFINITION. Bytes, bit fields and byte order (R21): every multi-byte quantity of a register, message, record or memory is
little-endian, and a bit range [hi:lo] counts bit 0 as the least significant. -/

namespace Sys2Proof.Machine

/-- The number a little-endian byte list spells (R21). -/
def leNat : List Byte → Nat
  | [] => 0
  | b :: bs => b.toNat + 256 * leNat bs

/-- The `n` bytes of `v`, little-endian, dropping what does not fit (R21). -/
def leBytes : Nat → Nat → List Byte
  | 0, _ => []
  | n + 1, v => BitVec.ofNat 8 v :: leBytes n (v / 256)

/-- Bits [hi:lo] of a number (R21). -/
def bits (v hi lo : Nat) : Nat := (v / 2 ^ lo) % 2 ^ (hi + 1 - lo)

/-- Bit `i` of a number as a truth value. -/
def bitAt (v i : Nat) : Bool := v.testBit i

/-- `v` with bits [hi:lo] replaced by `x`. -/
def setBits (v hi lo x : Nat) : Nat :=
  v - bits v hi lo * 2 ^ lo + (x % 2 ^ (hi + 1 - lo)) * 2 ^ lo

/-- A truth value as a bit. -/
def bnat (b : Bool) : Nat := if b then 1 else 0

/-- `n` bytes of a list from an offset on; bytes past the end read zero. -/
def slice (bs : List Byte) (off n : Nat) : List Byte :=
  let x := (bs.drop off).take n
  x ++ List.replicate (n - x.length) 0

/-- The little-endian field of `n` bytes at offset `off`. -/
def fld (bs : List Byte) (off n : Nat) : Nat := leNat ((bs.drop off).take n)

/-- A byte list with `v` laid over it at offset `off`; its length does not change. -/
def overlay (bs : List Byte) (off : Nat) (v : List Byte) : List Byte :=
  let v' := v.take (bs.length - off)
  bs.take off ++ v' ++ bs.drop (off + v'.length)

/-- A byte list with the `n`-byte field at `off` set to `v`. -/
def setFld (bs : List Byte) (off n v : Nat) : List Byte := overlay bs off (leBytes n v)

/-- `n` zero bytes. -/
def zeros (n : Nat) : List Byte := List.replicate n 0

/-- Whether a byte list is all zero. -/
def allZero (bs : List Byte) : Bool := bs.all (· == 0)

/-- A byte list cut or zero-filled to `n` bytes. -/
def fit (bs : List Byte) (n : Nat) : List Byte := slice bs 0 n

/-- ASCII text space-padded to `n` bytes (R72). -/
def ascii (t : String) (n : Nat) : List Byte :=
  let x := (t.toList.map fun c => BitVec.ofNat 8 c.toNat).take n
  x ++ List.replicate (n - x.length) 0x20

/-- The offset of the first nonzero byte of a list of (offset, byte) pairs. -/
def firstSet : List (Nat × Byte) → Option Nat
  | [] => none
  | (o, b) :: t => if b == 0 then firstSet t else some o

/-- A list's bytes with their offsets, counting from `o`. -/
def enumFrom (o : Nat) : List Byte → List (Nat × Byte)
  | [] => []
  | b :: t => (o, b) :: enumFrom (o + 1) t

/-- Signed value of an `n`-bit two's complement number. -/
def signed (n v : Nat) : Int :=
  let m := v % 2 ^ n
  if m < 2 ^ (n - 1) then (m : Int) else (m : Int) - (2 ^ n : Nat)

/-- An integer as an `n`-bit two's complement number. -/
def unsign (n : Nat) (x : Int) : Nat := (x % ((2 ^ n : Nat) : Int)).toNat

/-- The ceiling of a quotient of naturals; 0 divisor gives 0. -/
def ceilDiv (a b : Nat) : Nat := if b = 0 then 0 else (a + b - 1) / b

/-- A count that saturates at 0xFFFF_FFFF (R35, R103). -/
def satInc (w : Word) : Word := if w = 0xFFFFFFFF#32 then w else w + 1

/-- A count raised by `n`, saturating at 0xFFFF_FFFF. -/
def satAdd (w : Word) (n : Nat) : Word :=
  if w.toNat + n < 2 ^ 32 then BitVec.ofNat 32 (w.toNat + n) else 0xFFFFFFFF#32

/-- A number reversed in its low `n` bits. -/
def bitRev : Nat → Nat → Nat
  | 0, _ => 0
  | n + 1, v => (v % 2) * 2 ^ n + bitRev n (v / 2)

/-- The first element of a list that satisfies `p`, with its index. -/
def findIx {α : Type} (p : α → Bool) : List α → Option Nat
  | [] => none
  | x :: t => if p x then some 0 else (findIx p t).map (· + 1)

/-- A list with the element at index `i` changed by `f`. -/
def modAt {α : Type} (l : List α) (i : Nat) (f : α → α) : List α :=
  match l, i with
  | [], _ => []
  | x :: t, 0 => f x :: t
  | x :: t, i + 1 => x :: modAt t i f

/-- A list with the first element that satisfies `p` changed by `f`. -/
def modFirst {α : Type} (p : α → Bool) (f : α → α) : List α → List α
  | [] => []
  | x :: t => if p x then f x :: t else x :: modFirst p f t

/-- A list without the first element that satisfies `p`. -/
def dropFirst {α : Type} (p : α → Bool) : List α → List α
  | [] => []
  | x :: t => if p x then t else x :: dropFirst p t

/-- The sum of a list of naturals. -/
def natSum (l : List Nat) : Nat := l.foldl (· + ·) 0

/-- The greatest of a list of naturals, 0 for none. -/
def natMax (l : List Nat) : Nat := l.foldl max 0

end Sys2Proof.Machine
end

