-- ==== Sys2Proof/Machine/Tables.lean ====
section
/-! DEFINITION. Memory and sparse tables as plain data. A memory lists (address, byte) pairs in one canonical form:
addresses strictly rising, no entry equal to what an unlisted address reads as, which is zero (log entry 2). A table lists
(key, value) pairs with rising keys; an unlisted key has the table's default. -/

namespace Sys2Proof

/-- A memory: listed bytes by address, in canonical form (`Machine.Memory.wf`). -/
abbrev Memory := List Host.Cell

/-- A sparse table with natural keys. -/
abbrev Tbl (α : Type) := List (Nat × α)

namespace Machine

/-- Every listed address is at least `lo`, the addresses rise strictly, and no listed byte is zero. -/
def memWfFrom : Nat → Memory → Bool
  | _, [] => true
  | lo, (k, b) :: t => decide (lo ≤ k) && b != 0 && memWfFrom (k + 1) t

/-- The canonical form of a memory: addresses strictly rising, no zero byte listed. -/
def Memory.wf (m : Memory) : Bool := memWfFrom 0 m

/-- The byte at an address; an unlisted address reads zero (log entry 2). -/
def mget : Memory → Nat → Byte
  | [], _ => 0
  | (k, b) :: t, a => if a < k then 0 else if a = k then b else mget t a

/-- The memory with one byte written. -/
def mput : Memory → Nat → Byte → Memory
  | [], a, b => if b = 0 then [] else [(a, b)]
  | (k, c) :: t, a, b =>
    if a < k then (if b = 0 then (k, c) :: t else (a, b) :: (k, c) :: t)
    else if a = k then (if b = 0 then t else (a, b) :: t)
    else (k, c) :: mput t a b

/-- `n` bytes from address `a` on. -/
def mread (m : Memory) (a : Nat) : Nat → List Byte
  | 0 => []
  | n + 1 => mget m a :: mread m (a + 1) n

/-- The memory with a run of bytes written from address `a` on. -/
def mwrite (m : Memory) (a : Nat) : List Byte → Memory
  | [] => m
  | b :: bs => mwrite (mput m a b) (a + 1) bs

/-- The memory with every listed byte in [a, a+n) gone, so that the range reads zero. -/
def mclear (m : Memory) (a n : Nat) : Memory :=
  m.filter fun c => c.1 < a || a + n ≤ c.1

/-- The memory with the bytes of [src, src+n) copied to [dst, dst+n), the two apart. -/
def mcopy (m : Memory) (src dst n : Nat) : Memory :=
  (m.filter fun c => decide (src ≤ c.1) && decide (c.1 < src + n)).foldl (fun m c => mput m (c.1 - src + dst) c.2) (mclear m dst n)

/-- The little-endian number of `n` bytes at `a`. -/
def mnat (m : Memory) (a n : Nat) : Nat := leNat (mread m a n)

/-- A table's value at a key, `d` where none is listed. -/
def tget {α : Type} (d : α) : Tbl α → Nat → α
  | [], _ => d
  | (k, v) :: t, a => if a < k then d else if a = k then v else tget d t a

/-- The table with the value at a key set. -/
def tput {α : Type} : Tbl α → Nat → α → Tbl α
  | [], a, v => [(a, v)]
  | (k, x) :: t, a, v =>
    if a < k then (a, v) :: (k, x) :: t else if a = k then (a, v) :: t else (k, x) :: tput t a v

/-- A table's value at a key, if listed. -/
def tfind? {α : Type} : Tbl α → Nat → Option α
  | [], _ => none
  | (k, v) :: t, a => if a < k then none else if a = k then some v else tfind? t a

/-- The table without a key. -/
def tdel {α : Type} (t : Tbl α) (a : Nat) : Tbl α := t.filter fun c => c.1 != a

/-- The table with the value at a key changed. -/
def tmod {α : Type} (d : α) (t : Tbl α) (a : Nat) (f : α → α) : Tbl α := tput t a (f (tget d t a))

end Machine
end Sys2Proof
end

