-- ==== Sys2Proof/Machine/TypesConfig.lean ====
section
/-! DEFINITION. The configuration image (chapter 02, R434), its application in progress, the regulators and the PRT registers. -/

namespace Sys2Proof.Machine

/-- A partition record of the configuration image (R83); the read-only fields DEBUG_CONSENT and KEY_GEN are module state. -/
structure PartRec where
  active : Bool
  sealedP : Bool
  vf : Byte
  pfMailboxes : Half
  clusters : Word
  dieGroups : Word
  dramSlices : Word
  engines : Dword
  shDram : Byte
  shFabric : Byte
  shPcieOut : Byte
  shPcieIn : Byte
  shSage : Byte
  rootSegs : Word
  label : List Byte
  deriving DecidableEq, Repr

/-- An inactive partition's record: every field zero, LABEL of spaces. -/
def partRecNone : PartRec :=
  { active := false, sealedP := false, vf := 0, pfMailboxes := 0, clusters := 0, dieGroups := 0, dramSlices := 0
    engines := 0, shDram := 0, shFabric := 0, shPcieOut := 0, shPcieIn := 0, shSage := 0, rootSegs := 0
    label := List.replicate 32 0x20 }

/-- A network port entry of the LINKS section (R434). -/
structure PortRec where
  firstLink : Byte
  lanes : Byte
  owner : Byte
  nflags : Byte
  vlan : Half
  ipv6 : List Byte
  ipv6Plen : Byte
  ipv4 : Word
  ipv4Plen : Byte
  deriving DecidableEq, Repr

/-- An unused port entry. -/
def portRecNone : PortRec :=
  { firstLink := 0, lanes := 0, owner := 0, nflags := 0, vlan := 0, ipv6 := List.replicate 16 0, ipv6Plen := 0
    ipv4 := 0, ipv4Plen := 0 }

/-- The LINKS section (R434). -/
structure LinksRec where
  present : Byte
  evselMb : Half
  groupId : Dword
  msgTimeoutUs : Word
  rtoUs : Half
  shTrunk : List Byte
  ports : List PortRec
  deriving DecidableEq, Repr

/-- A configuration: its epoch, the partition records by partition, and the LINKS section (R82). -/
structure Cfg where
  epoch : Word
  parts : Tbl PartRec
  links : LinksRec
  deriving DecidableEq, Repr

/-- A CONFIG_APPLY executing (R90): its request, the new configuration, the NEW_KEYS bits, the affected partitions, whether
FORCE was set, and whether step 3's resets and steps 4 to 9 are done. -/
structure Applying where
  req : Option ReqId
  img : Cfg
  newKeys : Half
  affected : Half
  force : Bool
  written : Bool
  deriving DecidableEq, Repr

/-- One regulator (R97-R99): its slot table, the slot of the frame that comes next, the frame index, whether the frame is
withheld (R462), the partition last lent to, each waiting partition's wait in slots, and who waits for the system's slots in order of arrival:
16 the system's own work, q the traffic of inactive partition q (R543). -/
structure Regulator where
  table : List Nat
  pos : Nat
  frame : Nat
  withheld : Bool
  lastLent : Nat
  waits : Tbl Nat
  sysQ : List Nat
  deriving DecidableEq, Repr

/-- A regulator before a configuration is loaded: every slot is the system's. -/
def regulatorReset : Regulator :=
  { table := List.replicate 256 16, pos := 0, frame := 0, withheld := false, lastLent := 15, waits := [], sysQ := [] }

/-- A partition's PRT state beside the image (R81, R83, R103). -/
structure PartState where
  /-- Consent given through the DEBUG class. -/
  consent : Bool
  keyGen : Word
  /-- Identity of the flash key and the DRAM key: the number of the generation that made each, module wide (R81). -/
  flashKey : Nat
  dramKey : Nat
  budget : Dword
  waitMax : Half
  lent : Word
  borrowed : Word
  deriving DecidableEq, Repr

/-- A partition's state at first reset (R103). -/
def partStateReset : PartState :=
  { consent := false, keyGen := 0, flashKey := 0, dramKey := 0, budget := 0, waitMax := 0, lent := 0, borrowed := 0 }

/-- Partitions and regulators: the active configuration, the one being applied, per-partition state, the SR-IOV
capability (R31, R95), the regulators by path (0-4, then 8 + q for trunks), and PRT_THROTTLE, FW_SIGNED, IN_ENVELOPE (R103). -/
structure Prt where
  cfg : Cfg
  /-- The active configuration is loaded (R94: KLV_CFG_EPOCH and PRT_EPOCH read 0 until then). -/
  loaded : Bool
  applying : Option Applying
  parts : Tbl PartState
  keyCount : Nat
  vfEnable : Bool
  numVFs : Nat
  regs : Tbl Regulator
  throttle : Word
  fwSigned : Bool
  inEnvelope : Bool
  deriving DecidableEq, Repr

end Sys2Proof.Machine
end

