-- ==== Sys2Proof/Machine/TypesTier.lean ====
section
/-! DEFINITION. Memory tiers as state (chapter 09): objects, tile copies, prefetch schedules, and a partition's pool. -/

namespace Sys2Proof.Machine

/-- A copy of a tile in T1 (each chunk as its 8-byte entry and its frame) or in the root tile cache (decoded chunks), by chunk of the
object (R267, R269, R270): the first-dirty time of each dirty chunk, the holders that reference it (R280), a use stamp, whether the copy is
complete, and until it is, the room kept for it: granules of T1, or chunks of the root tile cache. A tile of a MAPPED object is always in T1: its
copy lists no chunks and carries references only. -/
structure TileCopy where
  chunks : Tbl (List Byte)
  dirty : Tbl Nat
  refs : List Nat
  used : Nat
  complete : Bool
  room : Nat
  deriving DecidableEq, Repr

/-- A PROMOTE executing (R281): request, holder, target, the copies whose references it took, and those that are not complete. -/
structure Promote where
  req : ReqId
  holder : Nat
  root : Bool
  count : Nat
  took : List Nat
  waiting : List Nat
  deriving DecidableEq, Repr

/-- An object (R259-R264). Its chunk table is the one its extent holds; the copy of it in T1 has the same entries. Copies in T1 are by tile; those
in the root tile cache of a partition are by partition * 2^32 + tile, since another partition may stage a shared object (R258). -/
structure Obj where
  gen : Nat
  oflags : Byte
  tileLog2 : Nat
  tiles : Nat
  nsid : Word
  slba : Nat
  daddr : Nat
  shareMask : Half
  t1 : Tbl TileCopy
  root : Tbl TileCopy
  /-- Dirty chunks of a MAPPED object with the time each first became dirty (R276). -/
  mdirty : Tbl Nat
  promotes : List Promote
  deriving DecidableEq, Repr

/-- A prefetch schedule attached to a job (R271-R273). -/
structure Schedule where
  entries : List (List Byte)
  repeatN : Nat
  lookahead : Nat
  pass : Nat
  /-- Entries of the pass already performed; entries begun and not finished: a STAGE whose copy has been started, a STORE whose tile has been
  read from flash ahead of its turn (R273). -/
  doneIx : List Nat
  begun : List Nat
  /-- Tickets of entries whose failure is held (R279): rank, ticket. -/
  failed : List (Nat × Nat)
  deriving DecidableEq, Repr

/-- A partition's tiers (R285). -/
structure TiePart where
  poolBase : Nat
  poolLen : Nat
  rootPin : Word
  srcRoot : Word
  srcT1 : Word
  srcT2 : Word
  srcT3 : Word
  bypass : Word
  fail : Word
  cancelled : Word
  wb : Dword
  deriving DecidableEq, Repr

def tiePartReset : TiePart :=
  { poolBase := 0, poolLen := 0, rootPin := 0, srcRoot := 0, srcT1 := 0, srcT2 := 0, srcT3 := 0, bypass := 0, fail := 0
    cancelled := 0, wb := 0 }

/-- The tier manager: objects by partition * 65536 + index, generations used by the same key, schedules by job key, and the
partitions' registers. -/
structure Tie where
  objs : Tbl Obj
  gens : Tbl Nat
  scheds : Tbl Schedule
  parts : Tbl TiePart
  stamp : Nat
  deriving DecidableEq, Repr

def tieReset : Tie := { objs := [], gens := [], scheds := [], parts := [], stamp := 0 }

end Sys2Proof.Machine
end

