-- ==== Sys2Proof/Machine/Factory.lean ====
section
/-! DEFINITION. What manufacture fixes: the identity of the module (R1-R5, R72, R442; log entry 3) and the factory configuration (R94). -/

namespace Sys2Proof.Machine

/-- What the factory fixes for the module (R1-R5, R72, R73, R442). -/
structure Ident where
  workingArrays : Nat
  flashChannels : Nat
  serial : List Byte
  arrayMap : List Byte
  fwVersion : List Byte
  nodeId : Dword
  macBase : BitVec 48
  deriving DecidableEq, Repr

/-- The factory identity (log entry 3). -/
def Ident.reset : Ident :=
  { workingArrays := 128, flashChannels := 128, serial := ascii "Z9-0001" 20, arrayMap := List.replicate 32 0x0F
    fwVersion := ascii "2.0" 16, nodeId := 0x0000000000000001#64, macBase := 0x020000000000#48 }

/-! ### The factory configuration (R94) -/

/-- Assignable DRAM slices and populated die groups (R2, R77). -/
def assignableSlices (i : Ident) : Nat := if i.flashChannels = 128 then 24 else 25
def populatedGroups (i : Ident) : Nat := i.flashChannels / 4

/-- The factory configuration, by the module's position (R94). -/
def factoryCfg (i : Ident) (pos : Nat) : Cfg :=
  { epoch := 1
    parts := (0, { partRecNone with
      active := true, clusters := 0xFFFFFFFF, dieGroups := BitVec.ofNat 32 (2 ^ populatedGroups i - 1)
      dramSlices := BitVec.ofNat 32 (2 ^ assignableSlices i - 1), engines := 0xFFFFFFFFFFFFFFFF, shDram := 240, shFabric := 240, shPcieOut := 240
      shPcieIn := 240, shSage := 240, rootSegs := 0x0FFFFFFF }) :: (List.range 15).map fun p => (p + 1, partRecNone)
    links := { present := BitVec.ofNat 8 (2 ^ pos), evselMb := 0, groupId := i.nodeId, msgTimeoutUs := 0, rtoUs := 0
               shTrunk := 240#8 :: List.replicate 15 0, ports := List.replicate 12 portRecNone } }

end Sys2Proof.Machine
end

