-- ==== Sys2Proof/Machine/Flags.lean ====
section
/-! DEFINITION. The three numeric flags of R185 and how a computation carries them. -/

namespace Sys2Proof.Machine

/-- NAN_SEEN, NV and OF (R185). -/
structure NumFlags where
  nanSeen : Bool
  nv : Bool
  of : Bool
  deriving DecidableEq, Repr

/-- No flag. -/
def nf0 : NumFlags := { nanSeen := false, nv := false, of := false }

/-- The union of flags: flags are sticky (R185). -/
def nfOr (a b : NumFlags) : NumFlags :=
  { nanSeen := a.nanSeen || b.nanSeen, nv := a.nv || b.nv, of := a.of || b.of }

/-- Single flags. -/
def nfNv : NumFlags := { nanSeen := false, nv := true, of := false }
def nfOf : NumFlags := { nanSeen := false, nv := false, of := true }

/-- Flags of a NaN input, signalling or quiet (R185). -/
def nfNan (signalling : Bool) : NumFlags := { nanSeen := true, nv := signalling, of := false }

/-- The flags as the bits of NUM_FLAGS and of a statistics record (R195, R197). -/
def nfBits (f : NumFlags) : Nat := bnat f.nanSeen + 2 * bnat f.nv + 4 * bnat f.of

/-- The flags that bits [2:0] of a number show. -/
def nfOfBits (n : Nat) : NumFlags := { nanSeen := bitAt n 0, nv := bitAt n 1, of := bitAt n 2 }

end Sys2Proof.Machine
end

