-- ==== Sys2Proof/Machine/TypesCluster.lean ====
section
/-! DEFINITION. Clusters, context slots, arrays, jobs and coherence as state (chapters 03, 04, 08). -/

namespace Sys2Proof.Machine

/-- A command word in a queue: its 32 bytes, its stream offset, and its number in the context's dispatch order. -/
structure QCmd where
  word : List Byte
  pos : Nat
  seq : Nat
  deriving DecidableEq, Repr

/-- The layout registers of one array for one slot (R159); addresses are view addresses divided by 64. -/
structure Layout where
  aStride : Nat
  bStride : Nat
  yStride : Nat
  aScale : Nat
  bScale : Nat
  yScale : Nat
  cbTable : Nat
  stats : Nat
  deriving DecidableEq, Repr

/-- Layout registers at placement (R159). -/
def layoutReset : Layout :=
  { aStride := 0, bStride := 0, yStride := 0, aScale := 0, bScale := 0, yScale := 0, cbTable := 0, stats := 0 }

/-- An entry of the remote table (R250). -/
structure Remote where
  tag : Nat
  /-- A PUT (true) or a GET. -/
  isPut : Bool
  cmd : QCmd
  /-- The partner and the message number of the request. -/
  pos : Nat
  msn : Nat
  /-- The response came while the context was not resident (LANDED). -/
  landed : Bool
  deriving DecidableEq, Repr

/-- A command whose accesses are done and that has not finished (R121): its engine, and the flags it ORs into NUM_FLAGS when it ends (R187). -/
structure Done where
  eng : Engine
  cmd : QCmd
  flags : NumFlags
  deriving DecidableEq, Repr

/-- What a hardware slot does (R257: SCH_SLOT.STATE). -/
inductive SlotState where
  | empty | running | saving | restoring | teardown
  deriving DecidableEq, Repr

/-- A context in a slot, or saved in its rank area (R241, R246, R257). -/
structure Slot where
  st : SlotState
  /-- CLU_SLOT_JOB: the job handle, 0 when empty (R147). -/
  job : Word
  rank : Nat
  /-- SCH_SLOT_EPOCH: the run epoch (R257). -/
  epoch : Word
  pos : Nat
  /-- Loop counters, signal counters and row tickets (R120, R248). -/
  lctr : Tbl Word
  sigcnt : Tbl Half
  tkt : Tbl Half
  /-- NUM_FLAGS, QNT_VCLIP and QNT_VFLUSH of the slot (R197, R218). -/
  flags : NumFlags
  vclip : Word
  vflush : Word
  layout : Tbl Layout
  arrQ : Tbl (List QCmd)
  dmaQ : List QCmd
  vecQ : List QCmd
  remQ : List QCmd
  /-- Commands whose accesses are done and that have not finished (R121). -/
  fin : List Done
  /-- The synchronisation command the dispatcher holds. -/
  cur : Option QCmd
  /-- The budget clock when the dispatcher read that command, and when each row ticket reached each of its counts, by ticket * 65,536 +
  count (R252). -/
  readAt : Dword
  postAt : Tbl Dword
  nextSeq : Nat
  /-- Deadline monitor (R252). -/
  armed : Bool
  deadline : Dword
  altOff : Nat
  step : Nat
  path : BitVec 256
  fallbacks : Word
  stall : Dword
  remotes : List Remote
  nextTag : Nat
  /-- The BAR_ID of the barrier the rank waits at, and how often it has reached each (R248). -/
  barrier : Option Nat
  barCnt : Tbl Nat
  /-- END has been read. -/
  ended : Bool
  /-- SCH_SLOT_FAULT (R257). -/
  faultCode : Byte
  /-- The watchdog count (R249). -/
  wd : Nat
  deriving DecidableEq, Repr

/-- An empty slot. -/
def slotReset : Slot :=
  { st := .empty, job := 0, rank := 0, epoch := 0, pos := 0, lctr := [], sigcnt := [], tkt := [], flags := nf0, vclip := 0
    vflush := 0, layout := [], arrQ := [], dmaQ := [], vecQ := [], remQ := [], fin := [], cur := none, readAt := 0, postAt := [], nextSeq := 0
    armed := false, deadline := 0, altOff := 0, step := 0, path := 0, fallbacks := 0, stall := 0, remotes := [], nextTag := 0
    barrier := none, barCnt := [], ended := false, faultCode := 0, wd := 0 }

/-- The identity and guard of a held tile (R162, R203): slot, view address / 64, stride, format, stored extents, scale stream and
codebook table if used, and the guarded physical ranges (address, length). -/
structure Held where
  slot : Nat
  addr : Nat
  stride : Nat
  fmt : Nat
  rows : Nat
  cols : Nat
  scale : Option Nat
  cb : Option Nat
  guard : List (Nat × Nat)
  deriving DecidableEq, Repr

/-- A self-test of an array (R167-R169): its request, its number of patterns, whether it has been taken offline, has yielded to a
pinned command, was asked to clear FAILED, stops at the next pattern boundary, and when a command for the array was last executing or
queued (R168). -/
structure ArrTest where
  req : ReqId
  total : Nat
  running : Bool
  yielded : Bool
  clearFailed : Bool
  stop : Bool
  idleAt : Nat
  deriving DecidableEq, Repr

/-- A logical array (R171). -/
structure Arr where
  /-- 0 free, 1 granted, 2 offline for a self-test; FAILED is `failed`, kept in the firmware store (R166). -/
  st : Fin 4
  failed : Bool
  slot : Fin 4
  held : Option Held
  pinned : Bool
  shape : Nat
  busy : Dword
  macs : Dword
  reload : Word
  lastFault : Byte
  lastFaultSlot : Fin 4
  patterns : Word
  yields : Word
  fails : Word
  test : Option ArrTest
  /-- Array cycles of the holder's own commands since its grant (R243). -/
  quantum : Nat
  deriving DecidableEq, Repr

/-- An array at reset. -/
def arrReset : Arr :=
  { st := 0, failed := false, slot := 0, held := none, pinned := false, shape := 0, busy := 0, macs := 0, reload := 0, lastFault := 0
    lastFaultSlot := 0, patterns := 0, yields := 0, fails := 0, test := none, quantum := 0 }

/-- State of a cache line (R138). -/
inductive LineState where
  | i | s | e | m
  deriving DecidableEq, Repr

/-- A line held by a caching agent: its state and its data. -/
structure CLine where
  st : LineState
  data : List Byte
  deriving DecidableEq, Repr

/-- A cluster (R147, R197, R218, R235). -/
structure Cluster where
  cycle : Dword
  /-- CLU_SEG_CFG, and CLU_SLOT_XLAT by slot (R123, R124). -/
  segCfg : Word
  xlat : Tbl Word
  /-- Segments being cleared, with the cluster cycles left (R126). -/
  clearing : Tbl Nat
  cacheHit : Dword
  cacheMiss : Dword
  backinv : Word
  nbFault : Word
  outNan : Word
  outClip : Word
  mxNan : Word
  mxRaised : Word
  katDone : Bool
  katFail : Bool
  thyWords : Dword
  /-- Row accesses presented, in order of arrival (R116, R118); a read that was served keeps its row until the reads of its port
  before it have been returned. -/
  ports : List (RowAccess × Option (List Byte))
  /-- Row data returned to the engines, by port, in request order (R116). -/
  reads : List (Port × List Byte)
  /-- 15-bit replacement trees by set (R134), and the line each way holds, by set * 16 + way. -/
  trees : Tbl (BitVec 15)
  ways : Tbl LineNo
  /-- The dispatcher has read its word of this cluster cycle, and the slot it read from last (R542). -/
  dispatched : Bool
  dispSlot : Fin 4
  /-- The slots whose commands the DMA engine and the vector unit took last (R244). -/
  dmaLast : Fin 4
  vecLast : Fin 4
  deriving DecidableEq, Repr

/-- A cluster at reset (R147). -/
def clusterReset : Cluster :=
  { cycle := 0, segCfg := 0x001FFFFF#32, xlat := [], clearing := [], cacheHit := 0, cacheMiss := 0, backinv := 0
    nbFault := 0, outNan := 0, outClip := 0, mxNan := 0, mxRaised := 0, katDone := false, katFail := false, thyWords := 0
    ports := [], reads := [], trees := [], ways := [], dispatched := false, dispSlot := 3, dmaLast := 3, vecLast := 3 }

/-- The directory state of a line (R138). -/
inductive DirState where
  | u
  | s (v : List AgentId)
  | o (a : AgentId)
  | wbp (writer : AgentId)
  deriving DecidableEq, Repr

/-- Kinds of request on the REQ channel (R137). -/
inductive CohKind where
  | rdS | rdX | upg | rdNc | wrNc | wrNcPart
  deriving DecidableEq, Repr

/-- A request at the directory. -/
structure CohReq where
  kind : CohKind
  r : AgentId
  mask : Dword
  data : List Byte
  deriving DecidableEq, Repr

/-- The transaction a line is busy with: the request, the agents whose answers are awaited, and data returned (R139). -/
structure CohTxn where
  req : CohReq
  await : List AgentId
  data : Option (List Byte)
  keepS : Bool
  deriving DecidableEq, Repr

/-- Messages of the four channels, other than requests (R137). -/
inductive CohMsg where
  | inv | recall | downgrade
  | wb (data : List Byte) | cleanEvict | invAck | dataM (data : List Byte) | dataClean (data : List Byte) | ackWb
  | gntS (data : List Byte) | gntE (data : List Byte) | gntX (data : List Byte) | gntUpg | wbAck
  | ncData (data : List Byte) | ncAck
  deriving DecidableEq, Repr

/-- The four virtual channels (R137). -/
inductive CohChan where
  | req | prb | rsp | gnt
  deriving DecidableEq, Repr

/-- A line's directory entry: state, busy transaction, waiting requests in order of arrival, and a stamp of its last use. -/
structure Dir where
  st : DirState
  txn : Option CohTxn
  queue : List CohReq
  /-- Data of a WB received and not yet committed (R141). -/
  wbData : Option (List Byte)
  used : Nat
  deriving DecidableEq, Repr

/-- A line the directory does not hold. -/
def dirReset : Dir := { st := .u, txn := none, queue := [], wbData := none, used := 0 }

/-- Coherence: directory entries by line, the caching agents' lines by agent, requests an agent has outstanding and probes it holds
(R140), the tie pointer of each home agent (R139), messages sent and not yet received, and the use stamp. -/
structure Coh where
  dir : Tbl Dir
  caches : Tbl (Tbl CLine)
  wanted : List (LineNo × AgentId × CohKind)
  heldProbes : List (LineNo × AgentId × CohMsg)
  /-- Writebacks and clean evictions sent and not acknowledged (R141). -/
  wbOut : List (LineNo × AgentId)
  tie : Tbl Nat
  /-- Requests of a cycle that is not over yet, in order of arrival (R139). -/
  arrivals : List (LineNo × CohReq)
  net : List (LineNo × AgentId × CohMsg)
  stamp : Nat
  deriving DecidableEq, Repr

/-- No line cached anywhere. -/
def cohReset : Coh :=
  { dir := [], caches := [], wanted := [], heldProbes := [], wbOut := [], tie := [], arrivals := [], net := [], stamp := 0 }

/-- Job states (R241). -/
inductive JobState where
  | queued | running | saving | saved | restoring | ended | loaded
  deriving DecidableEq, Repr

/-- How a job ends (R254, R255): the status and DETAIL its RUN completes with. -/
structure JobEnd where
  status : Nat
  detail : Nat
  deriving DecidableEq, Repr

/-- The fault record of a job (R255). -/
structure JobFault where
  code : Nat
  rank : Nat
  cluster : Nat
  slot : Nat
  pos : Nat
  addr : Nat
  deriving DecidableEq, Repr

/-- A loaded job (R236, R237, R255). -/
structure Job where
  part : Nat
  index : Nat
  gen : Half
  header : List Byte
  peers : List Byte
  imageBase : Nat
  rankBase : Nat
  st : JobState
  runEpoch : Word
  seed : Dword
  run : Option ReqId
  forceStrict : Bool
  /-- Slot index and cluster of each rank while resident. -/
  slotIx : Nat
  clusters : List Nat
  /-- A SAVED job may be restored: RESUME was given, or it was evicted for another job. -/
  eligible : Bool
  placedAt : Nat
  queuedAt : Nat
  /-- The budget clock at placement, and the budget cycles from placement to end of a job that has ended (R255). -/
  budget0 : Dword
  ran : Nat
  ending : Option JobEnd
  fault : Option JobFault
  /-- Saved contexts by rank (R246). -/
  saved : Tbl Slot
  /-- Totals of contexts that have left their slots, for the run record (R255). -/
  path : BitVec 256
  fallbacks : Word
  flags : NumFlags
  vclip : Nat
  vflush : Nat
  stall : Nat
  /-- A SUSPEND waiting for room among saved contexts (R247). -/
  suspends : List ReqId
  deriving DecidableEq, Repr

/-- The scheduler's registers of a partition (R257). -/
structure SchPart where
  stall : Tbl Dword
  fallbacks : Word
  preempts : Word
  evictions : Word
  lateDrop : Word
  /-- Load generations used by table index (R255). -/
  gens : Tbl Half
  deriving DecidableEq, Repr

def schPartReset : SchPart :=
  { stall := [], fallbacks := 0, preempts := 0, evictions := 0, lateDrop := 0, gens := [] }

/-- The scheduler: jobs by partition * 256 + index, per-partition registers, and the order counter of placements. -/
structure Sch where
  jobs : Tbl Job
  parts : Tbl SchPart
  order : Nat
  deriving DecidableEq, Repr

def schReset : Sch := { jobs := [], parts := [], order := 0 }

end Sys2Proof.Machine
end

