-- ==== Sys2Proof/Machine/TypesFtl.lean ====
section
/-! DEFINITION. Flash media and its translation layer as state (chapter 13). -/

namespace Sys2Proof.Machine

/-- What a flash page holds beside its data (R393, R397, R402): a copy of a unit or fragments, a journal page of zeroes or of a
deallocation, a parity unit, a commit record, or a mode record. -/
inductive PageKind where
  | data | zeroes | dealloc | parity | commit | mode
  deriving DecidableEq, Repr

/-- A programmed page: its 16 KiB (empty for a page without data) and its spare area (R393). `lba` and `count` are the blocks a journal
page names; a commit record holds the epoch and a mode record the mode in `count`. -/
structure FPage where
  kind : PageKind
  data : List Byte
  nsid : Nat
  unit : Nat
  mask : Nat
  seq : Nat
  lba : Nat
  count : Nat
  deriving DecidableEq, Repr

/-- Life of a superblock. -/
inductive SbState where
  | free | open_ | closed | erasing
  deriving DecidableEq, Repr

/-- A superblock (R389, R390, R405, R407): `next` the next slot in rotating die order, `stripe` the data units since the last parity
unit, erases in twentieths of a QLC erase, retired members as die * 6 + plane. -/
structure Sb where
  st : SbState
  next : Nat
  stripe : List Nat
  closedAt : Nat
  erases : Nat
  retired : List Nat
  deriving DecidableEq, Repr

def sbReset : Sb := { st := .free, next := 0, stripe := [], closedAt := 0, erases := 0, retired := [] }

/-- A fragment record (R392). -/
structure FragRec where
  base : Nat
  mask : Nat
  frags : List Nat
  deriving DecidableEq, Repr

/-- A die operation in flight (R389): what it is, the die, the plane-block (superblock and plane), the page address for a read or a
program, and the NVMe command that waits for it. -/
structure DieOp where
  kind : NandKind
  die : Nat
  plane : Nat
  sb : Nat
  page : Nat
  owner : Option CmdKey
  deriving DecidableEq, Repr

/-- A die group (R389-R408, R414). -/
structure Group where
  /-- 0 RECOVERING, 1 READY, 2 READ_ONLY. -/
  st : Fin 3
  folding : Bool
  reclaiming : Bool
  sbs : Tbl Sb
  seq : Nat
  frags : Tbl FragRec
  spare : Nat
  retired : Nat
  soft : Word
  recov : Word
  uncorr : Word
  rewrites : Word
  thresh : Byte
  hostUnits : Nat
  mediaUnits : Nat
  /-- The newest durable checkpoint: its sequence number, map entries and fragment records, and when it was written. -/
  ckptSeq : Nat
  ckptMap : Tbl Nat
  ckptFrags : Tbl FragRec
  ckptAt : Nat
  /-- Journal bytes written since that checkpoint, and whether the group was written. -/
  journal : Nat
  ops : List DieOp
  /-- Superblocks scheduled for rewrite (R406). -/
  toRewrite : List Nat
  /-- Times of uncorrectable reads (R409). -/
  uncorrTimes : List Nat
  deriving DecidableEq, Repr

def groupReset : Group :=
  { st := 0, folding := false, reclaiming := false, sbs := [], seq := 1, frags := [], spare := 1728, retired := 0, soft := 0
    recov := 0, uncorr := 0, rewrites := 0, thresh := 96, hostUnits := 0, mediaUnits := 0, ckptSeq := 0, ckptMap := []
    ckptFrags := [], ckptAt := 0, journal := 0, ops := [], toRewrite := [], uncorrTimes := [] }

/-- A namespace (R359, R360, R397, R402): size in blocks, attached controllers as bits, shared flag, commit epoch, legacy flush mode. -/
structure Ns where
  blocks : Nat
  attached : BitVec 17
  shared : Bool
  epoch : Word
  legacy : Bool
  deriving DecidableEq, Repr

/-- A pinned epoch (R397): the request, the namespace, and the units replaced since, as they stood at the pin. -/
structure Pin where
  req : ReqId
  nsid : Nat
  epoch : Word
  old : Tbl FragRec
  cached : List (Nat × List Byte)
  deriving DecidableEq, Repr

/-- An extent claimed by a service (R262, R289, R337), with a name of its claimant. -/
structure Claim where
  nsid : Nat
  lba : Nat
  len : Nat
  kind : Nat
  key : Nat
  deriving DecidableEq, Repr

/-- Position of a flash channel in its frame of 64 slots (R383): slots granted to URGENT and BACKGROUND in the frame, whether HOST had
the last slot HOST and SERVICE alternate over, and the class of the last grant (0 none, 1 URGENT, 2 HOST, 3 SERVICE, 4 BACKGROUND). -/
structure Chan where
  slot : Fin 64
  urgent : Nat
  background : Nat
  lastHost : Bool
  grant : Fin 5
  deriving DecidableEq, Repr

def chanReset : Chan := { slot := 0, urgent := 0, background := 0, lastHost := false, grant := 0 }

/-- One interval of the temperature history (R411). -/
structure TempInterval where
  min : Nat
  max : Nat
  mean : Nat
  flags : Nat
  deriving DecidableEq, Repr

/-- Flash: the map by nsid * 2^34 + unit, pages by packed address, groups, namespaces, pins, claims, the legacy write cache as
(nsid, block, data), channels, hold-up energy (R403) and whether it has been measured since the last reset, power losses, health counters by
partition (R409) and the temperature history. -/
structure Ftl where
  map : Tbl Nat
  pages : Tbl FPage
  groups : Tbl Group
  nss : Tbl Ns
  pins : List Pin
  claims : List Claim
  cache : List (Nat × Nat × List Byte)
  chans : Tbl Chan
  energy : Half
  measured : Bool
  powerLosses : Word
  unsafeShutdowns : Nat
  readBlocks : Tbl Nat
  writtenBlocks : Tbl Nat
  readCmds : Tbl Nat
  writeCmds : Tbl Nat
  mediaErrors : Tbl Nat
  temps : List TempInterval
  tempAt : Dword
  lifetime : Tbl Nat
  /-- Composite samples of the current hour: sum, count, least, greatest, flags. -/
  hour : Nat × Nat × Nat × Nat × Nat
  /-- Power cycles, and samples at or above the critical temperature (R409, as the NVMe base specification defines; log entry 23). -/
  powerCycles : Nat
  critSamples : Nat
  /-- What the health logs last told: by partition Critical Warning, Available Spare, Percentage Used and Media Errors (R71); by controller Critical
  Warning (R374). -/
  healthTold : Tbl (List Nat)
  warnTold : Tbl Nat
  deriving DecidableEq, Repr

def ftlReset : Ftl :=
  { map := [], pages := [], groups := [], nss := [], pins := [], claims := [], cache := [], chans := [], energy := 0, measured := false
    powerLosses := 0, unsafeShutdowns := 0, readBlocks := [], writtenBlocks := [], readCmds := [], writeCmds := []
    mediaErrors := [], temps := [], tempAt := 0, lifetime := [], hour := (0, 0, 0, 0, 0), powerCycles := 0, critSamples := 0
    healthTold := [], warnTold := [] }

end Sys2Proof.Machine
end

