-- ==== Sys2Proof/Machine/TypesIngest.lean ====
section
/-! DEFINITION. Video ingest as state (chapter 10): sources, catalogue generations, delivery targets and sampling runs. -/

namespace Sys2Proof.Machine

/-- A frame of a source (R290): its pictures by decoding order, PTS, whether it is a pair of fields, size, chroma and depth, and whether it is
damaged, follows a discontinuity, or carries film grain. -/
structure FrameRec where
  pics : List Nat
  pts : Nat
  interlaced : Bool
  width : Nat
  height : Nat
  chroma : Nat
  depth : Nat
  damaged : Bool
  discontinuity : Bool
  grain : Bool
  deriving DecidableEq, Repr, Inhabited

/-- What parsing found in a source (R286-R290): its program, codec as SOURCE_INFO numbers it, whether its edit list is ignored, its frames in
presentation order, and the frames a break follows. -/
structure SrcInfo where
  prog : Config.Program
  codec : Nat
  editsIgnored : Bool
  frames : List FrameRec
  breaks : List Nat
  deriving DecidableEq, Repr, Inhabited

/-- A source (R289): its identifier, extents, and what parsing found. -/
structure Source where
  id : Nat
  nsid : Nat
  container : Nat
  program : Nat
  slba : Nat
  bytes : Nat
  indexSlba : Nat
  info : SrcInfo
  /-- Requests taken before it was registered; the order of acceptance of its REMOVE_SOURCE, which takes effect at the first COMMIT accepted
  later (R291, R292). -/
  since : Nat
  removed : Option Nat
  deriving DecidableEq, Repr

/-- A catalogue generation (R291). -/
structure Generation where
  num : Nat
  clipFrames : Nat
  stride : Nat
  excludeBreaks : Bool
  sources : List Source
  deriving DecidableEq, Repr

/-- An RDMA WRITE not yet acknowledged whole (R313, R314): piece number, whether it is the notice, its first PSN, packets, the packets of it that are
acknowledged, address, data. -/
structure RdmaWrite where
  k : Nat
  notice : Bool
  psn : Nat
  packets : Nat
  acked : Nat
  addr : Nat
  data : List Byte
  deriving DecidableEq, Repr

/-- A delivery target (R314, R319): its descriptor, the values the module chose for it, the credit, pieces sent and delivered, the next PSN sent
and the next expected, writes in flight, consecutive timeouts, rate in Mb/s, when the rate was last changed, when the ACK timer started, and when the
rate lets the next packet go. -/
structure Target where
  desc : List Byte
  localQpn : Nat
  creditRkey : Nat
  creditAddr : Nat
  consumed : Nat
  sent : Nat
  delivered : Nat
  psn : Nat
  rqPsn : Nat
  flight : List RdmaWrite
  timeouts : Nat
  rate : Nat
  rateAt : Nat
  sentAt : Nat
  freeAt : Nat
  failed : Bool
  deriving DecidableEq, Repr

/-- A sample decoded for the batch being built (R309, R317): position, element, clip, STATUS. -/
structure SampleRec where
  pos : Nat
  elem : Nat
  clip : Option Nat
  status : Nat
  deriving DecidableEq, Repr

/-- A staged piece (R311): its batch, the entry of the target list it goes to, and where in the stage area it lies. -/
structure Piece where
  batch : Nat
  entry : Nat
  addr : Nat
  len : Nat
  deriving DecidableEq, Repr

/-- A sampling run (R293-R321). -/
structure Run where
  req : ReqId
  desc : List Byte
  seed : Dword
  gen : Generation
  n : Nat
  /-- The next batch to build, and one past the last. -/
  batch : Nat
  stop : Nat
  samples : List SampleRec
  staged : List Piece
  /-- Batches delivered, by batch. -/
  delivered : List Nat
  pieces : Nat
  samplesDone : Nat
  damaged : Nat
  unreadable : Nat
  pictures : Nat
  failed : Half
  deriving DecidableEq, Repr

/-- A partition's ingest (R323). -/
structure IngPart where
  sources : List Source
  /-- Reuse counts by source index. -/
  reuse : Tbl Nat
  lastGen : Nat
  gens : List Generation
  targets : Tbl Target
  run : Option Run
  scanned : Nat
  damaged : Word
  unreadable : Word
  tgtFailed : Half
  nextBatch : Nat
  packets : Word
  deriving DecidableEq, Repr

def ingPartReset : IngPart :=
  { sources := [], reuse := [], lastGen := 0, gens := [], targets := [], run := none, scanned := 0, damaged := 0, unreadable := 0
    tgtFailed := 0, nextBatch := 0, packets := 0 }

/-- A decode engine's counters (R323). -/
structure Fennel where
  pictures : Nat
  errors : Word
  deriving DecidableEq, Repr

def fennelReset : Fennel := { pictures := 0, errors := 0 }

/-- Ingest: partitions and engines. -/
structure Ing where
  parts : Tbl IngPart
  engines : Tbl Fennel
  deriving DecidableEq, Repr

def ingReset : Ing := { parts := [], engines := [] }

end Sys2Proof.Machine
end

