-- ==== Sys2Proof/Machine/TypesKlova.lean ====
section
/-! DEFINITION. Klova state (chapter 01): completion images, records, executing requests, events and the mailbox. -/

namespace Sys2Proof.Machine

/-- A completion image without DSEQ, PHASE and REPLAY, which posting adds (R50, R54). -/
structure Cpl where
  cls : Byte
  op : Byte
  status : Half
  hseq : Word
  tag : Word
  ts : Dword
  result : Word
  detail : Half
  committed : Bool
  deriving DecidableEq, Repr

/-- The record of an accepted request (R52, R53): its header while PENDING, its completion image once completed, and
the DSEQ of the original posting, 0 if never posted (R70). -/
structure Rec where
  hseq : Word
  cls : Byte
  op : Byte
  tag : Word
  cpl : Option Cpl
  dseq : Word
  deriving DecidableEq, Repr

/-- Where a request on an Evsel mailbox came from (R437, R438): the connection, the sender's message number and incarnation,
and the in-payload carried inline. -/
structure EvOrigin where
  pos : Nat
  part : Nat
  msn : Nat
  incarnation : Nat
  inPayload : List Byte
  deriving DecidableEq, Repr

/-- A request accepted (or consumed out of window) and not completed (R57, R58, R66). -/
structure Exec where
  /-- The 64 bytes of the entry as consumed (R47). -/
  entry : List Byte
  hseq : Word
  oow : Bool
  /-- Timestamp of acceptance, from which the upper timeout counts (R66). -/
  acceptTs : Dword
  /-- Effective upper timeout in microseconds; none: no timeout (R65). -/
  timeoutUs : Option Nat
  /-- The negotiated version of its acceptance (R57). -/
  ver : Byte
  /-- Execution has begun (R58). -/
  begun : Bool
  /-- The commit point has passed (R66, R67). -/
  committed : Bool
  /-- Replays to post after the original's completion, each to the origin that resubmitted it (R54, R437). -/
  replays : List (Option EvOrigin)
  evsel : Option EvOrigin
  /-- READ_RECORDS: the records as they stood immediately before the entry was consumed (R70). -/
  snap : List Byte
  /-- The configuration of its acceptance, under which it runs (R93, R108). -/
  cfg : Cfg
  /-- Its place in the order of acceptance over all mailboxes. -/
  order : Nat
  /-- Another CONFIG_APPLY was executing when it was accepted (R86). -/
  applying : Bool
  deriving DecidableEq, Repr

/-- A completion produced and not yet posted (R46); an Evsel mailbox's carries its origin and inline out-payload (R437). -/
structure Waiting where
  cpl : Cpl
  replay : Bool
  oow : Bool
  evsel : Option EvOrigin
  outPayload : List Byte
  deriving DecidableEq, Repr

/-- An entry of a mailbox's event queue (R71): an event, or a count of events lost at that point. -/
inductive Event where
  | ev (code detail : Half)
  | lost (count : Half)
  deriving DecidableEq, Repr

/-- A mailbox (R35): the fields of its register window and the device's own state behind them. -/
structure Mailbox where
  /-- KLV_CTRL fields (R35). -/
  en : Bool
  dmaBlock : Bool
  msixEn : Bool
  reqLog2 : BitVec 4
  cplLog2 : BitVec 4
  msixVec : BitVec 11
  /-- KLV_STS fields (R35). -/
  enabled : Bool
  active : Bool
  resetting : Bool
  cfgErr : Bool
  ver : Byte
  /-- KLV_REQ_BASE, KLV_CPL_BASE, KLV_HSEQ_BASE, KLV_DEF_TIMEOUT (R35). -/
  reqBase : Dword
  cplBase : Dword
  hseqBase : Word
  defTimeout : Word
  /-- KLV_NEXT_HSEQ, KLV_NEXT_DSEQ, KLV_REQ_HEAD, KLV_CPL_TAIL, KLV_LATE_CNT, KLV_HELD_CNT (R35). -/
  nextHseq : Word
  nextDseq : Word
  reqHead : Word
  cplTail : Word
  lateCnt : Word
  heldCnt : Word
  /-- The host's request tail and completion head, as last rung (R37, R42). -/
  reqTail : Nat
  cplHead : Nat
  /-- PHASE of the current pass of the completion ring (R38, R44). -/
  phase : Bool
  /-- A posting may send an MSI-X message: none was sent since KLV_CPL_DB was last written (R41). -/
  msixArmed : Bool
  /-- Completions were posted since the last message, none of them signalled (R41). -/
  msixDue : Bool
  /-- EN has changed to 1 and ENABLED has not risen yet (R38). -/
  rising : Bool
  /-- Records by HSEQ (R52, R53). -/
  recs : Tbl Rec
  /-- Requests accepted and not completed, oldest first (R45, R58). -/
  execs : List Exec
  /-- Completions produced and not posted, oldest first (R46). -/
  waiting : List Waiting
  /-- Queued events, oldest first (R71). -/
  events : List Event
  /-- An EVENT_WAIT has been received since the mailbox's last reset (R71). -/
  registered : Bool
  deriving DecidableEq, Repr

/-- A mailbox at its reset values (R35). -/
def mailboxReset : Mailbox :=
  { en := false, dmaBlock := false, msixEn := false, reqLog2 := 6, cplLog2 := 6, msixVec := 0
    enabled := false, active := false, resetting := false, cfgErr := false, ver := 0
    reqBase := 0, cplBase := 0, hseqBase := 0, defTimeout := 0x00989680#32
    nextHseq := 0, nextDseq := 0, reqHead := 0, cplTail := 0, lateCnt := 0, heldCnt := 0
    reqTail := 0, cplHead := 0, phase := true, msixArmed := true, msixDue := false, rising := false
    recs := [], execs := [], waiting := [], events := [], registered := false }

/-- Klova: the 256 mailboxes, the count of Tilir starts, and the epoch requests are checked against (R29, R35). -/
structure Klova where
  mbs : Tbl Mailbox
  incarnation : Word
  /-- Tilir has started since POR: KLV_INCARNATION counts the later starts (R35). -/
  started : Bool
  cfgEpoch : Word
  /-- The mailbox whose turn is next in each partition's round robin (R45). -/
  turn : Tbl Nat
  /-- Requests taken by the device so far, the order of acceptance over all mailboxes. -/
  taken : Nat
  deriving DecidableEq, Repr

/-- A PCIe transaction on host memory: the function whose requester ID it carries (R80), the partition whose regulators it passes, or 16 for the
system's slots (R97, R365, R543), a write or a read, the address and length. -/
structure HostAccess where
  fn : Nat
  pass : Nat
  write : Bool
  addr : Nat
  len : Nat
  deriving DecidableEq, Repr

/-- What a RoCEv2 packet does (R313): the First or Only packet of an RDMA WRITE names RKEY, address and length. -/
inductive RoceOp where
  | writeFirst (rkey addr len : Nat)
  | writeMiddle
  | writeLast
  | writeOnly (rkey addr len : Nat)
  | ack
  deriving DecidableEq, Repr

/-- A RoCEv2 packet (R313): VLAN tag, MAC addresses, IP version and addresses, DSCP, whether it is marked ECT(0), UDP ports, the QP and PSN it goes to,
its operation, its data, and the integrity check value. -/
structure RocePacket where
  vlan : Option Nat
  srcMac : Nat
  dstMac : List Byte
  ipv : Nat
  src : List Byte
  dst : List Byte
  dscp : Nat
  ect0 : Bool
  sport : Nat
  dport : Nat
  dqpn : Nat
  psn : Nat
  op : RoceOp
  data : List Byte
  icrc : Word
  deriving DecidableEq, Repr

/-- What the module sends outward: MSI-X messages (R41), frames on a link (R424, R422), RoCEv2 packets to a target (R313),
management responses (R534), test port data (R510). -/
inductive Out where
  | msix (fn vec : Nat)
  | frame (link : Nat) (wrap header payload : List Byte)
  | ether (link : Nat) (bytes : List Byte)
  | roce (part target : Nat) (packet : RocePacket)
  | mi (bytes : List Byte)
  | tap (bits : Nat)
  deriving DecidableEq, Repr

end Sys2Proof.Machine
end

