-- ==== Sys2Proof/Machine/TypesLink.lean ====
section
/-! DEFINITION. Links, trunks and Evsel connections as state (chapter 14). -/

namespace Sys2Proof.Machine

/-- A link (R421-R423, R442): state code, what the last HELLO said, with the partner's incarnation, departures from UP in the last 10 s, when a flap hold ends, when the last
valid HELLO came, when the next HELLO and LLDP frames are due, and when its last byte queued will have left, in byte times (R426). -/
structure Link where
  st : Fin 6
  partnerPos : Nat
  partnerLink : Nat
  partnerNode : Dword
  downs : Word
  fecCorr : Dword
  fecUncorr : Word
  recent : List Nat
  holdUntil : Nat
  helloAt : Nat
  helloDue : Nat
  lldpDue : Nat
  partnerInc : Option Word
  txEnd : Nat
  deriving DecidableEq, Repr

def linkReset : Link :=
  { st := 0, partnerPos := 0, partnerLink := 0, partnerNode := 0, downs := 0, fecCorr := 0, fecUncorr := 0, recent := [], holdUntil := 0, helloAt := 0, helloDue := 0
    lldpDue := 0, partnerInc := none, txEnd := 0 }

/-- Whom a message's fate concerns: a FORWARD, a remote entry of a rank's context (R250), or no one. -/
inductive MsgOwner where
  | forward (r : ReqId)
  | remote (job : Word) (rank : Nat) (runEpoch : Word) (tag : Nat) (isPut : Bool)
  | nobody
  deriving DecidableEq, Repr

/-- A message to a partner (R426-R429): number, kind, payload, first PSN, when its first packet was sent, and time spent under NACK_RNR. -/
structure OutMsg where
  msn : Nat
  kind : Nat
  payload : List Byte
  psn : Nat
  owner : MsgOwner
  sentAt : Nat
  paused : Nat
  deriving DecidableEq, Repr

/-- A DATA packet held by the receiver (R426). -/
structure EvPacket where
  first : Bool
  last : Bool
  msn : Nat
  kind : Nat
  payload : List Byte
  deriving DecidableEq, Repr

/-- A complete message not yet consumed: its first PSN, and that of its last packet. -/
structure InMsg where
  msn : Nat
  kind : Nat
  payload : List Byte
  psn : Nat
  lastPsn : Nat
  deriving DecidableEq, Repr

/-- A connection with a partner (R426-R430). Sender: epoch, next PSN and MSN, outstanding messages, messages that wait (R429), the RTO and
since when ACK_PSN stands, and the resend due after a NACK_RNR. Receiver: the partner's epoch, the first PSN not yet in a complete message,
packets held, complete messages, packets not yet acknowledged and since when, and since when a gap stands. FORWARDs acknowledged and not
completed, with their inner requests (R438). -/
structure Conn where
  txEpoch : Nat
  nextPsn : Nat
  nextMsn : Nat
  msgs : List OutMsg
  waiting : List OutMsg
  acked : Nat
  rto : Nat
  progressAt : Nat
  rnrAt : Option Nat
  rxEpoch : Option Nat
  rxBase : Nat
  held : Tbl EvPacket
  inbox : List InMsg
  unacked : Nat
  unackedAt : Nat
  gapAt : Option Nat
  forwards : List (ReqId × List Byte)
  deriving DecidableEq, Repr

def connReset : Conn :=
  { txEpoch := 0, nextPsn := 0, nextMsn := 0, msgs := [], waiting := [], acked := 0, rto := 0, progressAt := 0, rnrAt := none
    rxEpoch := none, rxBase := 0, held := [], inbox := [], unacked := 0, unackedAt := 0, gapAt := none, forwards := [] }

/-- A trunk (R430, R442): the partner's incarnation once a HELLO has shown one, and counters. -/
structure Trunk where
  incarnation : Option Word
  retx : Word
  dup : Word
  fail : Word
  rnr : Word
  bad : Word
  deriving DecidableEq, Repr

def trunkReset : Trunk := { incarnation := none, retx := 0, dup := 0, fail := 0, rnr := 0, bad := 0 }

/-- Links by number, trunks by position, connections by position * 16 + partition. -/
structure Lnk where
  links : Tbl Link
  trunks : Tbl Trunk
  conns : Tbl Conn
  deriving DecidableEq, Repr

def lnkReset : Lnk := { links := [], trunks := [], conns := [] }

end Sys2Proof.Machine
end

