-- ==== Sys2Proof/Machine/TypesNvme.lean ====
section
/-! DEFINITION. NVMe controllers as state (chapter 12): properties, queues, commands, features and logs. -/

namespace Sys2Proof.Machine

/-- A submission queue: entries, base, completion queue, priority class (0 urgent), ordered mark (R367), head and tail, and the doorbell
writes not used up: how many entries each made visible, and when (R375). A queue being deleted gives no more commands (R387). -/
structure Sq where
  size : Nat
  base : Nat
  cqid : Nat
  prio : Nat
  ordered : Bool
  head : Nat
  tail : Nat
  dbs : List (Nat × Nat)
  deleting : Bool
  deriving DecidableEq, Repr

/-- What a completion says: command key, DW0, status code type and code, do-not-retry. -/
structure NCpl where
  key : CmdKey
  dw0 : Nat
  sct : Nat
  sc : Nat
  dnr : Bool
  deriving DecidableEq, Repr

/-- A completion queue; a command whose queue is full stays outstanding until its completion has a place. -/
structure Cq where
  size : Nat
  base : Nat
  iv : Nat
  ien : Bool
  head : Nat
  tail : Nat
  phase : Bool
  deriving DecidableEq, Repr

/-- A command fetched and not completed (R364-R368, R386): its entry, place in fetch order, class, the doorbell that made it visible,
whether it is past its commit point, pages programmed for it and not yet in effect, whether it is journalled, and its completion
until it is posted: held back by an ordered queue (R367) or by a full completion queue. `ordered` is the mark of its queue at its
fetch. -/
structure NCmd where
  key : CmdKey
  sqe : List Byte
  order : Nat
  urgent : Bool
  ordered : Bool
  dbTs : Nat
  committed : Bool
  pend : List Nat
  journalled : Bool
  done : Option NCpl
  deriving DecidableEq, Repr

/-- A device self-test running (R378, R379): short or extended, its NSID, the segment and step it is at, whether it is stopped for host
commands. -/
structure SelfTest where
  ext : Bool
  nsid : Nat
  segment : Nat
  step : Nat
  stopped : Bool
  deriving DecidableEq, Repr

/-- A controller. -/
structure Ctrl where
  cc : Word
  rdy : Bool
  shst : Fin 4
  aqa : Word
  asq : Dword
  acq : Dword
  intm : Word
  sqs : Tbl Sq
  cqs : Tbl Cq
  cmds : List NCmd
  /-- Feature values by identifier, interrupt vector configurations by vector, and the timestamp as (value, CK00 time it was set). -/
  feats : Tbl Word
  ivc : Tbl Bool
  tstamp : Nat × Nat
  errLog : List (List Byte)
  errCount : Nat
  changedNs : List Nat
  /-- Asynchronous events not yet delivered, as DW0. -/
  events : List Nat
  selfTest : Option SelfTest
  stResults : List (List Byte)
  suspends : Nat
  /-- Urgent Read Latency log (R375). -/
  urgReads : Nat
  urgRetried : Nat
  urgMax : Nat
  urgOver : Nat
  buckets : Tbl Nat
  /-- NVM registers (R388). -/
  regUrgMax : Word
  regUrgOver : Word
  aborted : Word
  conflicts : Word
  stalls : Word
  /-- By class, the queue served last and the commands it may still give in its burst: 0 urgent, 1-3 the weighted classes, 4 every queue in turn;
  and the credits of the weighted classes (R365). -/
  turns : Tbl (Nat × Nat)
  credits : Tbl Nat
  /-- An I/O queue was created since the controller was enabled (NVMe base specification, Feature 07h; log entry 23). -/
  queued : Bool
  /-- Fetching has stopped at a bound of the pool (R364, R388). -/
  stalled : Bool
  /-- A controller reset lasts until the commands past their commit point have finished (R361). -/
  resetting : Bool
  /-- When the last host command completed (R379). -/
  hostAt : Nat
  deriving DecidableEq, Repr

def ctrlReset : Ctrl :=
  { cc := 0, rdy := false, shst := 0, aqa := 0, asq := 0, acq := 0, intm := 0, sqs := [], cqs := [], cmds := [], feats := [], ivc := []
    tstamp := (0, 0), errLog := [], errCount := 0, changedNs := [], events := [], selfTest := none, stResults := [], suspends := 0
    urgReads := 0, urgRetried := 0, urgMax := 0, urgOver := 0, buckets := [], regUrgMax := 0, regUrgOver := 0, aborted := 0
    conflicts := 0, stalls := 0, turns := [], credits := [], queued := false, stalled := false
    resetting := false, hostAt := 0 }

/-- NVMe: controllers by function, the fetch order, the selected power state, the operational state to return to, the PS0 cap in watts
(R376, R381), the firmware image being downloaded with its end (R377), and CSTS.NSSRO of controller 0: the last
reset was an NVM Subsystem Reset (R362; NVMe base specification, log entry 23). -/
structure Nvm where
  ctrls : Tbl Ctrl
  order : Nat
  ps : Fin 5
  lastOp : Fin 5
  cap : Nat
  fwImage : Memory
  fwEnd : Nat
  nssro : Bool
  deriving DecidableEq, Repr

def nvmReset : Nvm := { ctrls := [], order := 0, ps := 0, lastOp := 0, cap := 1800, fwImage := [], fwEnd := 0, nssro := false }

end Sys2Proof.Machine
end

