-- ==== Sys2Proof/Machine/TypesRas.lean ====
section
/-! DEFINITION. Error protection as state (chapter 17): the error log, its counters, poisoned lines, scrub positions and repairs. -/

namespace Sys2Proof.Machine

/-- A repair programmed into fuses (R506): the kind (0 store row, 1 store bank, 2 root row, 3 root bank, 4 DRAM row), the unit as its
log entry gives it, and whether it is in effect. -/
structure Repair where
  kind : Nat
  unit : Nat
  inEffect : Bool
  deriving DecidableEq, Repr

/-- A corrected error seen on a row (R504): row key, symbol position, time. -/
structure SymSeen where
  row : Nat
  symbol : Nat
  at_ : Nat
  deriving DecidableEq, Repr

/-- Error protection (R490-R509). -/
structure Ras where
  /-- Entries by SEQ mod 65,536 (R501), and RAS_LOG_SEQ. -/
  log : Tbl (List Byte)
  seq : Word
  ceDram : Word
  ceStore : Word
  ceRoot : Word
  ueDram : Word
  ueStore : Word
  ueRoot : Word
  addrErr : Word
  ceDropped : Word
  scrubDrop : Word
  dramPasses : Word
  /-- Poisoned lines by line number, module address / 64 (R494, R496). -/
  poison : Tbl Bool
  /-- The next line each home agent scrubs, the next row of each cluster * 8 + segment, the next root row (R499, R500). -/
  scrubDram : Tbl Nat
  scrubStore : Tbl Nat
  scrubRoot : Nat
  repairs : List Repair
  dxFree : Nat
  /-- CORRECTED entries by line, with the time of logging (R503), and the times of new CORRECTED entries in the last second. -/
  ceLast : Tbl (Nat × Nat)
  ceTimes : List Nat
  symSeen : List SymSeen
  /-- A DRAM entry of severity UNCORRECTED or FATAL has been logged (R505). -/
  critDram : Bool
  deriving DecidableEq, Repr

def rasReset : Ras :=
  { log := [], seq := 0, ceDram := 0, ceStore := 0, ceRoot := 0, ueDram := 0, ueStore := 0, ueRoot := 0, addrErr := 0
    ceDropped := 0, scrubDrop := 0, dramPasses := 0, poison := [], scrubDram := [], scrubStore := [], scrubRoot := 0
    repairs := [], dxFree := 256, ceLast := [], ceTimes := [], symSeen := [], critDram := false }

end Sys2Proof.Machine
end

