-- ==== Sys2Proof/Machine/TypesSearch.lean ====
section
/-! DEFINITION. Filter and search as state (chapter 11): Aster indexes, and the counters of Iris and Aster. -/

namespace Sys2Proof.Machine

/-- A vector stored in an index (R338, R343-R348): identifier, code, attributes, list, the vector where it is kept, the epoch it becomes
visible at, the epoch it stops being visible at, whether it lies in the side area, and whether a merge has dropped it: of a dropped record only the
count in EXCLUDED is left (R348, R352). -/
structure VecRec where
  id : Nat
  code : List Byte
  attrs : List Byte
  list : Nat
  vec : List Byte
  born : Nat
  died : Option Nat
  side : Bool
  dropped : Bool
  deriving DecidableEq, Repr

/-- A deletion held in the side area: its identifier, and its epoch (R344, R345). -/
structure SideDel where
  id : Nat
  epoch : Nat
  deriving DecidableEq, Repr

/-- A list that was read, kept as a clean copy in the T1 pool (R337): the granules it takes and its use stamp. -/
structure ListCopy where
  granules : Nat
  used : Nat
  deriving DecidableEq, Repr

/-- An index (R335-R349): its descriptor, extent, the copy of its model, its newest epoch, its records, the MERGE that executes with the newest epoch
at its start, and the lists kept in the T1 pool. -/
structure Index where
  gen : Nat
  desc : List Byte
  nsid : Nat
  slba : Nat
  nblocks : Nat
  model : List Byte
  epoch : Word
  recs : List VecRec
  dels : List SideDel
  merging : Option (ReqId × Nat)
  held : Tbl ListCopy
  deriving DecidableEq, Repr

/-- Aster's registers of a partition (R357). -/
structure AstPart where
  queries : Nat
  short : Word
  widened : Word
  merges : Word
  scored : Nat
  filtered : Nat
  deriving DecidableEq, Repr

def astPartReset : AstPart := { queries := 0, short := 0, widened := 0, merges := 0, scored := 0, filtered := 0 }

/-- Iris's registers of a channel (R357). -/
structure IrisChan where
  records : Nat
  passed : Nat
  waits : Word
  deriving DecidableEq, Repr

def irisChanReset : IrisChan := { records := 0, passed := 0, waits := 0 }

/-- A SCAN or QUERY that executes: a QUERY's index and the epoch it pins (R347), its in-payload as it was read, the channels it reads through its
program, and whether it has found a program place on each of them or had to wait for one (R325). -/
structure SearchRun where
  req : ReqId
  key : Nat
  epoch : Nat
  payload : List Byte
  chans : List Nat
  loaded : Bool
  waited : Bool
  deriving DecidableEq, Repr

/-- Search: indexes by partition * 65536 + index, the generations used by the same key, registers, and the SCANs and QUERYs that execute. -/
structure Srch where
  indexes : Tbl Index
  gens : Tbl Nat
  parts : Tbl AstPart
  chans : Tbl IrisChan
  runs : List SearchRun
  deriving DecidableEq, Repr

def srchReset : Srch := { indexes := [], gens := [], parts := [], chans := [], runs := [] }

end Sys2Proof.Machine
end

