-- ==== Sys2Proof/Machine/TypesSys.lean ====
section
/-! DEFINITION. Reset, clocks, power, sideband, firmware store, debug and management as state (chapters 15, 16, 18, 19). -/

namespace Sys2Proof.Machine

/-- Why the module is halted, if it is (R465). -/
inductive Halt where
  | no | thermal
  deriving DecidableEq, Repr

/-- Reset controller and sideband inputs (R448-R457, R467-R470). -/
structure Rst where
  /-- Sources asserted. -/
  por : Bool
  modRst : Bool
  perst : Bool
  warm : Bool
  wdt : Bool
  /-- When WARM or WDT was asserted; each is held for 100 us. -/
  heldAt : Nat
  /-- An overlap is in progress or its exit has not completed, and W, the rank of its widest source (R451). -/
  active : Bool
  w : Nat
  /-- Consecutive samples of the input within 42.0-60.0 V, from which POR is released (R448). -/
  inRange : Nat
  halt : Halt
  /-- RST_CAUSE bits 6-0, WIDEST, RST_PART_SEEN, RST_EXIT_TS. -/
  cause : BitVec 7
  widest : Nat
  partSeen : Half
  exitTs : Dword
  /-- Sage is released (stage 5 of R452), and Klova is ready since when (step 6 of R484). -/
  sage : Bool
  ready : Bool
  readyAt : Nat
  /-- The last kick of the watchdog, or the end of the last halt of a core (R454). -/
  kickAt : Nat
  /-- Block reset (R455): request fields, busy, fenced, timeout, when it began, and whether the block is fenced already. -/
  blkIndex : Byte
  blkType : BitVec 3
  blkBusy : Bool
  blkTimedOut : Bool
  blkTimeout : Half
  blkFenced : Word
  blkAt : Nat
  /-- Sampled straps (R27). -/
  bootSel : Nat
  clkMode : Bool
  groupPos : Nat
  /-- Levels of the strap pins: BOOT_SEL [1:0], CLK_MODE [2], GROUP_POS [5:3]. -/
  strapPins : BitVec 6
  /-- Filtered sideband levels in the order of R467, masks, glitch and drop counts, last accepted event and those of the last second. -/
  sbLevel : BitVec 5
  sbMask : BitVec 2
  sbGlitch : Tbl Word
  sbDropped : Tbl Word
  sbLast : Tbl Nat
  sbRecent : Tbl (List Nat)
  tsSync : Dword
  /-- Outputs and transmitters have been released by the boot (R28, R458). -/
  released : Bool
  deriving DecidableEq, Repr

/-- Right after POR is asserted at first power. -/
def rstReset : Rst :=
  { por := true, modRst := false, perst := false, warm := false, wdt := false, heldAt := 0, active := true, w := 1, inRange := 0
    halt := .no, cause := 1, widest := 1, partSeen := 0, exitTs := 0, sage := false, ready := false, readyAt := 0, kickAt := 0
    blkIndex := 0, blkType := 0, blkBusy := false, blkTimedOut := false, blkTimeout := 1000, blkFenced := 0, blkAt := 0
    bootSel := 0, clkMode := false, groupPos := 0, strapPins := 0, sbLevel := 0x1F, sbMask := 0, sbGlitch := [], sbDropped := []
    sbLast := [], sbRecent := [], tsSync := 0, released := false }

/-- Clocks (R443-R447): loops locked by domain, lost reference, CK00's source, losses of lock, and the operating point of each die. -/
structure Clk where
  locked : BitVec 18
  refLost : Bool
  source : Bool
  unlocks : Word
  point : Tbl Nat
  deriving DecidableEq, Repr

def clkReset : Clk := { locked := 0, refLost := false, source := false, unlocks := 0, point := [] }

/-- Power and temperature (R459-R466, R535, R538). Times are of the CK00 timestamp. -/
structure Pwr where
  /-- PWR_INPUT and PWR_MEAN_1S as last sampled (R470). -/
  mean10 : Half
  volts : Half
  mean1s : Half
  /-- Consecutive samples below 38.0 V (R460). -/
  low : Nat
  dips : Word
  trips : Word
  /-- Hottest sensor of D0-D3 and DX in tenths of a degree, and the coolant inlet and outlet likewise. -/
  tj : Tbl Int
  inlet : Int
  outlet : Int
  /-- Withholding levels of R461 and R464, points lowered by each, times of the last step, and since when speed may be given back. -/
  pLevel : Nat
  tLevel : Nat
  pPoint : Nat
  tPoint : Tbl Nat
  pStepAt : Nat
  tStepAt : Nat
  pCalm : Option Nat
  tCalm : Option Nat
  /-- POWER_THROTTLE and THERMAL_LIMIT are in effect (R466). -/
  throttling : Bool
  thermal : Bool
  /-- Since when every quantity of R538 has been inside. -/
  envSince : Option Nat
  deriving DecidableEq, Repr

def pwrReset : Pwr :=
  { mean10 := 0, volts := 0, mean1s := 0, low := 0, dips := 0, trips := 0, tj := [], inlet := 0, outlet := 0, pLevel := 0, tLevel := 0
    pPoint := 0, tPoint := [], pStepAt := 0, tStepAt := 0, pCalm := none, tCalm := none, throttling := false, thermal := false
    envSince := none }

/-- A counted record of the record log (R477): its sector and the number of bytes it takes. -/
structure FwRec where
  kind : Nat
  seq : Nat
  body : List Byte
  sector : Nat
  deriving DecidableEq, Repr

/-- A sector of the record log (R478): erased with its marker, and the bytes used after the header. -/
structure FwSector where
  erasedOk : Bool
  used : Nat
  deriving DecidableEq, Repr

/-- Operations of the firmware store controller (R476-R478): append a record, copy the record that governs a KIND into a sector of the log, erase a
sector of the log, mark it erased. -/
inductive FwOp where
  | append (kind : Nat) (body : List Byte)
  | copy (kind sector : Nat)
  | erase (sector : Nat)
  | mark (sector : Nat)
  deriving DecidableEq, Repr

/-- An image being written to a block (R473): the block (0 A, 1 B), its image, the SELECT body to append, sectors erased, pages programmed,
and the command or request that waits; a second block to write after this one (R485: both blocks). -/
structure FwJob where
  block : Nat
  image : List Byte
  select : Option (List Byte)
  erased : Nat
  paged : Nat
  cmd : Option CmdKey
  req : Option ReqId
  also : Option Nat
  deriving DecidableEq, Repr

/-- What the device is doing: an operation of the log, or the next erase or page of the image. -/
inductive FwCur where
  | op (o : FwOp)
  | image
  deriving DecidableEq, Repr

/-- A Crocus block: it holds a whole image that verifies but for the security minimum, its SEC_VERSION and FW_VERSION, and whether its
bytes are still those of manufacture. -/
structure FwBlock where
  ok : Bool
  secVersion : Word
  version : List Byte
  factory : Bool
  deriving DecidableEq, Repr

/-- The firmware store and the boot (R471-R489). -/
structure Fw where
  /-- Contents by store offset, each byte complemented, so that an erased byte (0xFF) is not listed; bytes of manufacture are
  Config's. -/
  nor : Memory
  blocks : Tbl FwBlock
  recs : List FwRec
  seq : Nat
  sectors : Tbl FwSector
  ops : List FwOp
  job : Option FwJob
  /-- The operation issued to the device (FWS_STS.BUSY). -/
  cur : Option FwCur
  suspended : Bool
  busyHit : Bool
  xoHit : Bool
  busyReads : Word
  xoReads : Word
  secMin : Word
  progFails : Word
  erases : Dword
  brownOut : Bool
  /-- 0 Crocus A, 1 Crocus B, 2 recovery; the running block is in trial. -/
  running : Fin 3
  trial : Bool
  /-- Recovery boot has started an image by RECOVERY_LOAD (R485). -/
  recovered : Bool
  /-- An image loaded in recovery boot that starts once it is written: whether it is signed (R485). -/
  loadSigned : Option Bool
  /-- FW_VERSION of the image started in recovery. -/
  loadVersion : List Byte
  /-- User offsets by ID * 256 + INDEX, factory calibration passed its check, CAL_CLAMPED (R486). -/
  offsets : Tbl Int
  factoryOk : Bool
  clamped : Word
  /-- Requests that wait for a record to be written: the request, its record kind, its RESULT (R487). -/
  waits : List (ReqId × Nat × Nat)
  /-- A WARM_RESET has been answered and WARM follows (R487). -/
  warmAsked : Bool
  deriving DecidableEq, Repr

/-- A block with nothing in it. -/
def blockEmpty : FwBlock := { ok := false, secVersion := 0, version := List.replicate 16 0, factory := false }

/-- A new module: Crocus A holds the image of manufacture, every log sector is erased and marked (log entry 24). -/
def fwReset : Fw :=
  { nor := [], blocks := [(0, { ok := true, secVersion := 0, version := [], factory := true })], recs := [], seq := 0
    sectors := [], ops := [], job := none, cur := none, suspended := false, busyHit := false
    xoHit := false, busyReads := 0, xoReads := 0, secMin := 0, progFails := 0, erases := 0, brownOut := false, running := 0
    trial := false, recovered := false, loadSigned := none, loadVersion := List.replicate 16 0x20, offsets := [], factoryOk := true, clamped := 0, waits := [], warmAsked := false }

/-- Debug (R510-R524) and the test access port. -/
structure Dbg where
  locked : Bool
  stalled : Bool
  halted : Half
  /-- When each halted core was halted, by core. -/
  haltedAt : Tbl Nat
  challenge : Option (List Byte)
  challengeAt : Nat
  unlocks : Word
  denied : Word
  /-- State of the Sage cores by core * 128 + index: registers, program counter, status word; and reservations by core. -/
  cores : Tbl Dword
  reserved : Tbl Bool
  /-- DBG_RESP. -/
  resp : BitVec 64
  /-- The instruction of the test access port. -/
  tapIr : Byte
  deriving DecidableEq, Repr

def dbgReset : Dbg :=
  { locked := true, stalled := false, halted := 0, haltedAt := [], challenge := none, challengeAt := 0, unlocks := 0, denied := 0
    cores := [], reserved := [], resp := 0, tapIr := 0x02 }

/-- The management endpoint (R533, R534): dynamic address, SMBus frequency setting. -/
structure Mi where
  dynamicAddr : Option (BitVec 7)
  smbusFreq : Byte
  deriving DecidableEq, Repr

def miReset : Mi := { dynamicAddr := none, smbusFreq := 1 }

end Sys2Proof.Machine
end

