-- ==== Sys2Proof/Machine/State.lean ====
section
/-! DEFINITION. The state of the module, the reasons a step can stop, and the state at reset. -/

namespace Sys2Proof.Machine

/-- Reasons a step faults. No command of this block faults; the type has one constructor so that it is inhabited. -/
inductive Fault where
  /-- Raised by no command of the model: an address the module's map does not hold (R23) reports to its requester instead. Safe. -/
  | addressNotInMap (addr : Nat)
  deriving DecidableEq, Repr

/-- Reasons a step is refused. -/
inductive Refusal where
  /-- The dispatch refuses a command that has no meaning yet, by its mnemonic. Safe: the machine stops. -/
  | notModelled (mnemonic : String)
  deriving DecidableEq, Repr

/-- The state of the module. -/
structure State where
  ident : Ident
  /-- The CK00 timestamp in nanoseconds (R13). -/
  ts : Dword
  klv : Klova
  prt : Prt
  /-- Clusters by number; slots by cluster * 4 + slot; arrays by cluster * 4 + logical array. -/
  clus : Tbl Cluster
  slots : Tbl Slot
  arrs : Tbl Arr
  coh : Coh
  sch : Sch
  tie : Tie
  ing : Ing
  srch : Srch
  lnk : Lnk
  ras : Ras
  ftl : Ftl
  nvm : Nvm
  rst : Rst
  clk : Clk
  pwr : Pwr
  fw : Fw
  dbg : Dbg
  mi : Mi
  /-- Module memory by module address: DRAM, cluster stores, root store (R22). -/
  mem : Memory
  /-- Host memory the module reaches over PCIe. -/
  hmem : Memory
  /-- Ranges of host memory (address, length) whose transfers fail: they answer no read and take no write before the PCIe completion
  timeout (R39). The surroundings' own, changed by no command (log entry 108). -/
  hdead : List (Nat × Nat)
  /-- PCIe transactions made on host memory, oldest first (R80). -/
  bus : List HostAccess
  /-- Messages sent outward, oldest first. -/
  out : List Out
  /-- The value the last register read returned (R18). -/
  rdata : Dword
  /-- The MODEL's counter of free values drawn (log entry 5); not the module's. -/
  free : Nat
  /-- Commands waiting, first in first out. -/
  pending : List Instr
  deriving DecidableEq, Repr

/-- Partitions and regulators of a new module: the factory configuration, not loaded; P0's keys were made at manufacture (R81, R94, R103; log
entry 66). -/
def prtReset : Prt :=
  { cfg := factoryCfg Ident.reset 0, loaded := false, applying := none
    parts := [(0, { partStateReset with keyGen := 1, flashKey := 1, dramKey := 2 })], keyCount := 2, vfEnable := false, numVFs := 0
    regs := [], throttle := 0, fwSigned := false, inEnvelope := false }

/-- Klova at POR (R35). -/
def klovaReset : Klova := { mbs := [], incarnation := 1, started := false, cfgEpoch := 0, turn := [], taken := 0 }

/-- A new module at first power, with POR asserted (R448-R451; log entry 1): every register at the reset value its table gives, memory
reading zero, the firmware store and the flash as manufactured, and no command waiting. -/
def State.reset : State :=
  { ident := Ident.reset, ts := 0, klv := klovaReset, prt := prtReset, clus := [], slots := [], arrs := [], coh := cohReset, sch := schReset
    tie := tieReset, ing := ingReset, srch := srchReset, lnk := lnkReset, ras := rasReset, ftl := ftlReset, nvm := nvmReset, rst := rstReset
    clk := clkReset, pwr := pwrReset, fw := fwReset, dbg := dbgReset, mi := miReset, mem := [], hmem := [], hdead := [], bus := [], out := [], rdata := 0, free := 0
    pending := [] }

end Sys2Proof.Machine
end

