-- ==== Sys2Proof/Machine/Ops.lean ====
section
/-! DEFINITION. Shared operations: time (R13), free values, the active configuration, mailbox access, payloads (R48), taking up and
completing Klova requests (R43, R57, R58, R66) and queueing events (R71). -/

namespace Sys2Proof.Machine

/-- The outcome of a command. -/
abbrev Res := Host.Outcome State Fault Refusal

/-- The timestamp as a natural (R13). -/
def now (s : State) : Nat := s.ts.toNat

/-- Time has reached `due` when a timed event with that due time happens (log entry 6). -/
def reach (s : State) (due : Nat) : State := { s with ts := if now s < due then BitVec.ofNat 64 due else s.ts }

/-- The next free value, and the counter advanced (log entry 5). -/
def freeVal (s : State) : Dword := Config.freeVal s.free

/-- The state after a free value was drawn. -/
def drawn (s : State) : State := { s with free := s.free + 1 }

/-- `n` bytes that the spec leaves undefined, of the draw numbered `k` (log entry 109). -/
def freeBytes (k n : Nat) : List Byte := (List.range n).map (Config.freeByte k)

/-- A PCIe transaction on host memory, made with the requester ID of function `fn` (R80) through the regulators of partition `pass` (R97). -/
def hostAcc (s : State) (fn pass : Nat) (write : Bool) (addr len : Nat) : State := { s with bus := s.bus ++ [{ fn, pass, write, addr, len }] }

/-- A transfer of `n` bytes at host address `a` fails (R39, R64). -/
def hostFails (s : State) (a n : Nat) : Bool := s.hdead.any fun d => decide (a < d.1 + d.2) && decide (d.1 < a + n)

/-- A message sent outward. -/
def emit (s : State) (o : Out) : State := { s with out := s.out ++ [o] }

/-! ### Partitions -/

/-- The record of a partition in the active configuration. -/
def prec (s : State) (p : Nat) : PartRec := tget partRecNone s.prt.cfg.parts p

/-- The PRT state of a partition. -/
def pst (s : State) (p : Nat) : PartState := tget partStateReset s.prt.parts p

/-- The state with a partition's PRT state changed. -/
def updPst (s : State) (p : Nat) (f : PartState → PartState) : State :=
  { s with prt := { s.prt with parts := tmod partStateReset s.prt.parts p f } }

/-- Whether virtual function `v` exists (R95). -/
def vfExists (s : State) (v : Nat) : Bool := s.prt.vfEnable && decide (1 ≤ v) && decide (v ≤ s.prt.numVFs)

/-- The partition a function is assigned to by the active configuration, if any. -/
def partOfVf (s : State) (v : Nat) : Option Nat :=
  (List.range 16).find? fun p => (prec s p).active && (prec s p).vf.toNat == v && v != 0

/-- Whether a partition is active / sealed. -/
def isActive (s : State) (p : Nat) : Bool := (prec s p).active
def isSealed (s : State) (p : Nat) : Bool := (prec s p).active && (prec s p).sealedP

/-- The owner of a mailbox under a partition record and a set of existing functions (R31). -/
def ownerIn (exists? : Nat → Bool) (rec : PartRec) (k : Nat) : Nat :=
  if rec.active && rec.vf != 0 && exists? rec.vf.toNat && !rec.pfMailboxes.getLsbD k then rec.vf.toNat else 0

/-- The function that owns mailbox `n`: 0 the physical function (R31). R31 names the active configuration; while none is loaded the one last
active goes on to name the owners, except that the boot loader serves MB000 on the physical function (R485; DESIGN CHOICE, log entry 112). -/
def ownerOf (s : State) (n : Nat) : Nat :=
  if n = 0 && !s.prt.loaded then 0 else ownerIn (vfExists s) (prec s (n / 16)) (n % 16)

/-- Mailbox `n` is the Evsel mailbox of its partition (R434, R437). -/
def isEvselMb (s : State) (n : Nat) : Bool :=
  n % 16 == 15 && isActive s (n / 16) && s.prt.cfg.links.evselMb.getLsbD (n / 16)

/-! ### Mailboxes -/

/-- Mailbox `n`. -/
def mbox (s : State) (n : Nat) : Mailbox := tget mailboxReset s.klv.mbs n

/-- The state with mailbox `n` changed. -/
def updMb (s : State) (n : Nat) (f : Mailbox → Mailbox) : State :=
  { s with klv := { s.klv with mbs := tmod mailboxReset s.klv.mbs n f } }

/-- KLV_STS.ENABLED as the device sees it: an Evsel mailbox reads 1 while its partition is active (R437). -/
def mbEnabled (s : State) (n : Nat) : Bool := (mbox s n).enabled || isEvselMb s n

/-- A request of a mailbox by its context and HSEQ. -/
def isReq (r : ReqId) (x : Exec) : Bool := x.oow == r.oow && (r.oow || x.hseq == r.hseq)

/-- The executing request a `ReqId` names. -/
def findExec (s : State) (r : ReqId) : Option Exec := (mbox s r.mb.val).execs.find? (isReq r)

/-- CLASS and OPCODE of an entry (R47). -/
def entCls (e : List Byte) : Nat := fld e 0 1
def entOp (e : List Byte) : Nat := fld e 1 1

/-- FLAGS bits of an entry (R47). -/
def entDirIn (e : List Byte) : Bool := bitAt (fld e 3 1) 0
def entDirOut (e : List Byte) : Bool := bitAt (fld e 3 1) 1
def entList (e : List Byte) : Bool := bitAt (fld e 3 1) 2
def entFence (e : List Byte) : Bool := bitAt (fld e 3 1) 3
def entOow (e : List Byte) : Bool := bitAt (fld e 3 1) 4

/-- The parameter field of `n` bytes at entry offset `off` (R47). -/
def prm (x : Exec) (off n : Nat) : Nat := fld x.entry off n

/-- Whether request `r` may begin execution among the accepted requests `l`, oldest first (R58): every earlier one has begun, no
earlier one is an uncompleted FENCE, and a FENCE waits until it is the oldest. -/
def mayBegin (r : ReqId) : List Exec → Bool
  | [] => false
  | x :: t =>
    if isReq r x then true
    else if x.oow then mayBegin r t
    else x.begun && !entFence x.entry && mayBegin r t

/-- R58 for request `x` of mailbox list `l`; an out-of-window request begins at once. -/
def canBegin (r : ReqId) (l : List Exec) (x : Exec) : Bool :=
  r.oow || x.begun ||
    (mayBegin r l && (!entFence x.entry || (l.takeWhile fun y => !isReq r y).all (·.oow)))

/-- The state with a request changed. -/
def updExec (s : State) (r : ReqId) (f : Exec → Exec) : State :=
  updMb s r.mb.val fun m => { m with execs := modFirst (isReq r) f m.execs }

/-- A request passes its commit point (R66). -/
def commit (s : State) (r : ReqId) : State := updExec s r fun x => { x with committed := !x.oow }

/-! ### Payloads (R48) -/

/-- One piece of a payload: host address, length, direction (out: module to host), descriptor index. -/
structure Region where
  addr : Nat
  len : Nat
  out : Bool
  ix : Nat
  deriving DecidableEq, Repr

/-- The descriptors of a list of `n` descriptors at host address `a`, from index `i` on. -/
def descRegions (hm : Memory) (a i : Nat) : Nat → List Region
  | 0 => []
  | n + 1 =>
    { addr := mnat hm a 8, len := mnat hm (a + 8) 4, out := mnat hm (a + 12) 1 != 0, ix := i }
      :: descRegions hm (a + 16) (i + 1) n

/-- The payload pieces of an entry. A buffer read and then overwritten is listed once for each direction. -/
def regions (hm : Memory) (e : List Byte) : List Region :=
  let a := fld e 0x10 8
  let n := fld e 0x18 4
  if entList e then descRegions hm a 0 (min (n / 16) 256)
  else (if entDirIn e then [{ addr := a, len := n, out := false, ix := 0 }] else [])
    ++ (if entDirOut e then [{ addr := a, len := n, out := true, ix := 0 }] else [])

/-- Total length of the in- or out-payload of an entry. -/
def payLen (rs : List Region) (out : Bool) : Nat := natSum ((rs.filter fun x => x.out == out).map (·.len))

/-- The bytes of an in-payload: the in-pieces in order. -/
def gather (hm : Memory) : List Region → List Byte
  | [] => []
  | x :: t => (if x.out then [] else mread hm x.addr x.len) ++ gather hm t

/-- Host memory with bytes written over the out-pieces in order. -/
def scatter (hm : Memory) : List Region → List Byte → Memory
  | [], _ => hm
  | x :: t, bs =>
    if x.out then scatter (mwrite hm x.addr (bs.take x.len)) t (bs.drop x.len) else scatter hm t bs

/-- The in-payload of a request; an Evsel request's is inline (R438). -/
def inPayload (s : State) (x : Exec) : List Byte :=
  match x.evsel with
  | some o => o.inPayload
  | none => gather s.hmem (regions s.hmem x.entry)

/-- The room a request gives its out-payload; an Evsel request's is returned inline (R438). -/
def outRoom (s : State) (x : Exec) : Nat := payLen (regions s.hmem x.entry) true

/-! ### Completing a request -/

/-- What a request answers: status, DETAIL, RESULT and out-payload. -/
structure Ans where
  status : Nat
  detail : Nat
  result : Nat
  out : List Byte
  deriving DecidableEq, Repr

/-- Completion with OK. -/
def ansOk (result : Nat) (out : List Byte := []) : Ans := { status := 0, detail := 0, result, out }

/-- Completion with a status and DETAIL. -/
def ansErr (status : Nat) (detail : Nat := 0) (result : Nat := 0) : Ans := { status, detail, result, out := [] }

/-- The completion image of a request (R50). -/
def cplOf (ts : Dword) (x : Exec) (a : Ans) : Cpl :=
  { cls := BitVec.ofNat 8 (entCls x.entry), op := BitVec.ofNat 8 (entOp x.entry), status := BitVec.ofNat 16 a.status
    hseq := x.hseq, tag := BitVec.ofNat 32 (fld x.entry 0x0C 4), ts, result := BitVec.ofNat 32 a.result
    detail := BitVec.ofNat 16 a.detail, committed := x.committed && !x.oow }

/-- A completion image with its replays, as they wait to be posted (R46, R54): each goes to the origin it was asked from. -/
def waitingOf (c : Cpl) (x : Exec) (out : List Byte) : List Waiting :=
  { cpl := c, replay := false, oow := x.oow, evsel := x.evsel, outPayload := out }
    :: x.replays.map fun o => { cpl := c, replay := true, oow := x.oow, evsel := o, outPayload := [] }

/-- A mailbox with a produced completion: the request leaves the executing list, its record holds the image, and the completion
waits to be posted, or is held and counted while EN is 0 (R39, R53). -/
def mbComplete (evsel : Bool) (r : ReqId) (c : Cpl) (ws : List Waiting) (m : Mailbox) : Mailbox :=
  let recs := if r.oow then m.recs else
    match tfind? m.recs r.hseq.toNat with
    | some k => tput m.recs r.hseq.toNat { k with cpl := some c }
    | none => m.recs
  let m' := { m with execs := dropFirst (isReq r) m.execs, recs }
  if m.en || evsel then { m' with waiting := m.waiting ++ ws } else { m' with heldCnt := satAdd m.heldCnt ws.length }

/-- The out-pieces that the first `n` bytes of an out-payload fall into. -/
def outPiecesFor : List Region → Nat → List Region
  | [], _ => []
  | x :: t, n => if x.out then (if n = 0 then [] else { x with len := min x.len n } :: outPiecesFor t (n - x.len)) else outPiecesFor t n

/-- The first transfer among pieces that fails or that DMA_BLOCK refuses: its descriptor index (R39, R64). -/
def badTransfer (s : State) (mb : Nat) (l : List Region) : Option Nat :=
  (l.find? fun g => (mbox s mb).dmaBlock || hostFails s g.addr g.len).map (·.ix)

/-- The pieces an out-payload is written to; an Evsel request's travels inline (R438). -/
def outPieces (s : State) (x : Exec) (out : List Byte) : List Region :=
  if x.evsel.isSome then [] else outPiecesFor (regions s.hmem x.entry) out.length

/-- The pieces an in-payload is read from. -/
def inPieces (s : State) (x : Exec) : List Region :=
  if x.evsel.isSome then [] else (regions s.hmem x.entry).filter fun g => !g.out

/-- What request `x` answers when its answer was to be `a`: PAYLOAD_FAULT with the descriptor index where a transfer of the out-payload fails
or is refused (R39, R64). -/
def settled (s : State) (r : ReqId) (x : Exec) (a : Ans) : Ans :=
  match badTransfer s r.mb.val (outPieces s x a.out) with
  | some i => ansErr 0x0007 i
  | none => a

/-- The bytes the out-buffers take: the out-payload; after a status other than OK and SHORT for which the opcode gives no out-payload,
undefined ones, unless DMA_BLOCK refuses every transfer (R39, R49; log entry 109). -/
def bufferBytes (s : State) (r : ReqId) (x : Exec) (a : Ans) : List Byte :=
  if x.evsel.isSome then []
  else if a.out.isEmpty && decide (2 ≤ a.status) && !(mbox s r.mb.val).dmaBlock then freeBytes s.free (payLen (regions s.hmem x.entry) true)
  else a.out

/-- A PCIe transaction of a mailbox: its owner's requester ID, its partition's regulators, the system's slots while the partition is inactive
(R80, R97, R543). -/
def mbAcc (s : State) (mb : Nat) (write : Bool) (addr len : Nat) : State :=
  hostAcc s (ownerOf s mb) (if isActive s (mb / 16) then mb / 16 else 16) write addr len

/-- Transfers of a mailbox are made: ACTIVE rises, and each carries the requester ID of the mailbox's owner (R35, R80). -/
def transfer (s : State) (mb : Nat) (write : Bool) (l : List Region) : State :=
  if l.isEmpty then s
  else l.foldl (fun s g => mbAcc s mb write g.addr g.len) (updMb s mb fun m => { m with active := true })

/-- The out-buffers of request `x` written with what `a` leaves in them. -/
def writeOut (s : State) (r : ReqId) (x : Exec) (a : Ans) : State :=
  let bs := bufferBytes s r x a
  if bs.isEmpty then s
  else
    let s' := transfer (if a.out.isEmpty then drawn s else s) r.mb.val true (outPiecesFor (regions s.hmem x.entry) bs.length)
    { s' with hmem := scatter s.hmem (regions s.hmem x.entry) bs }

/-- Request `r` completes once with `a`: the out-payload is written first (R44), or refused by DMA_BLOCK or failed with PAYLOAD_FAULT
(R39, R64). A result for a request that is no longer executing changes nothing here (R67 counts it at LATE_RESULT). -/
def finish (s : State) (r : ReqId) (a : Ans) : State :=
  match findExec s r with
  | none => s
  | some x =>
    let a' := settled s r x a
    let c := cplOf s.ts x a'
    updMb (writeOut s r x a') r.mb.val (mbComplete x.evsel.isSome r c (waitingOf c x a'.out))

/-- The active configuration replaced, for work that runs under another (R93). -/
def underCfg (s : State) (c : Cfg) : State := { s with prt := { s.prt with cfg := c } }

/-- Step 13 of R57 for an opcode row: the request named is of this class and opcode and may begin (R58), and `f` executes it, under the
configuration of its acceptance (R93, R108); the PART class acts on the configuration in force (R86). Otherwise the row's event does not happen
(log entry 7). -/
def runReq (s : State) (r : ReqId) (cls op : Nat) (f : State → Exec → State) : Res :=
  match findExec s r with
  | none => .next s
  | some x =>
    if entCls x.entry == cls && entOp x.entry == op && canBegin r (mbox s r.mb.val).execs x then
      let b := updExec s r fun y => { y with begun := true }
      let x := { x with begun := true }
      if cls == 2 || x.cfg == s.prt.cfg then .next (f b x) else .next (underCfg (f (underCfg b x.cfg) x) s.prt.cfg)
    else .next s

/-- A request whose answer depends on nothing further completes with it. -/
def answer (s : State) (r : ReqId) (cls op : Nat) (f : State → Exec → Ans) : Res :=
  runReq s r cls op fun s' x => finish s' r (f s' x)

/-- A request that reads its in-payload: a transfer that DMA_BLOCK refuses or that fails ends it with PAYLOAD_FAULT (R39, R64), with
the out-payload `bad` that the opcode writes with every completion. -/
def withIn (s : State) (r : ReqId) (x : Exec) (f : State → List Byte → State) (bad : List Byte := []) : State :=
  match badTransfer s r.mb.val (inPieces s x) with
  | some i => finish s r { status := 0x0007, detail := i, result := 0, out := bad }
  | none => f (transfer s r.mb.val false (inPieces s x)) (inPayload s x)

/-- The partition a request acts for (R29). -/
def reqPart (r : ReqId) : Nat := r.mb.val / 16

/-! ### Events (R71) -/

/-- Places of an event queue taken: EVENTS_LOST entries take none (R71). -/
def placesTaken (l : List Event) : Nat :=
  (l.filter fun e => match e with
    | .ev _ _ => true
    | .lost _ => false).length

/-- A queue whose last entry is EVENTS_LOST with its count raised, or with an EVENTS_LOST of count 1 appended (R71). -/
def addLost : List Event → List Event
  | [] => [.lost 1]
  | [.lost n] => [.lost (if n = 0xFFFF#16 then n else n + 1)]
  | [.ev c d] => [.ev c d, .lost 1]
  | e :: t => e :: addLost t

/-- An event appended to a queue, or counted as lost (R71). -/
def pushEvent (l : List Event) (code detail : Nat) : List Event :=
  if placesTaken l < 64 then l ++ [.ev (BitVec.ofNat 16 code) (BitVec.ofNat 16 detail)] else addLost l

/-- The EVENT_WAIT requests of a mailbox that wait for an event, oldest first. -/
def eventWaiters (m : Mailbox) : List Exec :=
  m.execs.filter fun x => x.begun && entCls x.entry == 1 && entOp x.entry == 5

/-- What an EVENT_WAIT completes with for a queue entry (R68, R71). -/
def eventAns : Event → Ans
  | .ev c d => { status := 0, detail := d.toNat, result := c.toNat, out := [] }
  | .lost n => { status := 0, detail := n.toNat, result := 8, out := [] }

/-- A mailbox delivers the first entry of its queue to its oldest waiting EVENT_WAIT, if it has both (R71). -/
def deliverEvent (s : State) (n : Fin 256) : State :=
  let m := mbox s n.val
  match m.events, eventWaiters m with
  | e :: t, x :: _ => finish (updMb s n.val fun m => { m with events := t }) ⟨n, x.oow, x.hseq⟩ (eventAns e)
  | _, _ => s

/-- An event that concerns a mailbox is queued there if it is registered, and delivered if an EVENT_WAIT waits (R71). -/
def eventOn (s : State) (code detail : Nat) (n : Fin 256) : State :=
  if (mbox s n.val).registered then
    deliverEvent (updMb s n.val fun m => { m with events := pushEvent m.events code detail }) n
  else s

/-- The sixteen mailboxes of a partition (R29). -/
def mbsOf (p : Nat) : List (Fin 256) := (List.finRange 256).filter fun n => n.val / 16 == p

/-- An event that concerns partition `p` (R71). -/
def eventFor (s : State) (p code detail : Nat) : State := (mbsOf p).foldl (fun s n => eventOn s code detail n) s

/-- An event that concerns every partition. -/
def eventAll (s : State) (code detail : Nat) : State :=
  (List.finRange 256).foldl (fun s n => eventOn s code detail n) s

end Sys2Proof.Machine
end

