-- ==== Sys2Proof/Machine/Map.lean ====
section
/-! DEFINITION. The module address map (R22), who owns an address (R74-R79), stores and views (R114, R123, R124), and writes to
cluster stores with the write guard (R162). -/

namespace Sys2Proof.Machine

/-- First address past usable DRAM: the inline ECC region starts here (R76). -/
def dramEnd : Nat := 0x007800000000

/-- Base of cluster `c`'s store window and of the root store (R22). -/
def storeBase (c : Nat) : Nat := 0x010000000000 + c * 0x08000000
def rootBase : Nat := 0x012000000000

/-- Populated bytes of a cluster store and of the root store (R22). -/
def storeLen : Nat := 0x07000000
def rootLen : Nat := 0x20000000

/-- Whether a range lies in usable DRAM, in the root store, in cluster `c`'s store (R22, R23, R76). -/
def inDram (a n : Nat) : Bool := decide (a + n ≤ dramEnd)
def inRoot (a n : Nat) : Bool := decide (rootBase ≤ a) && decide (a + n ≤ rootBase + rootLen)
def inStore (c a n : Nat) : Bool := decide (storeBase c ≤ a) && decide (a + n ≤ storeBase c + storeLen)

/-- Whether an address is populated memory of the map (R22, R23): DRAM below the ECC region, a cluster store's first 112 MiB, the root
store. -/
def populated (a n : Nat) : Bool :=
  inDram a n || inRoot a n || ((List.range 32).any fun c => inStore c a n)

/-- The DRAM slice and the root segment of an address (R76, R78). -/
def sliceOf (a : Nat) : Nat := a / 0x000400000000
def rootSegOf (a : Nat) : Nat := (a - rootBase) / 0x01000000

/-- The partition that owns DRAM slice `k`, root segment `g`, cluster `c`, die group `g`, engine `e` (R74). -/
def sliceOwner (s : State) (k : Nat) : Option Nat :=
  (List.range 16).find? fun p => (prec s p).active && (prec s p).dramSlices.getLsbD k
def rootSegOwner (s : State) (g : Nat) : Option Nat :=
  (List.range 16).find? fun p => (prec s p).active && (prec s p).rootSegs.getLsbD g
def clusterOwner (s : State) (c : Nat) : Option Nat :=
  (List.range 16).find? fun p => (prec s p).active && (prec s p).clusters.getLsbD c
def groupOwner (s : State) (g : Nat) : Option Nat :=
  (List.range 16).find? fun p => (prec s p).active && (prec s p).dieGroups.getLsbD g
def engineOwner (s : State) (e : Nat) : Option Nat :=
  (List.range 16).find? fun p => (prec s p).active && (prec s p).engines.getLsbD e

/-- Every slice a range touches is owned by `p` (R79). -/
def slicesOwned (s : State) (p a n : Nat) : Bool :=
  inDram a n && (List.range (sliceOf (a + n - 1) + 1 - sliceOf a)).all fun i =>
    (prec s p).dramSlices.getLsbD (sliceOf a + i)

/-- Every root segment a range touches is owned by `p`. -/
def rootOwned (s : State) (p a n : Nat) : Bool :=
  inRoot a n && (List.range (rootSegOf (a + n - 1) + 1 - rootSegOf a)).all fun i =>
    (prec s p).rootSegs.getLsbD (rootSegOf a + i)

/-- A block that is being reset takes no new work (R455). -/
def blockBusy (s : State) (ty ix : Nat) : Bool := s.rst.blkBusy && s.rst.blkType.toNat == ty && s.rst.blkIndex.toNat == ix

/-! ### Objects (R259, R260, R263) -/

/-- The partition of an object's table key, and the bits of OFLAGS. -/
def oPart (key : Nat) : Nat := key / 65536
def oCompress (o : Obj) : Bool := o.oflags.getLsbD 0
def oMapped (o : Obj) : Bool := o.oflags.getLsbD 1
def oReadOnly (o : Obj) : Bool := o.oflags.getLsbD 2
def oVolatile (o : Obj) : Bool := o.oflags.getLsbD 3
def oAdopt (o : Obj) : Bool := o.oflags.getLsbD 4

/-- Bytes of an object (R261). -/
def objSpan (o : Obj) : Nat := o.tiles * 2 ^ o.tileLog2 * 65536

/-- A MAPPED object whose DRAM lies in slices its owner has. After a change of configuration it may not, and then its owner reaches
nothing there (R79, R105). -/
def mappedHeld (s : State) (key : Nat) (o : Obj) : Bool := oMapped o && slicesOwned s (oPart key) o.daddr (objSpan o)

/-- Two ranges share a byte. -/
def overlaps (a n b m : Nat) : Bool := decide (a < b + m) && decide (b < a + n) && n != 0 && m != 0

/-! ### Clusters, slots, arrays -/

def cluster (s : State) (c : Nat) : Cluster := tget clusterReset s.clus c
def slot (s : State) (c i : Nat) : Slot := tget slotReset s.slots (c * 4 + i)
def arr (s : State) (c k : Nat) : Arr := tget arrReset s.arrs (c * 4 + k)

def updClu (s : State) (c : Nat) (f : Cluster → Cluster) : State := { s with clus := tmod clusterReset s.clus c f }
def updSlot (s : State) (c i : Nat) (f : Slot → Slot) : State := { s with slots := tmod slotReset s.slots (c * 4 + i) f }
def updArr (s : State) (c k : Nat) (f : Arr → Arr) : State := { s with arrs := tmod arrReset s.arrs (c * 4 + k) f }

/-- Column and row of a cluster in the mesh (R111). -/
def meshX (c : Nat) : Nat := 4 * ((c / 8) % 2) + c % 4
def meshY (c : Nat) : Nat := 2 * (c / 16) + (c / 4) % 2

/-- The cluster at a column and row (R111). -/
def clusterAt (x y : Nat) : Nat := 8 * (x / 4 + 2 * (y / 2)) + 4 * (y % 2) + x % 4

/-- The neighbour of a cluster: 0 N, 1 E, 2 S, 3 W (R112). -/
def neighbour (c dir : Nat) : Option Nat :=
  let x := meshX c
  let y := meshY c
  match dir with
  | 0 => if y = 0 then none else some (clusterAt x (y - 1))
  | 1 => if x = 7 then none else some (clusterAt (x + 1) y)
  | 2 => if y = 3 then none else some (clusterAt x (y + 1))
  | _ => if x = 0 then none else some (clusterAt (x - 1) y)

/-- ARRAY_MAP of a cluster, the count of its working arrays, and the physical position of logical array `k` (R5, R73). -/
def arrayMap (s : State) (c : Nat) : Nat := ((s.ident.arrayMap[c]?).getD 0).toNat
def physList (s : State) (c : Nat) : List Nat := (List.range 4).filter fun i => bitAt (arrayMap s c) i
def workingArrays (s : State) (c : Nat) : Nat := (physList s c).length
def arrPresent (s : State) (c k : Nat) : Bool := decide (k < workingArrays s c)

/-- The use of segment `i` of a cluster (R123), and the count of its cache segments (R134). -/
def segUse (s : State) (c i : Nat) : Nat := bits (cluster s c).segCfg.toNat (3 * i + 2) (3 * i)
def cacheSegs (s : State) (c : Nat) : Nat := ((List.range 7).filter fun i => segUse s c i == 4).length

/-- VIEW_SEGS of a slot, and the physical segment of a view segment (R124). -/
def viewSegs (s : State) (c i : Nat) : Nat := bits (tget 0 (cluster s c).xlat i).toNat 23 21
def xlatSeg (s : State) (c i v : Nat) : Nat := bits (tget 0 (cluster s c).xlat i).toNat (3 * v + 2) (3 * v)

/-- The module address a view address of slot `i` on cluster `c` names; none: the SEGMENT fault (R124, R133). -/
def viewAddr (s : State) (c i va : Nat) : Option Nat :=
  let v := bits va 26 24
  let ph := xlatSeg s c i v
  if v < viewSegs s c i && ph < 7 && segUse s c ph == i then some (storeBase c + ph * 0x01000000 + va % 0x01000000)
  else none

/-- A segment one of the ranges lies in is still being cleared (R126): no context accesses it yet. -/
def clearingAt (s : State) (ps : List (Nat × Nat)) : Bool :=
  s.clus.any fun k => k.2.clearing.any fun g => ps.any fun p => overlaps (storeBase k.1 + g.1 * 0x01000000) 0x01000000 p.1 p.2

/-- The module addresses of the pieces of a view range, split at segment ends; none: some byte has no translation. -/
def viewPieces (s : State) (c i : Nat) : Nat → Nat → Nat → Option (List (Nat × Nat))
  | 0, _, _ => some []
  | fuel + 1, va, n =>
    if n = 0 then some []
    else
      let m := min n (0x01000000 - va % 0x01000000)
      if 0x08000000 ≤ va then none
      else
        match viewAddr s c i va, viewPieces s c i fuel (va + m) (n - m) with
        | some a, some t => some ((a, m) :: t)
        | _, _ => none

/-- The pieces of a view range (at most eight segments). -/
def viewRange (s : State) (c i va n : Nat) : Option (List (Nat × Nat)) := viewPieces s c i 9 va n

/-- The pieces of a view range that translate, each by itself; the rest is left out. -/
def viewCover (s : State) (c i : Nat) : Nat → Nat → Nat → List (Nat × Nat)
  | 0, _, _ => []
  | fuel + 1, va, n =>
    if n = 0 || 0x08000000 ≤ va then []
    else
      let m := min n (0x01000000 - va % 0x01000000)
      (match viewAddr s c i va with
        | some a => [(a, m)]
        | none => []) ++ viewCover s c i fuel (va + m) (n - m)

/-- Bytes of a list of pieces. -/
def readPieces (m : Memory) : List (Nat × Nat) → List Byte
  | [] => []
  | (a, n) :: t => mread m a n ++ readPieces m t

/-- Memory with bytes written over a list of pieces in order. -/
def writePieces (m : Memory) : List (Nat × Nat) → List Byte → Memory
  | [], _ => m
  | (a, n) :: t, bs => writePieces (mwrite m a (bs.take n)) t (bs.drop n)

/-! ### Poison and the write guard -/

/-- A line of a range is poisoned (R496). -/
def poisoned (s : State) (a n : Nat) : Bool :=
  s.ras.poison.any fun x => x.2 && overlaps (x.1 * 64) 64 a n

/-- The lowest poisoned line of a range. -/
def poisonedLine (s : State) (a n : Nat) : Option Nat :=
  if poisoned s a n then (((List.range ((a % 64 + n + 63) / 64)).map fun i => a / 64 * 64 + 64 * i).find? fun l => poisoned s l 64) else none

/-- Poison marks after a write of a range: whole lines written are no longer poisoned (R494). -/
def poisonAfter (p : Tbl Bool) (a n : Nat) : Tbl Bool :=
  p.filter fun x => !(decide (a ≤ x.1 * 64) && decide (x.1 * 64 + 64 ≤ a + n))

/-- Whether a held tile's guard covers a byte of a range (R162, R203). -/
def guardHit (h : Held) (a n : Nat) : Bool := h.guard.any fun g => overlaps g.1 g.2 a n

/-- Arrays with every held tile whose guard the range touches cleared. -/
def fireGuards (l : Tbl Arr) (a n : Nat) : Tbl Arr :=
  l.map fun x => (x.1, match x.2.held with
    | some h => if guardHit h a n then { x.2 with held := none } else x.2
    | none => x.2)

/-- Bytes written to a cluster store at a module address: the bytes, the poison rule of R494, the write guard of R162. -/
def storeWrite (s : State) (a : Nat) (bs : List Byte) : State :=
  { s with
    mem := mwrite s.mem a bs
    arrs := fireGuards s.arrs a bs.length
    ras := { s.ras with poison := poisonAfter s.ras.poison a bs.length } }

/-- A range copied into a cluster store: as `storeWrite` of the bytes at `src`. -/
def storeMove (s : State) (src a n : Nat) : State :=
  { s with
    mem := mcopy s.mem src a n
    arrs := fireGuards s.arrs a n
    ras := { s.ras with poison := poisonAfter s.ras.poison a n } }

/-- Bytes written over pieces of a store. -/
def storeWritePieces (s : State) : List (Nat × Nat) → List Byte → State
  | [], _ => s
  | (a, n) :: t, bs => storeWritePieces (storeWrite s a (bs.take n)) t (bs.drop n)

/-- A range that reads as zero from now on (R126, R495): clearing writes side words only. -/
def clearRange (s : State) (a n : Nat) : State :=
  { s with
    mem := mclear s.mem a n
    arrs := fireGuards s.arrs a n
    ras := { s.ras with poison := poisonAfter s.ras.poison a n } }

end Sys2Proof.Machine
end

