-- ==== Sys2Proof/Machine/Log.lean ====
section
/-! DEFINITION. The error log (R501-R505). -/

namespace Sys2Proof.Machine

/-- What an error log entry records beside SEQ and TIMESTAMP (R502). -/
structure LogRec where
  source : Nat
  severity : Nat
  part : Option Nat
  eflags : Nat := 0
  unit : Nat := 0
  count : Nat := 1
  address : Nat := 0
  syndrome : Nat := 0
  symbol : Nat := 0xFF
  requester : Nat := 0xFF
  job : Nat := 0
  detail : Nat := 0

/-- The 64 bytes of an entry (R502). -/
def logBytes (seq : Nat) (ts : Nat) (e : LogRec) : List Byte :=
  leBytes 4 seq ++ leBytes 1 e.source ++ leBytes 1 e.severity ++ leBytes 1 (e.part.getD 0xFF) ++ leBytes 1 e.eflags
    ++ leBytes 8 ts ++ leBytes 4 e.unit ++ leBytes 4 e.count ++ leBytes 8 e.address ++ leBytes 4 e.syndrome
    ++ leBytes 1 e.symbol ++ leBytes 1 e.requester ++ zeros 2 ++ leBytes 4 e.job ++ leBytes 4 e.detail ++ zeros 16

/-- UNIT of a line by SOURCE (R502): DRAM channel, bank and row; cluster, segment, bank and row; root segment, bank and row. -/
def lineUnit (source a : Nat) : Nat :=
  let row (x : Nat) : Nat := (x / 64) % 64 + (x % 0x01000000) / 4096 * 64
  match source with
  | 1 => (a / 64) % 32 + 32 * (Config.dramBankRow (a / 64) % 2 ^ 22)
  | 2 => let x := a - 0x010000000000; x / 0x08000000 + 32 * ((x % 0x08000000) / 0x01000000) + 256 * row x
  | _ => (a - rootBase) / 0x01000000 + 32 * row (a - rootBase)

/-- A unit's bank, without the row. -/
def unitBank (source u : Nat) : Nat := match source with
  | 1 => u % 2 ^ 9
  | 2 => u % 2 ^ 14
  | _ => u % 2 ^ 11

/-- A repair recorded for a unit, of the row itself or of its bank (R506). -/
def repairOf (s : State) (source u : Nat) : Option Repair :=
  s.ras.repairs.find? fun x => match source with
    | 1 => x.kind == 4 && x.unit == u
    | 2 => (x.kind == 0 && x.unit == u) || (x.kind == 1 && x.unit == unitBank 2 u)
    | _ => (x.kind == 2 && x.unit == u) || (x.kind == 3 && x.unit == unitBank 3 u)

/-- An entry with what the log itself adds: UNIT of a line, RETIRE_SUGGESTED of an uncorrected error (R504), PENDING_REPAIR. -/
def fullRec (s : State) (e : LogRec) : LogRec :=
  let mem := decide (1 ≤ e.source) && decide (e.source ≤ 3)
  let unit := if mem && e.address != 0 then lineUnit e.source e.address else e.unit
  let retire := if e.severity == 1 && !bitAt e.eflags 1 then 16 else 0
  let pending := if mem && (repairOf s e.source unit).any fun x => !x.inEffect then 32 else 0
  { e with unit, eflags := e.eflags ||| retire ||| pending }

/-- The mailboxes an entry's RAS event is queued on (R505). -/
def logAudience (s : State) (part : Option Nat) : List (Fin 256) :=
  match part with
  | some p => mbsOf p
  | none => (List.finRange 256).filter fun n => ownerOf s n.val == 0

/-- An entry is recorded under the next sequence number, and its RAS event is queued (R501, R502, R505). -/
def logErr (s : State) (e : LogRec) : State :=
  let seq := s.ras.seq.toNat
  let crit := e.source == 1 && (e.severity == 1 || e.severity == 2)
  let s1 := { s with ras := { s.ras with
    log := tput s.ras.log (seq % 65536) (logBytes seq (now s) (fullRec s e))
    seq := s.ras.seq + 1
    critDram := s.ras.critDram || crit } }
  (logAudience s e.part).foldl (fun s n => eventOn s 0x0006 (seq % 65536) n) s1

/-- MEDIA_ERROR for the entry about to be logged carries the low 16 bits of its SEQ (R496). -/
def nextSeqLow (s : State) : Nat := s.ras.seq.toNat % 65536

end Sys2Proof.Machine
end

