-- ==== Sys2Proof/Machine/Ftl.lean ====
section
/-! DEFINITION. Operations of the flash translation layer (chapter 13): the map, fragments, pages and superblocks, programming, folding,
reclamation, checkpoints and recovery, pins, the legacy cache and reads. -/

namespace Sys2Proof.Machine

/-! ### Groups and superblocks (R389, R390) -/

def grp (s : State) (g : Nat) : Group := tget groupReset s.ftl.groups g
def updGrp (s : State) (g : Nat) (f : Group → Group) : State :=
  { s with ftl := { s.ftl with groups := tmod groupReset s.ftl.groups g f } }
def groupPopulated (s : State) (g : Nat) : Bool := decide (g < s.ident.flashChannels / 4)

/-- Superblocks in SLC mode, QLC superblocks in service, slots of a superblock (R390; which 16 are SLC: log entry 21). -/
def slcSbs : List Nat := (List.range 16).map (· + 1114)
def qlcSbs : List Nat := List.range 1106
def isSlcSb (k : Nat) : Bool := decide (1114 ≤ k)
def sbSlots (k : Nat) : Nat := if isSlcSb k then 216 * 576 else 216 * 2304

def sbOf (g : Group) (k : Nat) : Sb := tget sbReset g.sbs k
def updSb (s : State) (g k : Nat) (f : Sb → Sb) : State := updGrp s g fun x => { x with sbs := tmod sbReset x.sbs k f }

/-- The member (die * 6 + plane) that holds slot `t` of a superblock, in rotating die order (R389). -/
def slotMember (t : Nat) : Nat := t % 36 * 6 + t / 36 % 6

/-- The packed address of slot `t` of superblock `k` (R391), without STATE. -/
def slotAddr (g k t : Nat) : Nat := g * 2 ^ 33 + t % 36 * 2 ^ 27 + t / 36 % 6 * 2 ^ 24 + k * 2 ^ 12 + t / 216

/-- Fields of a packed address. -/
def aGroup (a : Nat) : Nat := bits a 37 33
def aDie (a : Nat) : Nat := bits a 32 27
def aPlane (a : Nat) : Nat := bits a 26 24
def aBlock (a : Nat) : Nat := bits a 23 12

/-- The next slot of a superblock that no retired member holds (R407). -/
def nextSlot (k : Nat) (b : Sb) : Option Nat :=
  ((List.range 216).map (· + b.next)).find? fun t => decide (t < sbSlots k) && !b.retired.contains (slotMember t)

/-- The superblock to write next: the open one with a slot left, else the free one with the fewest erases (R405). -/
def writeSb (g : Group) (slc : Bool) : Option Nat :=
  let l := if slc then slcSbs else qlcSbs
  match l.find? fun k => (sbOf g k).st == .open_ && (nextSlot k (sbOf g k)).isSome with
  | some k => some k
  | none =>
    match l.filter fun k => (sbOf g k).st == .free with
    | [] => none
    | k :: t => some (t.foldl (fun a b => if (sbOf g b).erases < (sbOf g a).erases then b else a) k)

/-- Free QLC superblocks. -/
def freeQlc (g : Group) : Nat := (qlcSbs.filter fun k => (sbOf g k).st == .free).length

/-! ### Programming -/

def pageAt (s : State) (a : Nat) : Option FPage := tfind? s.ftl.pages (a % 2 ^ 38)
def putPage (s : State) (a : Nat) (x : FPage) : State := { s with ftl := { s.ftl with pages := tput s.ftl.pages (a % 2 ^ 38) x } }

/-- Byte-wise exclusive or of two pages of 16 KiB. -/
def xorBytes (a b : List Byte) : List Byte := (a.zip b).map fun x => x.1 ^^^ x.2

/-- The parity unit of a stripe (R390). -/
def parityOf (s : State) (l : List Nat) : List Byte :=
  l.foldl (fun acc a => xorBytes acc (fit (((pageAt s a).map (·.data)).getD []) 16384)) (zeros 16384)

/-- A slot taken in superblock `k`: the superblock is open, and closed once no slot is left. -/
def takeSlot (s : State) (g k t : Nat) : State :=
  let s := updSb s g k fun b => { b with st := .open_, next := t + 1 }
  let s := updGrp s g fun x => { x with mediaUnits := x.mediaUnits + 1, journal := x.journal + 16384 }
  if (nextSlot k (sbOf (grp s g) k)).isNone then
    updSb s g k fun b => { b with st := .closed, closedAt := (grp s g).seq }
  else s

/-- A page programmed into SLC or QLC of a group: its address, or none while no page is free. After every 31 data units the parity unit
follows (R390). -/
def progPage (s : State) (g : Nat) (slc : Bool) (x : FPage) : Option (State × Nat) :=
  match writeSb (grp s g) slc with
  | none => none
  | some k =>
    match nextSlot k (sbOf (grp s g) k) with
    | none => none
    | some t =>
      let a := slotAddr g k t
      let s := putPage (takeSlot s g k t) a x
      let s := updSb s g k fun b => { b with stripe := b.stripe ++ [a] }
      let st := (sbOf (grp s g) k).stripe
      if st.length < 31 then some (s, a)
      else
        match nextSlot k (sbOf (grp s g) k) with
        | none => some (updSb s g k fun b => { b with stripe := [] }, a)
        | some t' =>
          let p : FPage := { kind := .parity, data := parityOf s st, nsid := 0, unit := 0, mask := 0, seq := x.seq, lba := 0, count := 0 }
          let s := putPage (takeSlot s g k t') (slotAddr g k t') p
          some (updSb s g k fun b => { b with stripe := [] }, a)

/-- The next journal sequence number of a group. -/
def nextSeq (s : State) (g : Nat) : State × Nat := (updGrp s g fun x => { x with seq := x.seq + 1 }, (grp s g).seq)

/-! ### The map (R391, R392) -/

def unitKey (ns u : Nat) : Nat := ns * 2 ^ 34 + u
def entryOf (s : State) (ns u : Nat) : Nat := tget 0 s.ftl.map (unitKey ns u)

/-- The partition of a namespace (R359), its die groups, the group a unit is written to (log entry 22). -/
def nsPart (ns : Nat) : Nat := (ns - 1) / 64
def nsGroups (s : State) (ns : Nat) : List Nat :=
  (List.range 32).filter fun g => (prec s (nsPart ns)).dieGroups.getLsbD g && groupPopulated s g
def unitGroup (s : State) (ns u : Nat) : Nat :=
  let l := nsGroups s ns
  (l[u % max 1 l.length]?).getD 0

/-- What an entry stands for: a base and the fragments over it. -/
def recOf (s : State) (e : Nat) : FragRec :=
  if bits e 39 38 = 3 then tget { base := 0, mask := 0, frags := [0, 0, 0, 0] } (grp s (aGroup e)).frags (bits e 22 0)
  else { base := e, mask := 0, frags := [0, 0, 0, 0] }
def unitRec (s : State) (ns u : Nat) : FragRec := recOf s (entryOf s ns u)

/-- A fragment address for slot `j` of the SLC page at `a` (R391). -/
def fragAddr (a j : Nat) : Nat := 2 * 2 ^ 38 + a / 4096 * 4096 % 2 ^ 38 + j * 1024 + a % 1024

/-- The page address and slot of a fragment address. -/
def fragPage (f : Nat) : Nat := f % 2 ^ 38 / 4096 * 4096 + f % 1024
def fragSlot (f : Nat) : Nat := bits f 11 10

/-- Block `j` of a unit from its record (R392). -/
def recBlock (s : State) (r : FragRec) (j : Nat) : List Byte :=
  let f := (r.frags[j]?).getD 0
  if bitAt r.mask j then
    (if f = 0 then zeros 4096 else slice (((pageAt s (fragPage f)).map (·.data)).getD []) (fragSlot f * 4096) 4096)
  else if bits r.base 39 38 = 0 then zeros 4096
  else slice (((pageAt s r.base).map (·.data)).getD []) (j * 4096) 4096

/-- Whole 16 KiB of a unit from its record. -/
def recUnit (s : State) (r : FragRec) : List Byte := (List.range 4).flatMap (recBlock s r)

/-- Pins that need a unit as it stands keep its record before it changes (R397). -/
def keepPinned (s : State) (ns u : Nat) : State :=
  let r := unitRec s ns u
  { s with ftl := { s.ftl with pins := s.ftl.pins.map fun p =>
      if p.nsid == ns && (tfind? p.old u).isNone then { p with old := tput p.old u r } else p } }

/-- A unit's entry set; a fragment record it held is freed unless the new entry names it. -/
def setEntry (s : State) (ns u e : Nat) : State :=
  let s := keepPinned s ns u
  let old := entryOf s ns u
  let s := if bits old 39 38 = 3 && old != e then
      updGrp s (aGroup old) fun x => { x with frags := tdel x.frags (bits old 22 0) } else s
  { s with ftl := { s.ftl with map := if e = 0 then tdel s.ftl.map (unitKey ns u) else tput s.ftl.map (unitKey ns u) e } }

/-- The lowest free fragment record of a group, if any. -/
def freeFrag (g : Group) : Option Nat :=
  ((List.range (g.frags.length + 1)).find? fun i => (tfind? g.frags i).isNone).bind fun i => if i < 2 ^ 23 then some i else none

/-- A unit's blocks of a mask replaced by fragments (zero addresses for blocks that read as zero). -/
def setFrags (s : State) (ns u mask : Nat) (frags : List Nat) : State :=
  let e := entryOf s ns u
  let s := keepPinned s ns u
  let r := recOf s e
  let m := r.mask ||| mask
  let fs := (List.range 4).map fun j => if bitAt mask j then (frags[j]?).getD 0 else (r.frags[j]?).getD 0
  let g := if bits e 39 38 = 3 then aGroup e else unitGroup s ns u
  let ix := if bits e 39 38 = 3 then some (bits e 22 0) else freeFrag (grp s g)
  match ix with
  | none => s
  | some i =>
    let s := updGrp s g fun x => { x with frags := tput x.frags i { r with mask := m, frags := fs } }
    { s with ftl := { s.ftl with map := tput s.ftl.map (unitKey ns u) (3 * 2 ^ 38 + g * 2 ^ 33 + i) } }

/-- A data page at address `a` takes effect in the map (R391-R393). -/
def applyData (s : State) (x : FPage) (a : Nat) : State :=
  let e := (if isSlcSb (aBlock a) then 2 else 1) * 2 ^ 38 + a % 2 ^ 38
  if x.mask = 0xF then setEntry s x.nsid x.unit e
  else setFrags s x.nsid x.unit x.mask ((List.range 4).map fun j => if bitAt x.mask j then fragAddr a j else 0)

/-- Units a range of blocks touches, with the mask of the blocks in each. -/
def unitsOf (lba n : Nat) : List (Nat × Nat) :=
  if n = 0 then [] else
  (List.range ((lba + n - 1) / 4 + 1 - lba / 4)).map fun i =>
    let u := lba / 4 + i
    (u, natSum ((List.range 4).map fun j => if lba ≤ 4 * u + j && 4 * u + j < lba + n then 2 ^ j else 0))

/-- The mask of the blocks of unit `u` in a range, and the mapped units of a namespace that a range touches. -/
def maskOf (lba n u : Nat) : Nat := natSum ((List.range 4).map fun j => if lba ≤ 4 * u + j && 4 * u + j < lba + n then 2 ^ j else 0)
def mappedIn (s : State) (ns lba n : Nat) : List Nat :=
  ((s.ftl.map.filter fun x => x.1 / 2 ^ 34 == ns).map fun x => x.1 % 2 ^ 34).filter fun u => maskOf lba n u != 0

/-- A deallocation takes effect on the units of group `g`: whole units become UNMAPPED, the rest keep their data (R394). -/
def applyDealloc (s : State) (g ns lba n : Nat) : State :=
  (mappedIn s ns lba n).foldl (fun s u => if maskOf lba n u = 0xF && unitGroup s ns u == g then setEntry s ns u 0 else s) s

/-- Write Zeroes takes effect on the units of group `g`: whole units become UNMAPPED, blocks of partly covered units read as zero (R394). -/
def applyZeroes (s : State) (g ns lba n : Nat) : State :=
  (mappedIn s ns lba n).foldl (fun s u =>
    if unitGroup s ns u != g then s
    else if maskOf lba n u = 0xF then setEntry s ns u 0
    else setFrags s ns u (maskOf lba n u) [0, 0, 0, 0]) s

/-- A page takes effect in the map: when it is programmed, and in the replay of R400. -/
def applyPage (s : State) (x : FPage) (a : Nat) : State :=
  match x.kind with
  | .data => applyData s x a
  | .zeroes => applyZeroes s (aGroup a) x.nsid x.lba x.count
  | .dealloc => applyDealloc s (aGroup a) x.nsid x.lba x.count
  | .parity | .commit | .mode => s

/-! ### Writes -/

/-- The pages of a write: one per unit it touches, each with its slots and their data (R392, R393). -/
def writePages (ns lba seq : Nat) (bs : List Byte) : List FPage :=
  let n := bs.length / 4096
  (unitsOf lba n).map fun x =>
    { kind := .data, nsid := ns, unit := x.1, mask := x.2, seq, lba := 0, count := 0
      data := (List.range 4).flatMap fun j =>
        if bitAt x.2 j then slice bs ((4 * x.1 + j - lba) * 4096) 4096 else zeros 4096 }

/-- Pairs in the pin table of a group, and room in it for those that a change of some units would add; the table holds 2^24 (R397). -/
def pinPairs (s : State) (g : Nat) : Nat := natSum (s.ftl.pins.map fun p => (p.old.filter fun x => unitGroup s p.nsid x.1 == g).length)
def pinRoom (s : State) (ns : Nat) (us : List Nat) : Bool :=
  (nsGroups s ns).all fun g =>
    let l := us.filter fun u => unitGroup s ns u == g
    decide (pinPairs s g + natSum (s.ftl.pins.map fun p =>
      if p.nsid == ns then (l.filter fun u => (tfind? p.old u).isNone).length else 0) ≤ 2 ^ 24)

/-- Room in the fragment tables for the records that a change of parts of some units needs (R392). -/
def fragRoom (s : State) (ns : Nat) (us : List Nat) : Bool :=
  (nsGroups s ns).all fun g =>
    decide ((us.filter fun u => unitGroup s ns u == g && bits (entryOf s ns u) 39 38 != 3).length + (grp s g).frags.length ≤ 2 ^ 23)

/-- Pages programmed for commands that have not completed, which are not in effect yet. -/
def pendingPages (s : State) : List Nat := s.nvm.ctrls.flatMap fun c => (c.2.cmds.filter (·.done.isNone)).flatMap (·.pend)

/-- Such a page brings data of the unit. -/
def pendingUnit (s : State) (ns u : Nat) : Bool := (pendingPages s).any fun a => (pageAt s a).any fun p => p.nsid == ns && p.unit == u

/-- A write can be programmed: every group has a free SLC page, and the fragment and pin tables have room (R392, R395, R397). -/
def writable (s : State) (ns lba n : Nat) : Bool :=
  let us := unitsOf lba n
  pinRoom s ns (us.map (·.1)) && fragRoom s ns ((us.filter fun x => x.2 != 0xF).map (·.1)) &&
    us.all fun x => (writeSb (grp s (unitGroup s ns x.1)) true).isSome

/-- Free slots of a group's SLC buffer. -/
def slcFree (g : Group) : Nat :=
  natSum (slcSbs.map fun k => match (sbOf g k).st with
    | .free | .open_ => sbSlots k - (sbOf g k).next
    | .closed | .erasing => 0)

/-- With `n` more blocks, what a partition's write cache holds still fits into SLC and the fragment tables, as step 5 of R401 needs
(log entry 132). -/
def drainRoom (s : State) (p n : Nat) : Bool :=
  let c := (s.ftl.cache.filter fun x => nsPart x.1 == p).length + n
  c == 0 || (List.range 32).all fun g =>
    !((prec s p).dieGroups.getLsbD g && groupPopulated s g) ||
      (decide (2 * c + 64 ≤ slcFree (grp s g)) && decide (c + (grp s g).frags.length ≤ 2 ^ 23))

/-- A write by the host can be programmed now: its groups are not short of QLC superblocks (R404), and room for the write cache is left. -/
def hostWritable (s : State) (ns lba n : Nat) : Bool :=
  writable s ns lba n && ((unitsOf lba n).all fun x => decide (4 ≤ freeQlc (grp s (unitGroup s ns x.1)))) && drainRoom s (nsPart ns) 0

/-- Pages programmed in turn, each under its unit's group; none while a group has no page free. -/
def progPages (s : State) : List FPage → Option (State × List (FPage × Nat))
  | [] => some (s, [])
  | x :: t =>
    match progPage s (unitGroup s x.nsid x.unit) true x with
    | none => none
    | some (s, a) =>
      match progPages s t with
      | none => none
      | some (s, l) => some (s, (x, a) :: l)

/-- The sequence number of a write: the groups it touches advance together. -/
def writeSeq (s : State) (gs : List Nat) : State × Nat :=
  let q := natMax (gs.map fun g => (grp s g).seq)
  (gs.foldl (fun s g => updGrp s g fun x => { x with seq := q + 1 }) s, q)

/-- Blocks of the legacy write cache that a later change supersedes go: all of a range, or of its whole units alone (R366, R394). -/
def dropCached (s : State) (ns lba n : Nat) (wholeUnits : Bool) : State :=
  { s with ftl := { s.ftl with cache := s.ftl.cache.filter fun x =>
      !(x.1 == ns && decide (lba ≤ x.2.1) && decide (x.2.1 < lba + n) && (!wholeUnits || maskOf lba n (x.2.1 / 4) == 0xF)) } }

/-- A write by a service or from the cache, durable and in effect at once; none while it must wait, for room or for a write in flight. -/
def ftlWrite (s : State) (ns lba : Nat) (bs : List Byte) : Option State :=
  let us := unitsOf lba (bs.length / 4096)
  if !writable s ns lba (bs.length / 4096) || us.any (fun x => pendingUnit s ns x.1) then none
  else
    let (s, q) := writeSeq s (us.map fun x => unitGroup s ns x.1)
    match progPages s (writePages ns lba q bs) with
    | none => none
    | some (s, l) =>
      let s := dropCached (l.foldl (fun s x => applyPage s x.1 x.2) s) ns lba (bs.length / 4096) false
      some (l.foldl (fun s x => updGrp s (aGroup x.2) fun k => { k with hostUnits := k.hostUnits + 1 }) s)

/-- A journal page programmed in each of some groups, in effect at once; none while a group has no page free. -/
def journalGroups (x : FPage) : List Nat → State → Option State
  | [], s => some s
  | g :: t, s =>
    match progPage s g true x with
    | none => none
    | some (s, a) => journalGroups x t (applyPage s x a)

/-- The groups that hold units of a range: its units go to them in turn. -/
def rangeGroups (s : State) (ns lba n : Nat) : List Nat :=
  if n = 0 then [] else
  ((List.range (min ((lba + n - 1) / 4 + 1 - lba / 4) (nsGroups s ns).length)).map fun i => unitGroup s ns (lba / 4 + i)).eraseDups

/-- A deallocation or zeroing by a service or a command, journalled in every group it touches and in effect at once; none while it must wait. -/
def ftlJournal (s : State) (kind : PageKind) (ns lba n : Nat) : Option State :=
  let us := mappedIn s ns lba n
  let gs := rangeGroups s ns lba n
  if !pinRoom s ns us || (kind == .zeroes && !fragRoom s ns (us.filter fun u => maskOf lba n u != 0xF)) then none
  else
    let (s, q) := writeSeq (dropCached s ns lba n (kind == .dealloc)) gs
    journalGroups { kind, data := [], nsid := ns, unit := lba / 4, mask := 0, seq := q, lba, count := n } gs s

/-! ### Reads -/

/-- A cached block of a legacy namespace, if any (R402). -/
def cachedBlock (s : State) (ns lba : Nat) : Option (List Byte) :=
  (s.ftl.cache.find? fun x => x.1 == ns && x.2.1 == lba).map (·.2.2)

/-- The newest data of one block. -/
def ftlBlock (s : State) (ns lba : Nat) : List Byte :=
  match cachedBlock s ns lba with
  | some d => d
  | none => recBlock s (unitRec s ns (lba / 4)) (lba % 4)

/-- The newest data of `n` blocks. -/
def ftlRead (s : State) (ns lba n : Nat) : List Byte := (List.range n).flatMap fun i => ftlBlock s ns (lba + i)

/-- The pin of a request on a namespace, and the record of a unit at the epoch it pins (R397). -/
def pinOf (s : State) (r : ReqId) (ns : Nat) : Option Pin := s.ftl.pins.find? fun p => p.req == r && p.nsid == ns
def pinnedRec (s : State) (r : ReqId) (ns u : Nat) : FragRec :=
  ((pinOf s r ns).bind fun p => tfind? p.old u).getD (unitRec s ns u)

/-- The data of `n` blocks at the epoch a request pinned (R397). -/
def pinnedRead (s : State) (r : ReqId) (ns lba n : Nat) : List Byte :=
  (List.range n).flatMap fun i =>
    match (pinOf s r ns).bind fun p => tfind? p.cached (lba + i) with
    | some d => d
    | none => recBlock s (pinnedRec s r ns ((lba + i) / 4)) ((lba + i) % 4)

/-- A superblock scheduled for rewrite (R406). -/
def schedRewrite (s : State) (g k : Nat) : State :=
  updGrp s g fun x => if x.toRewrite.contains k then x else { x with toRewrite := x.toRewrite ++ [k] }

/-! ### Namespaces, pins, claims -/

def nsOf (s : State) (ns : Nat) : Option Ns := tfind? s.ftl.nss ns
def updNs (s : State) (ns : Nat) (f : Ns → Ns) : State :=
  match nsOf s ns with
  | some x => { s with ftl := { s.ftl with nss := tput s.ftl.nss ns (f x) } }
  | none => s

/-- A namespace of partition `p` (R359). -/
def nsIn (s : State) (p ns : Nat) : Option Ns := if ns != 0 && nsPart ns == p then nsOf s ns else none

/-- Its die groups have recovered (R371, R400). -/
def nsReady (s : State) (ns : Nat) : Bool := (nsGroups s ns).all fun g => (grp s g).st != 0

/-- A die group of it is read-only (R407). -/
def nsReadOnly (s : State) (ns : Nat) : Option Nat := (nsGroups s ns).find? fun g => (grp s g).st == 2

/-- The commit epoch advances, with its record (R397). -/
def advanceEpoch (s : State) (ns : Nat) : State :=
  let s := updNs s ns fun x => { x with epoch := x.epoch + 1 }
  let g := unitGroup s ns 0
  let (s, q) := nextSeq s g
  let x : FPage := { kind := .commit, data := [], nsid := ns, unit := 0, mask := 0, seq := q, lba := 0
                     count := ((nsOf s ns).map fun k => k.epoch.toNat).getD 0 }
  match progPage s g true x with
  | some (s, _) => s
  | none => s

/-- Pins whose request has ended are gone. -/
def dropPins (s : State) : State :=
  { s with ftl := { s.ftl with pins := s.ftl.pins.filter fun p => (findExec s p.req).isSome } }

/-- A request pins a namespace: its epoch advances, and the state before is kept for it, with the acknowledged writes of the legacy cache (R397). -/
def pinNs (s : State) (r : ReqId) (ns : Nat) : State :=
  let s := advanceEpoch (dropPins s) ns
  let epoch := ((nsOf s ns).map (·.epoch)).getD 0
  let pin : Pin := { req := r, nsid := ns, epoch, old := [], cached := (s.ftl.cache.filter fun x => x.1 == ns).map (·.2) }
  { s with ftl := { s.ftl with pins := s.ftl.pins.filter (fun p => p.req != r) ++ [pin] } }

/-- A write to a range would touch an extent a service has claimed (R262, R289, R337). -/
def claimed (s : State) (ns lba n : Nat) : Bool :=
  s.ftl.claims.any fun c => c.nsid == ns && overlaps c.lba c.len lba n

def addClaim (s : State) (c : Claim) : State := { s with ftl := { s.ftl with claims := s.ftl.claims ++ [c] } }
def dropClaims (s : State) (kind key : Nat) : State :=
  { s with ftl := { s.ftl with claims := s.ftl.claims.filter fun c => !(c.kind == kind && c.key == key) } }

/-! ### The legacy write cache (R402) -/

/-- Bytes the cache of a partition may hold. -/
def cacheCap (s : State) (p : Nat) : Nat := ((List.range 32).filter fun g => (prec s p).dieGroups.getLsbD g).length * 0x08000000

def cacheBytes (s : State) (p : Nat) : Nat := 4096 * (s.ftl.cache.filter fun x => nsPart x.1 == p).length

/-- One cached block programmed into SLC, which leaves the cache; it stays there while it must wait. -/
def drainBlock (s : State) (x : Nat × Nat × List Byte) : State :=
  (ftlWrite s x.1 x.2.1 (fit x.2.2 4096)).getD s

/-- The cached writes of some namespaces programmed into SLC. -/
def drainCache (s : State) (which : Nat → Bool) : State := (s.ftl.cache.filter fun x => which x.1).foldl drainBlock s

/-- A block put in the cache. -/
def cachePut (s : State) (ns lba : Nat) (d : List Byte) : State :=
  { s with ftl := { s.ftl with cache := (s.ftl.cache.filter fun y => !(y.1 == ns && y.2.1 == lba)) ++ [(ns, lba, d)] } }

/-! ### Moving units: folding, reclamation, rewrite (R395, R396, R404, R406) -/

/-- A record refers to a page in superblock `k` of group `g`. -/
def recIn (r : FragRec) (g k : Nat) : Bool :=
  let at_ (a : Nat) : Bool := a != 0 && aGroup a == g && aBlock a == k
  (bits r.base 39 38 != 0 && at_ r.base) || ((List.range 4).any fun j => bitAt r.mask j && at_ ((r.frags[j]?).getD 0))

/-- A record's unit copied whole to QLC; the new record, or none while QLC has no page. -/
def copyUp (s : State) (g ns u : Nat) (r : FragRec) : Option (State × Nat) :=
  let (s, q) := nextSeq s g
  let x : FPage := { kind := .data, data := recUnit s r, nsid := ns, unit := u, mask := 0xF, seq := q, lba := 0, count := 0 }
  progPage s g false x

/-- One mapped unit moved, if its record still refers to the superblock (R396) and no write to it is in flight: such a write's entry would stand. -/
def moveUnit (g k : Nat) (s : State) (key : Nat) : State :=
  let ns := key / 2 ^ 34
  let u := key % 2 ^ 34
  let r := unitRec s ns u
  if recIn r g k && !pendingUnit s ns u then
    match copyUp s g ns u r with
    | none => s
    | some (s, a) =>
      let e := 2 ^ 38 + a
      let old := entryOf s ns u
      let s := if bits old 39 38 = 3 then updGrp s (aGroup old) fun x => { x with frags := tdel x.frags (bits old 22 0) } else s
      { s with ftl := { s.ftl with map := tput s.ftl.map key e } }
  else s

/-- Pinned records that refer to the superblock, moved. -/
def movePins (g k : Nat) (s : State) : State :=
  s.ftl.pins.foldl (fun s p =>
    p.old.foldl (fun s o =>
      if recIn o.2 g k then
        match copyUp s g p.nsid o.1 o.2 with
        | none => s
        | some (s, a) =>
          { s with ftl := { s.ftl with pins := s.ftl.pins.map fun q =>
              if q.req == p.req && q.nsid == p.nsid then
                { q with old := tput q.old o.1 { base := 2 ^ 38 + a, mask := 0, frags := [0, 0, 0, 0] } } else q } }
      else s) s) s

/-- Every valid unit of a superblock moved to QLC. -/
def evacuate (s : State) (g k : Nat) : State :=
  movePins g k ((s.ftl.map.map (·.1)).foldl (moveUnit g k) s)

/-- Valid units of a superblock, pinned ones included (R404). -/
def validUnits (s : State) (g k : Nat) : Nat :=
  (s.ftl.map.filter fun x => recIn (recOf s x.2) g k).length +
    natSum (s.ftl.pins.map fun p => (p.old.filter fun o => recIn o.2 g k).length)

/-- The first sequence number of a group that a checkpoint taken now does not cover: that of the oldest page not in effect yet, else the next. -/
def coveredTo (s : State) (g : Nat) : Nat :=
  ((pendingPages s).filter fun a => aGroup a == g).foldl (fun q a => match pageAt s a with
    | some p => min q p.seq
    | none => q) (grp s g).seq

/-- A checkpoint of a group (R399): its part of the map and its fragments as of now. -/
def checkpointGrp (s : State) (g : Nat) : State :=
  let q := coveredTo s g
  updGrp s g fun x =>
    { x with ckptSeq := q, ckptMap := s.ftl.map.filter fun e => aGroup e.2 == g, ckptFrags := x.frags, ckptAt := now s, journal := 0 }

/-- A superblock erased: its pages go, and an erase is issued to each member (R389). Journal pages it holds are first covered by a
checkpoint (R399, R400). -/
def eraseSb (s : State) (g k : Nat) : State :=
  let s := checkpointGrp s g
  let s := { s with ftl := { s.ftl with pages := s.ftl.pages.filter fun x => !(aGroup x.1 == g && aBlock x.1 == k) } }
  let members := (List.range 216).filter fun m => !(sbOf (grp s g) k).retired.contains m
  let s := updSb s g k fun b => { b with st := .erasing, next := 0, stripe := [] }
  updGrp s g fun x =>
    { x with ops := x.ops ++ members.map fun m => { kind := .erase, die := m / 6, plane := m % 6, sb := k, page := 0, owner := none }
             toRewrite := x.toRewrite.filter (· != k) }

/-- A superblock evacuated and erased, once nothing in it is valid. -/
def reclaimSb (s : State) (g k : Nat) : State :=
  let s := evacuate s g k
  if validUnits s g k = 0 then eraseSb s g k else s

/-- SLC slots of a group that hold something. -/
def slcFill (g : Group) : Nat := natSum (slcSbs.map fun k => (sbOf g k).next)

/-! ### Retiring (R407) -/

/-- A group of the owner of group `g`, or `g` itself, has no spare plane-block left. -/
def spentOwner (s : State) (g : Nat) : Bool :=
  (grp s g).spare == 0 || (List.range 32).any fun h => groupPopulated s h && (groupOwner s g).isSome && groupOwner s h == groupOwner s g && (grp s h).spare == 0

/-- Groups that have recovered are read-only exactly while a group of their partition has no spare left. -/
def settleReadOnly (s : State) : State :=
  (List.range 32).foldl (fun s g =>
    if (grp s g).st == 0 then s
    else
      let st : Fin 3 := if spentOwner s g then 2 else 1
      if (grp s g).st == st then s else updGrp s g fun x => { x with st }) s

/-- A plane-block is retired; with no spare left the groups of its partition are read-only. -/
def retireBlock (s : State) (g k member : Nat) : State :=
  let s := updSb s g k fun b => { b with retired := b.retired ++ [member] }
  settleReadOnly (updGrp s g fun x => { x with spare := x.spare - 1, retired := x.retired + 1 })

/-! ### Recovery (R400) -/

/-- Pages in ascending sequence number. -/
def insertBySeq (x : Nat × FPage) : List (Nat × FPage) → List (Nat × FPage)
  | [] => [x]
  | y :: t => if x.2.seq < y.2.seq then x :: y :: t else y :: insertBySeq x t
def sortBySeq : List (Nat × FPage) → List (Nat × FPage)
  | [] => []
  | x :: t => insertBySeq x (sortBySeq t)

/-- A group loads its checkpoint and replays the pages written after it. -/
def recoverGrp (s : State) (g : Nat) : State :=
  let x := grp s g
  let rest := s.ftl.map.filter fun e => aGroup e.2 != g
  let s := { s with ftl := { s.ftl with map := x.ckptMap.foldl (fun m e => tput m e.1 e.2) rest } }
  let s := updGrp s g fun k => { k with frags := k.ckptFrags }
  let l := sortBySeq (s.ftl.pages.filter fun p => aGroup p.1 == g && x.ckptSeq ≤ p.2.seq)
  let s := l.foldl (fun s p => applyPage s p.2 p.1) s
  let st : Fin 3 := if spentOwner s g then 2 else 1
  updGrp s g fun k => { k with st }

end Sys2Proof.Machine
end

