-- ==== Sys2Proof/Machine/Nvme.lean ====
section
/-! DEFINITION. NVMe controllers (chapter 12): queues, doorbells, fetching and arbitration, data pointers, completions, abort and deletion,
controller reset and shutdown. Layouts of the NVMe base specification that the spec names but does not print are PRESUMED (log
entry 23). -/

namespace Sys2Proof.Machine

def ctrl (s : State) (f : Nat) : Ctrl := tget ctrlReset s.nvm.ctrls f
def updCtrl (s : State) (f : Nat) (g : Ctrl → Ctrl) : State :=
  { s with nvm := { s.nvm with ctrls := tmod ctrlReset s.nvm.ctrls f g } }

/-- Controller `f` exists (R358). -/
def ctrlExists (s : State) (f : Nat) : Bool := f == 0 || vfExists s f

/-- The partition of a VF controller. -/
def ctrlPart (s : State) (f : Nat) : Option Nat := if f = 0 then none else partOfVf s f

/-! ### Fields of a submission queue entry -/

def sqOpc (e : List Byte) : Nat := fld e 0 1
def sqCid (e : List Byte) : Nat := fld e 2 2
def sqNsid (e : List Byte) : Nat := fld e 4 4
def cdw (e : List Byte) (i : Nat) : Nat := fld e (4 * i) 4

/-- Generic status codes as (SCT, SC). -/
def stOk : Nat × Nat := (0, 0)
def stOpcode : Nat × Nat := (0, 0x01)
def stField : Nat × Nat := (0, 0x02)
def stCid : Nat × Nat := (0, 0x03)
def stInternal : Nat × Nat := (0, 0x06)
def stAborted : Nat × Nat := (0, 0x07)
def stSqDeleted : Nat × Nat := (0, 0x08)
def stSglCount : Nat × Nat := (0, 0x0D)
def stSglLength : Nat × Nat := (0, 0x0F)
def stNs : Nat × Nat := (0, 0x0B)
def stSequence : Nat × Nat := (0, 0x0C)
def stSglType : Nat × Nat := (0, 0x11)
def stProtected : Nat × Nat := (0, 0x20)
def stLba : Nat × Nat := (0, 0x80)
def stNotReady : Nat × Nat := (0, 0x82)
def stDenied : Nat × Nat := (2, 0x86)
def stUnrecovered : Nat × Nat := (2, 0x81)

/-! ### Completions -/

/-- The 16 bytes of a completion entry. -/
def cqeBytes (c : NCpl) (sqhd : Nat) (phase : Bool) : List Byte :=
  leBytes 4 c.dw0 ++ zeros 4 ++ leBytes 2 sqhd ++ leBytes 2 c.key.sq ++ leBytes 2 c.key.cid.toNat
    ++ leBytes 2 (bnat phase + c.sc * 2 + c.sct * 2 ^ 9 + bnat c.dnr * 2 ^ 15)

/-- A completion queue is full. -/
def cqFull (q : Cq) : Bool := (q.tail + 1) % q.size == q.head

/-- The 64-byte Error Information entry of a completion (R371). -/
def errEntry (n : Nat) (c : NCpl) (nsid lba : Nat) : List Byte :=
  leBytes 8 n ++ leBytes 2 c.key.sq ++ leBytes 2 c.key.cid.toNat ++ leBytes 2 (c.sc * 2 + c.sct * 2 ^ 9 + bnat c.dnr * 2 ^ 15)
    ++ leBytes 2 0xFFFF ++ leBytes 8 lba ++ leBytes 4 nsid ++ zeros 36

/-- The partition whose regulators a command's transactions pass: its VF's, or that of the namespace a command of controller 0 names; 16 for
the system's slots (R97, R365). -/
def cmdPass (s : State) (k : CmdKey) (e : List Byte) : Nat :=
  match ctrlPart s k.ctrl.val with
  | some p => p
  | none => if 1 ≤ sqNsid e && sqNsid e ≤ 1024 then nsPart (sqNsid e) else 16

/-- PCIe transactions of a command: its function's requester ID, the regulators of `cmdPass` (R80, R365). -/
def cmdAccs (s : State) (k : CmdKey) (e : List Byte) (write : Bool) (l : List (Nat × Nat)) : State :=
  l.foldl (fun s g => hostAcc s k.ctrl.val (cmdPass s k e) write g.1 g.2) s

/-- A host command is any I/O command, or any admin command but Get Log Page (R379). -/
def hostCommand (q opc : Nat) : Bool := q != 0 || opc != 2

/-- A host command whose completion is waited for: not an Asynchronous Event Request, which waits without limit (log entry 29). -/
def busyCommand (e : List Byte) (q : Nat) : Bool := hostCommand q (sqOpc e) && !(q == 0 && sqOpc e == 0x0C)

/-- The completion queue of a command's submission queue. -/
def cqOf (x : Ctrl) (c : NCmd) : Option (Nat × Sq × Cq) :=
  (tfind? x.sqs c.key.sq).bind fun sq => (tfind? x.cqs sq.cqid).map fun q => (sq.cqid, sq, q)

/-- The command's completion has a place in its completion queue. -/
def cqRoom (x : Ctrl) (c : NCmd) : Bool := (cqOf x c).any fun q => !cqFull q.2.2

/-- The first command whose completion may be posted now, and the commands without it: one that is done and whose completion queue has room; of an
ordered queue only after every earlier one of the queue (R367). -/
def nextPost (x : Ctrl) (before : List NCmd) : List NCmd → Option (NCmd × NCpl × List NCmd)
  | [] => none
  | c :: t =>
    match c.done with
    | none => nextPost x (before ++ [c]) t
    | some d =>
      if (c.ordered && before.any fun y => y.key.sq == c.key.sq && y.ordered) || !cqRoom x c then nextPost x (before ++ [c]) t
      else some (c, d, before ++ t)

/-- The Error Information log after a completion: one that carries an error is entered (R371). -/
def noteError (x : Ctrl) (c : NCpl) (sqe : List Byte) : Ctrl :=
  if (c.sct == 0 && c.sc == 0) || (c.sct == 1 && c.sc == 0x10) then x
  else { x with errCount := x.errCount + 1, errLog := (errEntry (x.errCount + 1) c (sqNsid sqe) (fld sqe 40 8) :: x.errLog).take 64 }

/-- A completion is written to its completion queue, with an interrupt if enabled; an error is also logged. -/
def postNvme (s : State) (f : Nat) (c : NCmd) (d : NCpl) : State :=
  match cqOf (ctrl s f) c with
  | none => s
  | some (id, sq, q) =>
    let a := q.base + q.tail * 16
    let s := { cmdAccs s c.key c.sqe true [(a, 16)] with hmem := mwrite s.hmem a (cqeBytes d sq.head q.phase) }
    let tail := (q.tail + 1) % q.size
    let q' := { q with tail, phase := if tail = 0 then !q.phase else q.phase }
    let s := updCtrl s f fun x =>
      { noteError x d c.sqe with cqs := tput x.cqs id q', hostAt := if busyCommand c.sqe c.key.sq then now s else x.hostAt }
    if q.ien then emit s (.msix f q.iv) else s

/-- Completions that may be posted are posted. -/
def postAll : Nat → State → Nat → State
  | 0, s, _ => s
  | n + 1, s, f =>
    match nextPost (ctrl s f) [] (ctrl s f).cmds with
    | none => s
    | some (c, d, rest) => postAll n (postNvme (updCtrl s f fun x => { x with cmds := rest }) f c d) f

/-- A controller after its reset: queues and features go; its logs, the admin queue registers, the timestamp and the counts of R388 stay. -/
def afterReset (x : Ctrl) : Ctrl :=
  { ctrlReset with cc := x.cc, aqa := x.aqa, asq := x.asq, acq := x.acq, errLog := x.errLog, errCount := x.errCount, stResults := x.stResults
                   suspends := x.suspends, regUrgMax := x.regUrgMax, regUrgOver := x.regUrgOver, aborted := x.aborted
                   conflicts := x.conflicts, stalls := x.stalls, tstamp := x.tstamp, changedNs := x.changedNs, hostAt := x.hostAt }

/-- A controller reset in progress: commands that have finished are gone without completion, and with the last of them RDY falls (R361). -/
def settleReset (x : Ctrl) : Ctrl :=
  let l := x.cmds.filter fun c => c.done.isNone
  if l.isEmpty then afterReset x else { x with cmds := l }

/-- Commands that are done complete: their completions are posted as far as they may be; in a controller reset they finish without one. -/
def flushDone (s : State) (f : Nat) : State :=
  if (ctrl s f).resetting then updCtrl s f settleReset else postAll (ctrl s f).cmds.length s f

def isCmd (k : CmdKey) (x : NCmd) : Bool := x.key == k && x.done.isNone
def findCmd (s : State) (k : CmdKey) : Option NCmd := (ctrl s k.ctrl.val).cmds.find? (isCmd k)
def updCmd (s : State) (k : CmdKey) (g : NCmd → NCmd) : State :=
  updCtrl s k.ctrl.val fun x => { x with cmds := modFirst (isCmd k) g x.cmds }

/-- A command completes. -/
def nDone (s : State) (k : CmdKey) (st : Nat × Nat) (dw0 : Nat := 0) (dnr : Bool := true) : State :=
  let c : NCpl := { key := k, dw0, sct := st.1, sc := st.2, dnr := dnr && !(st == stOk) }
  flushDone (updCmd s k fun x => { x with done := some c }) k.ctrl.val

/-- A command row: the command named is outstanding and its opcode is the row's; else the row's event does not happen. -/
def nRow (s : State) (k : CmdKey) (admin : Bool) (opc : Nat) (g : State → NCmd → State) : Res :=
  match findCmd s k with
  | some x => if (k.sq == 0) == admin && sqOpc x.sqe == opc then .next (g s x) else .next s
  | none => .next s

/-! ### Opcodes accepted (R369) -/

def adminOps : List Nat := [0x00, 0x01, 0x02, 0x04, 0x05, 0x06, 0x08, 0x09, 0x0A, 0x0C, 0x0D, 0x10, 0x11, 0x14, 0x15, 0x80]
def ioOps : List Nat := [0x00, 0x01, 0x02, 0x08, 0x09]
def opcodeAccepted (f sq opc : Nat) : Bool :=
  if sq = 0 then adminOps.contains opc && (f == 0 || (opc != 0x10 && opc != 0x11)) else ioOps.contains opc

/-- Write-type commands (R366, R367). -/
def writeType (x : NCmd) : Bool :=
  x.key.sq != 0 && (sqOpc x.sqe == 1 || sqOpc x.sqe == 8 || (sqOpc x.sqe == 9 && bitAt (cdw x.sqe 11) 2))

/-! ### Fields that are reserved (R371; log entry 23) -/

/-- Dwords `a` to `b`, every bit of them. -/
def wholeDwords (a b : Nat) : List (Nat × Nat) := (List.range (b + 1 - a)).map fun i => (a + i, 0xFFFFFFFF)

/-- Bits of the dwords 6 to 15 of a command that its opcode reserves, or that name metadata or protection. -/
def reservedIn (admin : Bool) (opc : Nat) : List (Nat × Nat) :=
  if admin then
    match opc with
    | 0x00 | 0x04 => wholeDwords 6 9 ++ (10, 0xFFFF0000) :: wholeDwords 11 15
    | 0x01 => wholeDwords 8 9 ++ [(11, 0xFFF8), (12, 0xFFFF0000)] ++ wholeDwords 13 15
    | 0x05 => wholeDwords 8 9 ++ (11, 0xFFFC) :: wholeDwords 12 15
    | 0x02 => (14, 0x007FFF80) :: wholeDwords 15 15
    | 0x06 => [(10, 0xFF00), (11, 0x00FF0000)] ++ wholeDwords 12 13 ++ (14, 0xFFFFFF80) :: wholeDwords 15 15
    | 0x08 => wholeDwords 6 9 ++ wholeDwords 11 15
    | 0x09 => [(10, 0x7FFFFF00)]
    | 0x0A => [(10, 0xFFFFF800)]
    | 0x0C => wholeDwords 6 15
    | 0x0D => [(10, 0xFFFFFFF0), (11, 0x00FFFFFF)] ++ wholeDwords 12 15
    | 0x10 => wholeDwords 6 9 ++ (10, 0x7FFFFFC0) :: wholeDwords 11 13
    | 0x11 => wholeDwords 12 15
    | 0x14 => wholeDwords 6 9 ++ (10, 0xFFFFFFF0) :: wholeDwords 11 14
    | 0x15 => (10, 0xFFFFFFF0) :: wholeDwords 11 15
    | 0x80 => wholeDwords 6 9 ++ wholeDwords 11 15
    | _ => []
  else
    match opc with
    | 0x00 => wholeDwords 6 15
    | 0x01 => [(12, 0x3FFF0000), (13, 0xFF00)] ++ wholeDwords 14 15
    | 0x02 => [(12, 0x3FFF0000), (13, 0xFFFFFF00)] ++ wholeDwords 14 15
    | 0x08 => wholeDwords 6 9 ++ (12, 0x3DFF0000) :: wholeDwords 13 15
    | 0x09 => [(10, 0xFFFFFF00), (11, 0xFFFFFFF8)] ++ wholeDwords 12 15
    | _ => []

/-- A reserved, metadata or protection field of a command is not zero: FUSE and the reserved flags, dwords 2 to 5, and those of its opcode. -/
def fieldsBad (admin : Bool) (e : List Byte) : Bool :=
  ((0, 0x3F00) :: wholeDwords 2 5 ++ reservedIn admin (sqOpc e)).any fun r => cdw e r.1 &&& r.2 != 0

/-! ### Doorbells and fetching -/

/-- A controller takes doorbells and fetches commands: it is ready, and no reset of it is in progress. -/
def serving (x : Ctrl) : Bool := x.rdy && !x.resetting


/-- SQ_DOORBELL: the host writes the tail of a submission queue. -/
def execSqDoorbell (fn : Fn) (q : Nat) (v : Half) (s : State) : Res :=
  let x := ctrl s fn.val
  match tfind? x.sqs q with
  | none => .next s
  | some k =>
    if !serving x || k.size ≤ v.toNat then .next s
    else
      let n := (v.toNat + k.size - k.tail) % k.size
      .next (updCtrl s fn.val fun x => { x with sqs := tput x.sqs q { k with tail := v.toNat, dbs := k.dbs ++ [(n, now s)] } })

/-- CQ_HEAD_DOORBELL frees places, and completions that waited for one are posted. -/
def execCqHeadDoorbell (fn : Fn) (q : Nat) (v : Half) (s : State) : Res :=
  let x := ctrl s fn.val
  match tfind? x.cqs q with
  | none => .next s
  | some k =>
    if !serving x || k.size ≤ v.toNat then .next s
    else .next (flushDone (updCtrl s fn.val fun x => { x with cqs := tput x.cqs q { k with head := v.toNat } }) fn.val)

/-- Weighted round robin with urgent class is selected (R365). -/
def amsUrgent (x : Ctrl) : Bool := bits x.cc.toNat 13 11 == 1

/-- Contexts of a controller's pool, and those non-urgent commands may hold (R364). -/
def poolSize (f : Nat) : Nat := if f = 0 then 4096 else 3840
def poolPlain (f : Nat) : Nat := if f = 0 then 3840 else 3584

/-- A context is free for the next command of a queue. -/
def contextFree (f : Nat) (x : Ctrl) (urgent : Bool) : Bool :=
  decide (x.cmds.length < poolSize f) && (urgent || decide ((x.cmds.filter fun c => !c.urgent).length < poolPlain f))

/-- A queue has entries to fetch. -/
def sqWaiting (k : Sq) : Bool := k.head != k.tail && !k.deleting

/-- A queue is of the urgent class. -/
def sqUrgent (x : Ctrl) (id : Nat) (k : Sq) : Bool := amsUrgent x && id != 0 && k.prio == 0

/-- The first of some queues after the one served last, in round robin. -/
def rrNext (turn : Nat) (l : List Nat) : Option Nat :=
  match l.find? fun q => turn < q with
  | some q => some q
  | none => l.head?

/-- The weight of class 1-3 in Feature 01h. -/
def classWeight (x : Ctrl) (c : Nat) : Nat :=
  let v := (tget 0 x.feats 1).toNat
  1 + (if c = 1 then bits v 31 24 else if c = 2 then bits v 23 16 else bits v 15 8)

/-- Commands a queue may give in one turn (AB of Feature 01h; 7 means no limit). -/
def burstOf (x : Ctrl) : Nat := let v := bits (tget 0 x.feats 1).toNat 2 0; if v = 7 then 0x10000 else 2 ^ v

/-- The queue of a class `c` that is served next, and the controller after it: the one served last while its burst lasts, then the next in turn. -/
def pickTurn (x : Ctrl) (c : Nat) (l : List Nat) : Option (Nat × Ctrl) :=
  let t := tget (0, 0) x.turns c
  if l.contains t.1 && t.2 != 0 then some (t.1, { x with turns := tput x.turns c (t.1, t.2 - 1) })
  else (rrNext t.1 l).map fun q => (q, { x with turns := tput x.turns c (q, burstOf x - 1) })

/-- The queue a fetch takes from, and the controller's arbitration state after it (R365): urgent queues first, then the admin queue, then
the weighted classes, each in turn within itself; without weighted round robin every queue in turn. -/
def arbitrate (x : Ctrl) : Option (Nat × Ctrl) :=
  let wait := x.sqs.filter fun q => sqWaiting q.2
  if !amsUrgent x then pickTurn x 4 (wait.map (·.1))
  else
    let urgent := (wait.filter fun q => sqUrgent x q.1 q.2).map (·.1)
    let cls (c : Nat) : List Nat := (wait.filter fun q => q.1 != 0 && q.2.prio == c).map (·.1)
    if !urgent.isEmpty then pickTurn x 0 urgent
    else if wait.any (fun q => q.1 == 0) then some (0, x)
    else
      let alive := [1, 2, 3].filter fun c => !(cls c).isEmpty
      let cr := if alive.any fun c => tget 0 x.credits c != 0 then x.credits
        else [(1, classWeight x 1), (2, classWeight x 2), (3, classWeight x 3)]
      match alive.find? fun c => tget 0 cr c != 0 with
      | none => none
      | some c => pickTurn { x with credits := tput cr c (tget 0 cr c - 1) } c (cls c)

/-- The doorbell that made the entry at the head visible, and the list after it is taken. -/
def takeDb : List (Nat × Nat) → Nat × List (Nat × Nat)
  | [] => (0, [])
  | (0, _) :: t => takeDb t
  | (n + 1, ts) :: t => (ts, if n = 0 then t else (n, ts) :: t)

/-- The module returns to the last operational state when an I/O command is fetched in PS3 or PS4 (R381). -/
def wakeUp (s : State) : State := if 3 ≤ s.nvm.ps.val then { s with nvm := { s.nvm with ps := s.nvm.lastOp } } else s

/-- The result entry of a self-test that ended with a code (R379). -/
def stResult (code seg : Nat) (t : SelfTest) (ts vs : Nat) : List Byte :=
  leBytes 1 (code + (if t.ext then 0x20 else 0x10)) ++ leBytes 1 seg ++ leBytes 1 1 ++ zeros 1 ++ leBytes 8 (ts / 3600000000000)
    ++ leBytes 4 t.nsid ++ zeros 8 ++ zeros 2 ++ leBytes 2 vs
/-- A self-test of a controller ends with a code (R379). -/
def endSelfTest (s : State) (f : Nat) (code vs : Nat) : State :=
  match (ctrl s f).selfTest with
  | none => s
  | some t => updCtrl s f fun x =>
      { x with selfTest := none, stResults := (stResult code (if code == 7 then t.segment else 0) t (now s) vs :: x.stResults).take 20 }

/-- A host command stops a self-test of its controller (R379); at the 10,000th suspension the test ends. -/
def suspendSelfTest (s : State) (f : Nat) : State :=
  match (ctrl s f).selfTest with
  | none => s
  | some t =>
    if t.stopped then s
    else
      let s := updCtrl s f fun x => { x with suspends := x.suspends + 1, selfTest := some { t with stopped := true } }
      if 10000 ≤ (ctrl s f).suspends then endSelfTest s f 8 1 else s

/-- A command of controller 0 names a namespace of a sealed partition, which to it is unallocated (R360). -/
def namesSealed (s : State) (f : Nat) (e : List Byte) : Bool :=
  f == 0 && decide (1 ≤ sqNsid e) && decide (sqNsid e ≤ 1024) && isSealed s (nsPart (sqNsid e))

/-- The status that refuses a command as it is fetched: an opcode not accepted (R369), a reserved field (R371), a sealed partition's namespace
(R360). -/
def fetchRefusal (s : State) (f q : Nat) (e : List Byte) : Option (Nat × Nat) :=
  if !opcodeAccepted f q (sqOpc e) then some stOpcode
  else if fieldsBad (q == 0) e then some stField
  else if namesSealed s f e then some stNs
  else none

/-- A command joins the outstanding ones; one refused is done at once with its status, and is posted like any other, in an ordered queue in
its place (R367; log entry 131). -/
def addCmd (s : State) (f : Nat) (c : NCmd) (refused : Option (Nat × Nat)) : State :=
  let done := refused.map fun st => ({ key := c.key, dw0 := 0, sct := st.1, sc := st.2, dnr := true } : NCpl)
  let s := updCtrl { s with nvm := { s.nvm with order := s.nvm.order + 1 } } f fun x =>
    { x with cmds := x.cmds ++ [{ c with order := s.nvm.order, done }] }
  if done.isSome then flushDone s f else s

/-- SQ_FETCH: the front end takes the next command of the queue that arbitration chooses, if a context of its pool is free (R364, R365).
A command whose CID an uncompleted command of its queue holds is refused (R368), as are those of `fetchRefusal`. -/
def execSqFetch (fn : Fn) (q : Nat) (s : State) : Res :=
  let f := fn.val
  let x := ctrl s f
  if !serving x || s.rst.halt != .no then .next s
  else
    match arbitrate x with
    | none => .next s
    | some (q', x') =>
      match tfind? x.sqs q with
      | none => .next s
      | some k =>
        if q' != q then .next s
        else if !contextFree f x (sqUrgent x q k) then
          .next (if x.stalled then s else updCtrl s f fun x => { x with stalled := true, stalls := satInc x.stalls })
        else
          let a := k.base + k.head * 64
          let e := mread s.hmem a 64
          let db := takeDb k.dbs
          let key : CmdKey := ⟨fn, q, BitVec.ofNat 16 (sqCid e)⟩
          let s := hostAcc s f ((ctrlPart s f).getD 16) false a 64
          let s := updCtrl s f fun _ =>
            { x' with sqs := tput x'.sqs q { k with head := (k.head + 1) % k.size, dbs := db.2 }, stalled := false }
          let s := if q = 0 then s else wakeUp s
          let s := if hostCommand q (sqOpc e) then suspendSelfTest s f else s
          let c : NCmd := { key, sqe := e, order := 0, urgent := sqUrgent x q k, ordered := k.ordered, dbTs := db.1
                            committed := q == 0 && sqOpc e != 0x0C, pend := [], journalled := false, done := none }
          .next (if x.cmds.any (fun c => c.key == key) then
              addCmd (updCtrl s f fun x => { x with conflicts := satInc x.conflicts }) f c (some stCid)
            else addCmd s f c (fetchRefusal s f q e))

/-! ### Data pointers (R363) -/

/-- A data pointer followed: the list entries that were read, and the pieces of the data, each as address and length. -/
abbrev DataWalk : Type := List (Nat × Nat) × List (Nat × Nat)

/-- A PRP list at `a` for `n` bytes. -/
def prpList (hm : Memory) : Nat → Nat → Nat → DataWalk
  | 0, _, _ => ([], [])
  | fuel + 1, a, n =>
    if n = 0 then ([], [])
    else
      let p := mnat hm a 8 / 4096 * 4096
      let next := if a % 4096 = 4088 && 4096 < n then prpList hm fuel p n else prpList hm fuel (a + 8) (n - min n 4096)
      ((a, 8) :: next.1, if a % 4096 = 4088 && 4096 < n then next.2 else (p, min n 4096) :: next.2)

/-- `n` bytes at PRP1 and PRP2. -/
def prpWalk (hm : Memory) (p1 p2 n : Nat) : DataWalk :=
  let m := min n (4096 - p1 % 4096)
  if n ≤ m then ([], [(p1, n)])
  else if n - m ≤ 4096 then ([], [(p1, m), (p2 / 4096 * 4096, n - m)])
  else let l := prpList hm 200 p2 (n - m); (l.1, (p1, m) :: l.2)

/-- `n` bytes from SGL descriptor `d` on, whose segment goes on at `a` with `cnt` more: Data Blocks, Segments and Last Segments; a list that is
not of the data's length, or of a descriptor of another type, is refused (R363; log entry 23). -/
def sglWalk (hm : Memory) : Nat → List Byte → Nat → Nat → Nat → Except (Nat × Nat) DataWalk
  | 0, _, _, _, _ => .error stSglCount
  | fuel + 1, d, a, cnt, n =>
    let m := fld d 8 4
    match fld d 15 1 / 16 with
    | 0 =>
      if n < m || (cnt = 0 && m != n) then .error stSglLength
      else if cnt = 0 then .ok ([], [(fld d 0 8, m)])
      else (sglWalk hm fuel (mread hm a 16) (a + 16) (cnt - 1) (n - m)).map fun l => ((a, 16) :: l.1, (fld d 0 8, m) :: l.2)
    | 2 | 3 =>
      let b := fld d 0 8
      if m < 16 then (if n = 0 then .ok ([], []) else .error stSglLength)
      else (sglWalk hm fuel (mread hm b 16) (b + 16) (m / 16 - 1) n).map fun l => ((b, 16) :: l.1, l.2)
    | _ => .error stSglType

/-- The host pieces of a command's data, or the status of a bad data pointer. -/
def dataPieces (s : State) (e : List Byte) (n : Nat) : Except (Nat × Nat) DataWalk :=
  if bits (fld e 1 1) 7 6 = 0 then .ok (prpWalk s.hmem (fld e 24 8) (fld e 32 8) n)
  else if bits (fld e 1 1) 7 6 = 3 then .error stField
  else sglWalk s.hmem 0x100000 (slice e 24 16) 0 0 n

/-- The data a command brings, and the state after the reads. -/
def hostGet (s : State) (k : CmdKey) (e : List Byte) (n : Nat) : Except (Nat × Nat) (State × List Byte) :=
  (dataPieces s e n).map fun l => (cmdAccs (cmdAccs s k e false l.1) k e false l.2, fit (readPieces s.hmem l.2) n)

/-- Data returned to the host; a controller in its reset returns none. -/
def hostPut (s : State) (k : CmdKey) (e : List Byte) (bs : List Byte) : Except (Nat × Nat) State :=
  if (ctrl s k.ctrl.val).resetting then .ok s
  else
    (dataPieces s e bs.length).map fun l =>
      { cmdAccs (cmdAccs s k e false l.1) k e true l.2 with hmem := writePieces s.hmem l.2 bs }

/-- A command that returns data completes with it, or with the status of its bad data pointer. -/
def nReturn (s : State) (k : CmdKey) (e bs : List Byte) (dw0 : Nat := 0) : State :=
  match hostPut s k e bs with
  | .ok s => nDone s k stOk dw0
  | .error st => nDone s k st

/-! ### Queue creation and deletion (R363, R387) -/

/-- Highest I/O queue identifier of a controller. -/
def maxQueue (f : Nat) : Nat := if f = 0 then 256 else 64

def execCreateIoCq (k : CmdKey) (s : State) : Res :=
  nRow s k true 0x05 fun s x =>
    let e := x.sqe
    let id := bits (cdw e 10) 15 0
    let n := bits (cdw e 10) 31 16 + 1
    if id = 0 || maxQueue k.ctrl.val < id || (tfind? (ctrl s k.ctrl.val).cqs id).isSome then nDone s k (1, 0x01)
    else if n < 2 then nDone s k (1, 0x02)
    else if !bitAt (cdw e 11) 0 || bits (cdw e 11) 15 2 != 0 then nDone s k stField
    else
      let q : Cq := { size := n, base := fld e 24 8 / 4096 * 4096, iv := bits (cdw e 11) 31 16, ien := bitAt (cdw e 11) 1, head := 0
                      tail := 0, phase := true }
      nDone (updCtrl s k.ctrl.val fun c => { c with cqs := tput c.cqs id q, queued := true }) k stOk

def execCreateIoSq (k : CmdKey) (s : State) : Res :=
  nRow s k true 0x01 fun s x =>
    let e := x.sqe
    let id := bits (cdw e 10) 15 0
    let n := bits (cdw e 10) 31 16 + 1
    let cq := bits (cdw e 11) 31 16
    if id = 0 || maxQueue k.ctrl.val < id || (tfind? (ctrl s k.ctrl.val).sqs id).isSome then nDone s k (1, 0x01)
    else if n < 2 then nDone s k (1, 0x02)
    else if cq = 0 || (tfind? (ctrl s k.ctrl.val).cqs cq).isNone then nDone s k (1, 0x00)
    else if !bitAt (cdw e 11) 0 || bits (cdw e 11) 15 3 != 0 then nDone s k stField
    else
      let q : Sq := { size := n, base := fld e 24 8 / 4096 * 4096, cqid := cq, prio := bits (cdw e 11) 2 1, ordered := false, head := 0
                      tail := 0, dbs := [], deleting := false }
      nDone (updCtrl s k.ctrl.val fun c => { c with sqs := tput c.sqs id q, queued := true }) k stOk

/-- Commands of a queue. -/
def queueCmds (s : State) (f q : Nat) : List NCmd := (ctrl s f).cmds.filter fun c => c.key.sq == q

/-- DELETE_IO_SQ: the queue gives no more commands, and those before their commit point end with Command Aborted due to SQ Deletion; it completes
once every command of the queue has posted its completion (R387). -/
def execDeleteIoSq (k : CmdKey) (s : State) : Res :=
  nRow s k true 0x00 fun s x =>
    let f := k.ctrl.val
    let id := bits (cdw x.sqe 10) 15 0
    match tfind? (ctrl s f).sqs id with
    | none => nDone s k (1, 0x01)
    | some q =>
      if id = 0 then nDone s k (1, 0x01)
      else
        let s := updCtrl s f fun c => { c with sqs := tput c.sqs id { q with deleting := true } }
        let s := (queueCmds s f id).foldl (fun s c => if c.committed || c.done.isSome then s else nDone s c.key stSqDeleted) s
        if (queueCmds s f id).isEmpty then nDone (updCtrl s f fun c => { c with sqs := tdel c.sqs id }) k stOk else s

def execDeleteIoCq (k : CmdKey) (s : State) : Res :=
  nRow s k true 0x04 fun s x =>
    let f := k.ctrl.val
    let id := bits (cdw x.sqe 10) 15 0
    if id = 0 || (tfind? (ctrl s f).cqs id).isNone then nDone s k (1, 0x01)
    else if (ctrl s f).sqs.any (fun q => q.2.cqid == id) then nDone s k (1, 0x0C)
    else nDone (updCtrl s f fun c => { c with cqs := tdel c.cqs id }) k stOk

/-! ### Abort, asynchronous events (R386, R369) -/

/-- NVME_ABORT: a fifth outstanding Abort is refused; a command before its commit point completes first, with Command Abort
Requested. -/
def execNvmeAbort (k : CmdKey) (s : State) : Res :=
  nRow s k true 0x08 fun s x =>
    let f := k.ctrl.val
    let aborts := (ctrl s f).cmds.filter fun c => c.key.sq == 0 && sqOpc c.sqe == 8 && decide (c.order ≤ x.order)
    let t : CmdKey := ⟨k.ctrl, bits (cdw x.sqe 10) 15 0, BitVec.ofNat 16 (bits (cdw x.sqe 10) 31 16)⟩
    if 4 < aborts.length then nDone s k (1, 0x03)
    else
      match findCmd s t with
      | some y =>
        if y.committed then nDone s k stOk 1
        else
          let s := updCtrl (nDone s t stAborted) f fun c => { c with aborted := satInc c.aborted }
          nDone s k stOk 0
      | none => nDone s k stOk 1

/-- Outstanding Asynchronous Event Requests, oldest first. -/
def aers (s : State) (f : Nat) : List NCmd := (ctrl s f).cmds.filter fun c => c.key.sq == 0 && sqOpc c.sqe == 0x0C && c.done.isNone

/-- An asynchronous event is delivered to the oldest request, or kept for the next. -/
def nEvent (s : State) (f : Nat) (dw0 : Nat) : State :=
  match aers s f with
  | c :: _ => nDone s c.key stOk dw0
  | [] => updCtrl s f fun x => if x.events.contains dw0 then x else { x with events := x.events ++ [dw0] }

def execAsynchronousEventRequest (k : CmdKey) (s : State) : Res :=
  nRow s k true 0x0C fun s _ =>
    let f := k.ctrl.val
    let before := (aers s f).takeWhile fun c => c.key != k
    if 4 ≤ before.length then nDone s k (1, 0x05)
    else
      match before, (ctrl s f).events with
      | [], e :: t => nDone (updCtrl s f fun x => { x with events := t }) k stOk e
      | _, _ => s

/-! ### Controller reset and shutdown (R361) -/

/-- A controller reset: commands before their commit point, and those that wait only to be posted, are abandoned without completion; those past it
finish, and RDY falls once they have; a self-test ends with code 2h. -/
def resetCtrl (s : State) (f : Nat) : State :=
  updCtrl (endSelfTest s f 2 0) f fun x =>
    settleReset { x with cc := 0, shst := 0, events := [], resetting := true, cmds := x.cmds.filter fun c => c.committed && c.done.isNone }

/-- CC as it is held: reserved bits read zero (log entry 23). -/
def ccFields (v : Word) : Word := v &&& 0x00FFFFF1

/-- CC_EN_SET: a controller is enabled with its admin queues; RDY rises unless Tilir has not started or recovery boot runs (R485). While the last
reset still waits for commands to finish it is not enabled (log entry 131). -/
def execCcEnSet (fn : Fn) (cc : Word) (s : State) : Res :=
  let f := fn.val
  if !ctrlExists s f || !cc.getLsbD 0 || (ctrl s f).cc.getLsbD 0 || (ctrl s f).resetting then .next s
  else
    .next (updCtrl s f fun x =>
      let sq : Sq := { size := bits x.aqa.toNat 11 0 + 1, base := x.asq.toNat, cqid := 0, prio := 0, ordered := false, head := 0, tail := 0, dbs := [], deleting := false }
      let cq : Cq := { size := bits x.aqa.toNat 27 16 + 1, base := x.acq.toNat, iv := 0, ien := true, head := 0, tail := 0, phase := true }
      { x with cc := ccFields cc, rdy := s.rst.ready && (s.fw.running != 2 || s.fw.recovered), shst := 0, sqs := [(0, sq)], cqs := [(0, cq)] })

/-- CONTROLLER_RESET: CC.EN is cleared. -/
def execControllerReset (fn : Fn) (cc : Word) (s : State) : Res :=
  if cc.getLsbD 0 || !(ctrl s fn.val).cc.getLsbD 0 then .next s
  else .next (updCtrl (resetCtrl s fn.val) fn.val fun x => { x with cc := ccFields cc })

/-- Namespaces a controller sees: those of its partition, or of every partition that is not sealed (R360). -/
def nsVisible (s : State) (f ns : Nat) : Bool :=
  (nsOf s ns).isSome && (match ctrlPart s f with
    | some p => nsPart ns == p
    | none => f == 0 && !isSealed s (nsPart ns))

/-- Acknowledged writes of namespaces a controller sees are still in the volatile cache. -/
def unflushed (s : State) (f : Nat) : Bool := s.ftl.cache.any fun x => nsVisible s f x.1

/-- Controllers whose shutdown waits for the cache: it is programmed as far as it can be, and SHST reads 0b10 once it is empty (R361). -/
def settleShutdowns (s : State) : State :=
  (List.range 17).foldl (fun s f =>
    if (ctrl s f).shst.val = 1 then
      let s := drainCache s fun ns => nsVisible s f ns
      if unflushed s f then s else updCtrl s f fun x => { x with shst := 2 }
    else s) s

/-- SHUTDOWN: SHST reads 0b10 once every acknowledged write is durable: legacy caches are flushed, and each group writes a checkpoint
(R361, R399); 0b01 while a write still waits in the cache. -/
def execShutdown (fn : Fn) (cc : Word) (s : State) : Res :=
  let f := fn.val
  if bits cc.toNat 15 14 = 0 || !(ctrl s f).cc.getLsbD 0 then .next s
  else
    let s := drainCache s fun ns => nsVisible s f ns
    let gs := (List.range 32).filter fun g => groupPopulated s g && (grp s g).st != 0 && (match groupOwner s g with
      | some p => (match ctrlPart s f with
        | some q => p == q
        | none => !isSealed s p)
      | none => false)
    let s := gs.foldl checkpointGrp s
    .next (updCtrl s f fun x => { x with cc := ccFields cc, shst := if unflushed s f then 1 else 2 })

/-! ### Controller properties (R358) -/

/-- CAP of a controller. -/
def capOf (f : Nat) : Nat := 0xFFFF + 2 ^ 16 + 2 ^ 17 + 120 * 2 ^ 24 + (if f = 0 then 2 ^ 36 else 0) + 2 ^ 37

/-- CSTS of a controller, but for NSSRO. -/
def cstsOf (x : Ctrl) : Nat := bnat x.rdy + x.shst.val * 4

/-- A 32-bit property at an offset of BAR0. -/
def propRead (s : State) (f off : Nat) : Nat :=
  let x := ctrl s f
  match off with
  | 0x00 => capOf f % 2 ^ 32
  | 0x04 => capOf f / 2 ^ 32
  | 0x08 => 0x00020000
  | 0x0C => x.intm.toNat
  | 0x10 => x.intm.toNat
  | 0x14 => x.cc.toNat
  | 0x1C => cstsOf x + bnat (f == 0 && s.nvm.nssro) * 16
  | 0x24 => x.aqa.toNat
  | 0x28 => x.asq.toNat % 2 ^ 32
  | 0x2C => x.asq.toNat / 2 ^ 32
  | 0x30 => x.acq.toNat % 2 ^ 32
  | 0x34 => x.acq.toNat / 2 ^ 32
  | _ => 0

/-- A 64-bit register with its low or high word set. -/
def setLow (d : Dword) (v : Word) : Dword := BitVec.ofNat 64 (d.toNat / 2 ^ 32 * 2 ^ 32 + v.toNat)
def setHigh (d : Dword) (v : Word) : Dword := BitVec.ofNat 64 (d.toNat % 2 ^ 32 + v.toNat * 2 ^ 32)

end Sys2Proof.Machine
end

