-- ==== Sys2Proof/Machine/OpSpec.lean ====
section
/-! DEFINITION. How an opcode table states an opcode for the checks made when a request is consumed (R57 steps 6-12): its PARAMS bytes,
payload form, length rule, range checks and lower retry budget. -/

namespace Sys2Proof.Machine

/-- The payload forms of the opcode tables (R544). -/
inductive PayForm where
  | none | inOnly | outOnly | inSingle | outSingle | list
  /-- A single buffer read and then overwritten, or the opcode's own choice of forms. -/
  | inOut
  /-- The opcode takes no payload or an out-payload / an in-payload. -/
  | optOut | optIn
  /-- A descriptor list with in- and out-descriptors, or a single buffer that is read and then overwritten. -/
  | listOrInOut
  deriving DecidableEq, Repr

/-- One opcode. -/
structure OpSpec where
  cls : Nat
  op : Nat
  /-- PARAMS bytes the opcode defines, as (offset, length); every other byte of 0x20-0x3F is reserved. -/
  used : List (Nat × Nat) := []
  /-- Reserved bits within defined bytes, as (offset, mask). -/
  bitsRes : List (Nat × Nat) := []
  /-- Only on mailboxes owned by the physical function (R62). -/
  pfOnly : Bool := false
  pay : PayForm := .none
  /-- The length rule: state, entry, in-length, out-length. -/
  lenOk : State → List Byte → Nat → Nat → Bool := fun _ _ _ _ => true
  /-- The parameters that the length rule uses lie within their ranges (R57, step 11). -/
  lenApplies : List Byte → Bool := fun _ => true
  /-- The DETAIL a broken length rule gives. -/
  lenDetail : Nat := 0
  /-- Range checks at step 12: status and DETAIL of the first field out of range. -/
  range : State → List Byte → Option (Nat × Nat) := fun _ _ => Option.none
  /-- The lower retry budget B in microseconds. -/
  b : State → List Byte → Nat := fun _ _ => 0
  /-- What the acceptance of a request that passes every check does (R57). -/
  onAccept : State → ReqId → Exec → State := fun s _ _ => s

/-- Range checks of fields (offset, size, least, greatest), in order; INVALID_PARAM with the offset of the first that fails. -/
def rngs (l : List (Nat × Nat × Nat × Nat)) : State → List Byte → Option (Nat × Nat) := fun _ e =>
  (l.find? fun x => let v := fld e x.1 x.2.1; !(decide (x.2.2.1 ≤ v) && decide (v ≤ x.2.2.2))).map fun x => (0x0018, x.1)

/-- A request accepted before `x`, of the same partition and satisfying `same`, that has not begun (R346, R281): the lock of an object is
passed in order of acceptance. -/
def earlierWaiting (s : State) (r : ReqId) (x : Exec) (same : Exec → Bool) : Bool :=
  (mbsOf (reqPart r)).any fun n => (mbox s n.val).execs.any fun y => !y.begun && same y && decide (y.order < x.order)

/-- A request whose turn at a lock has not come has not begun. -/
def notYet (s : State) (r : ReqId) : State := updExec s r fun x => { x with begun := false }

end Sys2Proof.Machine
end

