-- ==== Sys2Proof/Machine/Firmware.lean ====
section
/-! DEFINITION. The firmware store (chapter 16): its bytes, the record log, image writing, verification, selection, calibration, and the
NVMe firmware commands (R377). -/

namespace Sys2Proof.Machine

def updFw (s : State) (f : Fw → Fw) : State := { s with fw := f s.fw }

/-! ### Bytes of the store (R471, R472) -/

def logBase : Nat := 0x00100000
def blockBase (b : Nat) : Nat := if b = 0 then 0x01000000 else 0x08800000
def blockSize : Nat := 125829120

def fwBlock (s : State) (b : Nat) : FwBlock := tget blockEmpty s.fw.blocks b

/-- The byte at a store offset: of manufacture in the identity region and in a block not written since, else as programmed, 0xFF where
erased. -/
def norByte (s : State) (x : Nat) : Byte :=
  let inBlock (b : Nat) : Bool := decide (blockBase b ≤ x) && decide (x < blockBase b + blockSize) && (fwBlock s b).factory
  if x < logBase || inBlock 0 || inBlock 1 then Config.factoryByte x else ~~~ (mget s.fw.nor x)

/-- A run of store bytes. -/
def norRead (s : State) (x n : Nat) : List Byte := (List.range n).map fun i => norByte s (x + i)

def norWrite (s : State) (x : Nat) (bs : List Byte) : State :=
  updFw s fun f => { f with nor := mwrite f.nor x (bs.map fun b => ~~~ b) }
def norErase (s : State) (sector : Nat) : State :=
  updFw s fun f => { f with nor := mclear f.nor (sector * 65536) 65536, erases := f.erases + 1 }

/-! ### CRC-32C (R264) -/

/-- One bit of CRC-32C, reflected polynomial 0x82F63B78. -/
def crcBit (c : Nat) : Nat := if c % 2 = 1 then (c / 2) ^^^ 0x82F63B78 else c / 2
def crcByte (c : Nat) (b : Byte) : Nat :=
  let x := c ^^^ b.toNat
  crcBit (crcBit (crcBit (crcBit (crcBit (crcBit (crcBit (crcBit x)))))))
/-- CRC-32C of a byte list. -/
def crc32c (bs : List Byte) : Nat := (bs.foldl crcByte 0xFFFFFFFF) ^^^ 0xFFFFFFFF

/-! ### The record log (R477, R478) -/

/-- A log sector as manufactured: erased, with its marker. -/
def sectorReset : FwSector := { erasedOk := true, used := 0 }
def sectorOf (s : State) (i : Nat) : FwSector := tget sectorReset s.fw.sectors i

/-- Sectors with ERASED_OK and no record. -/
def logFree (s : State) : Nat := ((List.range 64).filter fun i => (sectorOf s i).erasedOk && (sectorOf s i).used == 0).length

/-- The governing record of a KIND: the counted one with the highest SEQ (R477). -/
def governing (s : State) (kind : Nat) : Option FwRec :=
  (s.fw.recs.filter fun r => r.kind == kind).foldl (fun a r => match a with
    | some b => if b.seq < r.seq then some r else some b
    | none => some r) none

/-- Bytes of a record, padded to a multiple of 64 (R477). -/
def recBytes (kind seq : Nat) (body : List Byte) : List Byte :=
  let crc := crc32c (leBytes 1 kind ++ leBytes 2 body.length ++ leBytes 8 seq ++ body)
  let r := leBytes 1 kind ++ leBytes 1 0 ++ leBytes 2 body.length ++ leBytes 4 crc ++ leBytes 8 seq ++ body
  r ++ List.replicate ((64 - r.length % 64) % 64) 0xFF

/-- A sector with its marker and room for a record of `n` bytes (R478). -/
def sectorFits (s : State) (n i : Nat) : Bool := (sectorOf s i).erasedOk && decide ((sectorOf s i).used + n ≤ 65536 - 64)

/-- The sector a record of `n` bytes goes to: the first in use with room, else the first free one. -/
def sectorFor (s : State) (n : Nat) : Option Nat :=
  match (List.range 64).find? fun i => sectorFits s n i && (sectorOf s i).used != 0 with
  | some i => some i
  | none => (List.range 64).find? (sectorFits s n)

/-- Bytes a record with a body takes in the log. -/
def recSize (body : List Byte) : Nat := (16 + body.length + 63) / 64 * 64

/-- A record written to sector `i` and counted. -/
def putRec (s : State) (kind : Nat) (body : List Byte) (i : Nat) : State :=
  let seq := s.fw.seq + 1
  let bs := recBytes kind seq body
  let x := sectorOf s i
  let s := norWrite s (logBase + i * 65536 + 64 + x.used) bs
  updFw s fun f => { f with seq, recs := f.recs ++ [{ kind, seq, body, sector := i }]
                            sectors := tput f.sectors i { x with used := x.used + bs.length } }

/-- A record appended and counted. -/
def appendRec (s : State) (kind : Nat) (body : List Byte) : State :=
  match sectorFor s (recSize body) with
  | none => s
  | some i => putRec s kind body i

/-- A record cut off before its COMMIT: its room is taken, its body written up to a free length, and it does not count (R477, R479). -/
def cutRec (s : State) (body : List Byte) (i : Option Nat) : State :=
  match i with
  | none => s
  | some i =>
    let x := sectorOf s i
    let n := (freeVal s).toNat % (body.length + 1)
    let s := norWrite (drawn s) (logBase + i * 65536 + 64 + x.used + 16) (body.take n)
    updFw s fun f => { f with sectors := tput f.sectors i { x with used := x.used + recSize body } }

/-! ### The controller's operations (R476) -/

/-- The CONFIG record that governs carries its activation mark: a second CONFIG record of its epoch (R92; log entry 56). -/
def configMarked (s : State) (e : Nat) : Bool := decide (2 ≤ (s.fw.recs.filter fun x => x.kind == 2 && fld x.body 0xC 4 == e).length)

/-- A record is appended: by Tilir, or as the copy of the record that governs its KIND. -/
def isAppend : FwOp → Bool
  | .append _ _ => true
  | .copy _ _ => true
  | _ => false

/-- An operation can be issued: an append for which a sector with its marker has room, and everything else. -/
def mayIssue (s : State) : FwOp → Bool
  | .append _ body => (sectorFor s (recSize body)).isSome
  | _ => true

/-- The controller issues its next operation: an append first, then the log's other operations, then the image; none in a brown-out
(R476, R479). An append with no sector to go to waits. -/
def issueNext (s : State) : State :=
  if s.fw.cur.isSome || s.fw.brownOut then s
  else
    let app (o : FwOp) : Bool := isAppend o && mayIssue s o
    match s.fw.ops.find? app with
    | some o => updFw s fun f => { f with cur := some (.op o), ops := dropFirst app f.ops }
    | none =>
      match s.fw.ops.find? (mayIssue s) with
      | some o => updFw s fun f => { f with cur := some (.op o), ops := dropFirst (mayIssue s) f.ops }
      | none => if s.fw.job.isSome then updFw s fun f => { f with cur := some .image } else s

/-- An operation queued. -/
def queueOp (s : State) (o : FwOp) : State := issueNext (updFw s fun f => { f with ops := f.ops ++ [o] })
def queueAppend (s : State) (kind : Nat) (body : List Byte) : State := queueOp s (.append kind body)

/-! ### Verification (R480, R481) -/

/-- Why an image does not verify: 1 header, 2 key, 3 signature, 4 security version; 0: it verifies. -/
def verifyImage (s : State) (img : List Byte) : Nat :=
  let n := fld img 8 4
  if fld img 0 4 != 0x4C49545A || fld img 4 1 != 1 || blockSize < n || n < 0x260 || img.length < n then 1
  else if 3 < fld img 5 1 || !Config.keyTrusted (fld img 5 1) then 2
  else if !Config.imageSigned (img.take n) then 3
  else if fld img 0xC 4 < s.fw.secMin.toNat then 4
  else 0

/-- A block verifies now (R481). -/
def blockVerifies (s : State) (b : Nat) : Bool := (fwBlock s b).ok && decide (s.fw.secMin.toNat ≤ (fwBlock s b).secVersion.toNat)

/-- FW_VERSION of a block. -/
def blockVersion (s : State) (b : Nat) : List Byte :=
  if (fwBlock s b).factory then fit s.ident.fwVersion 16 else fit (fwBlock s b).version 16

/-- FW_VERSION of the Tilir that runs: of its block, or of an image started in recovery. DESIGN CHOICE: before an image is started in recovery no Tilir
runs, and what IDENTIFY then gives is a free value (R72, R485; log entry 135). -/
def runningVersion (s : State) : List Byte :=
  if s.fw.running != 2 then blockVersion s s.fw.running.val
  else if s.fw.recovered then fit s.fw.loadVersion 16 else fit Config.loaderVersion 16

/-- The boot selection in force: ACTIVE, FALLBACK, TRIAL, TRIES, FALLEN_BACK (R482). -/
def selection (s : State) : List Byte := ((governing s 1).map fun r => fit r.body 5).getD (leBytes 1 0 ++ leBytes 1 1 ++ zeros 3)
def selBytes (a b t n f : Nat) : List Byte := leBytes 1 a ++ leBytes 1 b ++ leBytes 1 t ++ leBytes 1 n ++ leBytes 1 f

/-! ### Image jobs (R473) -/

/-- The block a job writes now is invalid until its image has been read back. -/
def beginJob (s : State) (j : FwJob) : State :=
  issueNext (updFw s fun f => { f with job := some j, blocks := tput f.blocks j.block blockEmpty })

/-- Pages of an image. -/
def imagePages (j : FwJob) : Nat := (j.image.length + 255) / 256

/-- A job is over: its command or request completes. -/
def jobOver (s : State) (j : FwJob) : State :=
  let s := updFw s fun f => { f with job := none }
  let s := match j.cmd with
    | some k => nDone s k (if j.select.isSome then (1, 0x10) else stOk) 0 false
    | none => s
  match j.req with
  | some r => finish s r (ansOk 0)
  | none => s

/-- The image is written and reads back: the block is valid; the other block, the selection, or the end follows. -/
def imageDone (s : State) (j : FwJob) : State :=
  let b : FwBlock := { ok := true, secVersion := BitVec.ofNat 32 (fld j.image 0xC 4), version := slice j.image 0x10 16, factory := false }
  let s := updFw s fun f => { f with blocks := tput f.blocks j.block b }
  match j.also with
  | some b => beginJob s { j with block := b, also := none, erased := 0, paged := 0 }
  | none =>
    match j.select with
    | some body => updFw s fun f => { f with job := some { j with also := none }, ops := f.ops ++ [.append 1 body] }
    | none => jobOver s j

/-- One erase or page of the image is done. -/
def stepImage (s : State) (j : FwJob) : State :=
  if j.erased < 1920 then
    let s := norErase s (blockBase j.block / 65536 + j.erased)
    updFw s fun f => { f with job := some { j with erased := j.erased + 1 } }
  else
    let s := norWrite s (blockBase j.block + j.paged * 256) ((j.image.drop (j.paged * 256)).take 256)
    let j := { j with paged := j.paged + 1 }
    let s := updFw s fun f => { f with job := some j }
    if imagePages j ≤ j.paged then imageDone s j else s

/-! ### Calibration (R486) -/

/-- Items: ID, count, effective range, offset clamp. -/
def calItems : List (Nat × Nat × Int × Int × Int × Int) :=
  [(1, 40, -1000, 1000, -200, 200), (2, 1, -20000, 20000, -5000, 5000), (3, 1, -20000, 20000, -10000, 10000), (4, 1, -500, 500, -100, 100),
   (5, 96, 0, 15, -2, 2), (6, 96, 0, 15, -3, 3), (7, 1, -50000, 50000, -20000, 0)]
def calItem (id : Nat) : Option (Nat × Nat × Int × Int × Int × Int) := calItems.find? fun x => x.1 == id
def clampI (x lo hi : Int) : Int := max lo (min x hi)
def userOffset (s : State) (id ix : Nat) : Int := tget 0 s.fw.offsets (id * 256 + ix)

/-- The effective value of an item; with a factory calibration that failed its check, the most conservative one, which no rule names (R486, R489;
log entry 134). -/
def calEffective (s : State) (id ix : Nat) : Int :=
  match calItem id with
  | some (_, _, elo, ehi, clo, chi) =>
    if s.fw.factoryOk then clampI (Config.factoryCal id ix + clampI (userOffset s id ix) clo chi) elo ehi
    else clampI (Config.conservativeCal id ix) elo ehi
  | none => 0

/-- The body of a USER_CAL record: entries of 8 bytes as in WRITE. -/
def calBody (t : Tbl Int) : List Byte :=
  t.flatMap fun x => leBytes 1 (x.1 / 256) ++ leBytes 1 (x.1 % 256) ++ zeros 2 ++ leBytes 4 (unsign 32 x.2)

/-- Offsets of a USER_CAL body. -/
def calOfBody (bs : List Byte) : Tbl Int :=
  (List.range (bs.length / 8)).foldl (fun t i =>
    tput t (fld bs (8 * i) 1 * 256 + fld bs (8 * i + 1) 1) (signed 32 (fld bs (8 * i + 4) 4))) []

/-- CAL opcodes (R487). -/
def calOps : List OpSpec := [
  { cls := 0x0B, op := 1, pfOnly := true, pay := .outOnly, lenOk := fun _ _ _ o => decide (3776 ≤ o) },
  { cls := 0x0B, op := 2, pfOnly := true, pay := .inOnly, b := fun _ _ => 200000
    lenOk := fun _ _ n _ => n % 8 == 0 && decide (8 ≤ n) && decide (n ≤ 1888) },
  { cls := 0x0B, op := 3, pfOnly := true, b := fun _ _ => 200000 },
  { cls := 0x0B, op := 4, pfOnly := true },
  { cls := 0x0B, op := 5, pfOnly := true, pay := .outOnly, lenOk := fun _ _ _ o => decide (64 ≤ o) },
  { cls := 0x0B, op := 6, pfOnly := true, used := [(0x20, 1)], bitsRes := [(0x20, 0xFC)], pay := .inOnly, b := fun _ _ => 200000 } ]

/-- CAL READ. -/
def execCalRead (r : ReqId) (s : State) : Res :=
  answer s r 0x0B 1 fun s _ =>
    ansOk 236 (calItems.flatMap fun it => (List.range it.2.1).flatMap fun ix =>
      leBytes 1 it.1 ++ leBytes 1 ix ++ zeros 2 ++ leBytes 4 (unsign 32 (Config.factoryCal it.1 ix))
        ++ leBytes 4 (unsign 32 (userOffset s it.1 ix)) ++ leBytes 4 (unsign 32 (calEffective s it.1 ix)))

/-- The first entry of a WRITE that names no item, or an item twice. -/
def badCalEntry (bs : List Byte) : Option Nat :=
  let key (i : Nat) : Nat := fld bs (8 * i) 1 * 256 + fld bs (8 * i + 1) 1
  (List.range (bs.length / 8)).find? fun i =>
    (match calItem (key i / 256) with
     | some it => decide (it.2.1 ≤ key i % 256)
     | none => true) || ((List.range i).any fun j => key j == key i)

/-- One entry of a WRITE laid over the offsets; whether it was clamped. -/
def writeCal (t : Tbl Int × Nat) (id ix : Nat) (x : Int) : Tbl Int × Nat :=
  match calItem id with
  | none => t
  | some (_, _, elo, ehi, clo, chi) =>
    let y := clampI x clo chi
    let e := Config.factoryCal id ix + y
    let hit := y != x || e < elo || ehi < e
    (if y = 0 then tdel t.1 (id * 256 + ix) else tput t.1 (id * 256 + ix) y, t.2 + bnat hit)

/-- A request waits for a record of a kind. -/
def waitRecord (s : State) (r : ReqId) (kind : Nat) (body : List Byte) (result : Nat) : State :=
  queueAppend (updFw s fun f => { f with waits := f.waits ++ [(r, kind, result)] }) kind body

/-- CAL WRITE: atomic; it completes when its USER_CAL record is written. -/
def execCalWrite (r : ReqId) (s : State) : Res :=
  runReq s r 0x0B 2 fun s x =>
    if s.fw.waits.any (fun w => w.1 == r) then s
    else withIn s r x fun s bs =>
      if !s.fw.factoryOk then finish s r (ansErr 0x0009)
      else
        match badCalEntry bs with
        | some i => finish s r (ansErr 0x0100 i)
        | none =>
          match (List.range (bs.length / 8)).find? fun i => fld bs (8 * i + 2) 2 != 0 with
          | some i => finish s r (ansErr 0x0015 (8 * i + 2))
          | none =>
            let t := (List.range (bs.length / 8)).foldl (fun t i =>
              writeCal t (fld bs (8 * i) 1) (fld bs (8 * i + 1) 1) (signed 32 (fld bs (8 * i + 4) 4))) (s.fw.offsets, 0)
            waitRecord (updFw s fun f => { f with clamped := satAdd f.clamped t.2 }) r 3 (calBody t.1) t.2

/-- CAL CLEAR. -/
def execCalClear (r : ReqId) (s : State) : Res :=
  runReq s r 0x0B 3 fun s _ => if s.fw.waits.any (fun w => w.1 == r) then s else waitRecord s r 3 [] 0

/-- CAL WARM_RESET: its completion, then WARM (R487). -/
def execWarmReset (r : ReqId) (s : State) : Res :=
  runReq s r 0x0B 4 fun s _ => updFw (finish (commit s r) r (ansOk 0)) fun f => { f with warmAsked := true }

/-- CAL BOOT_STATUS. -/
def execBootStatus (r : ReqId) (s : State) : Res :=
  answer s r 0x0B 5 fun s _ =>
    ansOk 64 (leBytes 1 s.fw.running.val ++ selection s ++ zeros 2 ++ leBytes 4 s.fw.secMin.toNat
      ++ leBytes 1 (bnat (blockVerifies s 0)) ++ leBytes 1 (bnat (blockVerifies s 1)) ++ zeros 2
      ++ leBytes 4 (fwBlock s 0).secVersion.toNat ++ leBytes 4 (fwBlock s 1).secVersion.toNat ++ blockVersion s 0 ++ blockVersion s 1
      ++ zeros 8)

/-! ### Operations of the store complete (R476-R479) -/

/-- The record of the configuration being applied is written: the commit point of its request (R90 step 4). -/
def configWritten (s : State) (body : List Byte) : State :=
  match s.prt.applying with
  | some a =>
    if a.written || fld body 0xC 4 != a.img.epoch.toNat then s
    else
      let s := { s with prt := { s.prt with applying := some { a with written := true } } }
      match a.req with
      | some r => commit s r
      | none => s
  | none => s

/-- What a record's completion does: calibration takes effect, a request or a Commit that waited completes. -/
def recordWritten (s : State) (kind : Nat) (body : List Byte) : State :=
  let s := if kind = 3 then updFw s fun f => { f with offsets := calOfBody body } else s
  let s := if kind = 2 then configWritten s body else s
  match s.fw.waits.find? fun w => w.2.1 == kind with
  | some w =>
    let s := updFw s fun f => { f with waits := dropFirst (fun w => w.2.1 == kind) f.waits }
    finish (commit s w.1) w.1 (ansOk w.2.2)
  | none =>
    match s.fw.job with
    | some j => if kind = 1 && j.select == some body && imagePages j ≤ j.paged && j.also.isNone then jobOver s j else s
    | none => s

/-- Sectors whose records govern nothing (R478). An erase of one is not queued twice. -/
def staleSectors (s : State) : List Nat :=
  let gov := [1, 2, 3, 4].filterMap (governing s)
  (List.range 64).filter fun i =>
    (sectorOf s i).used != 0 && !(gov.any fun r => r.sector == i) && !s.fw.ops.contains (.erase i)

/-- The record that governs a KIND is copied to a sector, a CONFIG record with its activation mark; one without it stays where it is (R478; log entry
133). -/
def copyRec (s : State) (kind i : Nat) : State :=
  match governing s kind with
  | none => s
  | some r =>
    let put (s : State) : State :=
      if sectorFits s (recSize r.body) i then putRec s kind r.body i else appendRec s kind r.body
    if kind != 2 then put s
    else if configMarked s (fld r.body 0xC 4) then put (put s) else s

/-- Once the last copy of a compaction is written, the sectors that hold nothing that governs are erased (R478). -/
def sweepLog (s : State) : State :=
  if s.fw.ops.any (fun o => match o with | .copy _ _ => true | _ => false) then s
  else updFw s fun f => { f with ops := f.ops ++ (staleSectors s).map .erase }

/-- An operation of the store that succeeded. -/
def opDone (s : State) : FwOp → State
  | .append kind body => recordWritten (appendRec s kind body) kind body
  | .copy kind i => sweepLog (copyRec s kind i)
  | .erase sector =>
    let s := norErase s (logBase / 65536 + sector)
    updFw s fun f => { f with
      recs := f.recs.filter fun r => r.sector != sector
      sectors := tput f.sectors sector { erasedOk := false, used := 0 }
      ops := .mark sector :: f.ops }
  | .mark sector => updFw s fun f => { f with sectors := tput f.sectors sector { erasedOk := true, used := 0 } }

/-- A program or erase completes; one that failed is counted and done again; the next is issued. -/
def storeOpDone (ok : Bool) (s : State) : State :=
  match s.fw.cur with
  | none => s
  | some c =>
    let s := updFw s fun f => { f with cur := none, suspended := false }
    if !ok then
      let s := updFw s fun f => { f with progFails := satInc f.progFails }
      match c with
      | .op o => issueNext (updFw s fun f => { f with ops := o :: f.ops })
      | .image => issueNext s
    else
      match c with
      | .op o => issueNext (opDone s o)
      | .image =>
        match s.fw.job with
        | some j => issueNext (stepImage s j)
        | none => issueNext s

/-- What the store does is cut off: a sector being erased or marked lacks its marker, a record being written does not count (R477-R479). -/
def cutStoreOp (s : State) : State :=
  let lose (i : Nat) : State := updFw s fun f => { f with
    recs := f.recs.filter fun r => r.sector != i, sectors := tput f.sectors i { erasedOk := false, used := 0 } }
  match s.fw.cur with
  | some (.op (.erase i)) => lose i
  | some (.op (.mark i)) => lose i
  | some (.op (.append _ body)) => cutRec s body (sectorFor s (recSize body))
  | some (.op (.copy k i)) => cutRec s (((governing s k).map (·.body)).getD []) (some i)
  | _ => s

/-- STORE_BROWN_OUT: the controller starts no further program or erase (R479). -/
def execStoreBrownOut (s : State) : Res := .next (updFw s fun f => { f with brownOut := true })

/-- The first free sector of the log. -/
def freeSector (s : State) : Option Nat := (List.range 64).find? fun i => (sectorOf s i).erasedOk && (sectorOf s i).used == 0

/-- A compaction is under way: copies or erases of log sectors wait or run. -/
def compacting (s : State) : Bool :=
  let part (o : FwOp) : Bool := match o with
    | .append _ _ => false
    | _ => true
  s.fw.ops.any part || (match s.fw.cur with
    | some (.op o) => part o
    | _ => false)

/-- LOG_COMPACT: with fewer than 8 free sectors the governing records are copied into a free one, and sectors that then hold nothing else that
governs are erased (R478); with no free sector left, those that hold nothing that governs are erased first (log entry 133). -/
def execLogCompact (s : State) : Res :=
  if 8 ≤ logFree s || compacting s then .next s
  else
    match freeSector s with
    | some i => .next (([1, 2, 3, 4].filter fun k => (governing s k).isSome).foldl (fun s k => queueOp s (.copy k i)) s)
    | none => .next ((staleSectors s).foldl (fun s i => queueOp s (.erase i)) s)

/-- The sector of the store an operation in progress programs or erases. -/
def busySector (s : State) : Option Nat :=
  match s.fw.cur with
  | none => none
  | some (.op (.append _ body)) => (sectorFor s (recSize body)).map fun i => logBase / 65536 + i
  | some (.op (.copy _ i)) => some (logBase / 65536 + i)
  | some (.op (.erase i)) => some (logBase / 65536 + i)
  | some (.op (.mark i)) => some (logBase / 65536 + i)
  | some .image => s.fw.job.map fun j =>
      blockBase j.block / 65536 + (if j.erased < 1920 then j.erased else j.paged / 256)

/-! ### Reads of the store (R474, R475) -/

/-- The Crocus block that holds a store offset. -/
def blockAt (x : Nat) : Option Nat :=
  if blockBase 0 ≤ x && x < blockBase 0 + blockSize then some 0
  else if blockBase 1 ≤ x && x < blockBase 1 + blockSize then some 1 else none

/-- The header of the block marks the section that holds a store offset as used and XO (R474, R480). -/
def isXo (s : State) (x : Nat) : Bool :=
  match blockAt x with
  | none => false
  | some b =>
    let h := norRead s (blockBase b) 0x200
    let o := x - blockBase b
    fld h 0 4 == 0x4C49545A && (List.range 16).any fun i =>
      let e := h.drop (0x40 + 16 * i)
      bitAt (fld e 8 4) 1 && bitAt (fld e 8 4) 2 && decide (fld e 0 4 ≤ o) && decide (o < fld e 0 4 + fld e 4 4)

/-- A read of one sector while another is being programmed or erased suspends that operation until time goes on (R475; log entry 59). -/
def suspendFor (s : State) (sector : Nat) : State :=
  match busySector s with
  | some k => if k = sector then s else updFw s fun f => { f with suspended := true }
  | none => s

/-- A word of the store read as data, and the state after: the pattern from the busy sector, zero from an XO section (R474, R475). -/
def storeData (s : State) (off : Nat) : Word × State :=
  let x := off / 4 * 4
  let s := suspendFor s (x / 65536)
  if busySector s == some (x / 65536) then (0xA55AA55A, updFw s fun f => { f with busyHit := true, busyReads := satInc f.busyReads })
  else if isXo s x then (0, updFw s fun f => { f with xoHit := true, xoReads := satInc f.xoReads })
  else (BitVec.ofNat 32 (leNat (norRead s x 4)), s)

/-- STORE_READ_BUSY: a read while an operation is in progress: of the busy sector, the pattern with an error; of another, the operation is
suspended until time goes on (R475; log entry 59). -/
def execStoreReadBusy (off : Nat) (s : State) : Res :=
  if (busySector s).isNone then .next s
  else
    let r := storeData s (off % 0x10000000)
    .next { r.2 with rdata := r.1.setWidth 64 }

/-- TRIAL_CONFIRM: a trial block Klova ready for 60 s is confirmed, and FWS_SEC_MIN is raised (R481, R483). -/
def execTrialConfirm (s : State) : Res :=
  if !s.rst.ready || !s.fw.trial || s.fw.running == 2 then .next s
  else
    let s := reach s (s.rst.readyAt + 60000000000)
    let b := s.fw.running.val
    let s := queueAppend s 1 (selBytes b (1 - b) 0 0 0)
    .next (updFw s fun f => { f with
      trial := false
      secMin := if f.secMin.toNat < (fwBlock s b).secVersion.toNat then (fwBlock s b).secVersion else f.secMin })

/-! ### NVMe firmware commands (R377) -/

/-- FIRMWARE_IMAGE_DOWNLOAD stages a piece at a 4 KiB-aligned offset within the block size (R377, R472). -/
def execFirmwareImageDownload (k : CmdKey) (s : State) : Res :=
  nRow s k true 0x11 fun s x =>
    let n := (cdw x.sqe 10 + 1) * 4
    let off := cdw x.sqe 11 * 4
    if off % 4096 != 0 || blockSize < off + n || 0x40000 < n then nDone s k stField
    else
      match hostGet s k x.sqe n with
      | .error st => nDone s k st
      | .ok (s, bs) => nDone { s with nvm := { s.nvm with fwImage := mwrite s.nvm.fwImage off bs, fwEnd := max s.nvm.fwEnd (off + n) } } k stOk

/-- FIRMWARE_COMMIT (R377, R473, R483). -/
def execFirmwareCommit (k : CmdKey) (s : State) : Res :=
  nRow s k true 0x10 fun s x =>
    let slot := bits (cdw x.sqe 10) 2 0
    let act := bits (cdw x.sqe 10) 5 3
    let b := slot - 1
    let run := s.fw.running.val
    if s.fw.job.isSome then s
    else if 3 ≤ act then nDone s k stField
    else if slot = 0 || 2 < slot then nDone s k (1, 0x06)
    else if act = 2 then
      if !blockVerifies s b then nDone s k (1, 0x07)
      else
        let body := if b = run then selBytes run (1 - run) 0 0 0 else selBytes b run 1 3 0
        let s := updFw s fun f => { f with
          job := some { block := b, image := [], select := some body, erased := 1920, paged := 0, cmd := some k, req := none, also := none } }
        queueAppend s 1 body
    else if b = run then nDone s k (1, 0x06)
    else
      let img := mread s.nvm.fwImage 0 s.nvm.fwEnd
      if verifyImage s img != 0 then nDone s k (1, 0x07)
      else
        beginJob s { block := b, image := img.take (fld img 8 4), select := if act = 1 then some (selBytes b run 1 3 0) else none
                     erased := 0, paged := 0, cmd := some k, req := none, also := none }

end Sys2Proof.Machine
end

