-- ==== Sys2Proof/Machine/Clock.lean ====
section
/-! DEFINITION. The passage of time when no command waits (R13). -/

namespace Sys2Proof.Machine

/-- One tick of CK00, 10 ns: the timestamp counts unless POR is asserted, and a suspended operation of the firmware store resumes (R13, R475; log
entries 1, 59). -/
def tick (s : State) : State :=
  let s := if s.rst.por then s else { s with ts := s.ts + 10 }
  updFw s fun f => { f with suspended := false }

end Sys2Proof.Machine
end

