-- ==== Sys2Proof/Machine/Coherence.lean ====
section
/-! DEFINITION. Coherence (R134-R142): the home agents' directory, the caching agents' lines, and the message rows. A row that receives
a message acts only where that message can be under way (log entry 7). -/

namespace Sys2Proof.Machine

/-- The line's first module address. -/
def lineAddr (line : Nat) : Nat := line * 64

/-- The home agent of a line: the channel that holds it, lines interleaved over 32 channels (R76, R136, log entry 11). -/
def homeOf (line : Nat) : Nat := line % 32

def dirOf (s : State) (line : Nat) : Dir := tget dirReset s.coh.dir line
def updDir (s : State) (line : Nat) (f : Dir → Dir) : State :=
  { s with coh := { s.coh with dir := tmod dirReset s.coh.dir line f } }

/-- A caching agent's copy of a line. -/
def agentLine (s : State) (a : AgentId) (line : Nat) : Option CLine := tfind? (tget [] s.coh.caches a.val) line
def setAgentLine (s : State) (a : AgentId) (line : Nat) (x : CLine) : State :=
  { s with coh := { s.coh with caches := tmod [] s.coh.caches a.val fun t => tput t line x } }

/-! ### The geometry of a cluster cache (R134) -/

/-- The set of a line, for a cache of `n` segments (R134). -/
def cacheSet (n line : Nat) : Nat := line % (n * 16384)

/-- The way a 15-bit tree chooses: at each node, bit 0 goes left and bit 1 right (log entry 14). -/
def treeWay (t : BitVec 15) : Nat :=
  let step (node : Nat) : Nat := 2 * node + 1 + bnat (t.getLsbD node)
  step (step (step (step 0))) - 15

/-- The tree after way `w` was used: each node on its path points to the other half. -/
def treeUse (t : BitVec 15) (w : Nat) : BitVec 15 :=
  (List.range 4).foldl (fun (acc : BitVec 15 × Nat) d =>
    let right := bitAt w (3 - d)
    let t' := if right then acc.1 &&& ~~~ (BitVec.twoPow 15 acc.2) else acc.1 ||| BitVec.twoPow 15 acc.2
    (t', 2 * acc.2 + 1 + bnat right)) (t, 0) |>.1

/-- The way a line holds in its set, if it is listed there. -/
def wayOf (s : State) (c set line : Nat) : Option Nat :=
  (List.range 16).find? fun w => tfind? (cluster s c).ways (set * 16 + w) == some line

/-- The way a dropped line held in a cluster's cache is free again. -/
def freeWay (s : State) (a : AgentId) (line : Nat) : State :=
  let set := cacheSet (cacheSegs s a.val) line
  match if a.val < 32 then wayOf s a.val set line else none with
  | some w => updClu s a.val fun x => { x with ways := tdel x.ways (set * 16 + w) }
  | none => s

/-- An agent no longer holds a line, and the way it held is free. -/
def dropAgentLine (s : State) (a : AgentId) (line : Nat) : State :=
  let s := freeWay s a line
  { s with coh := { s.coh with caches := tmod [] s.coh.caches a.val fun t => tdel t line } }

/-- A message put on its channel. -/
def send (s : State) (line : Nat) (a : AgentId) (m : CohMsg) : State :=
  { s with coh := { s.coh with net := s.coh.net ++ [(line, a, m)] } }

/-- The channel a message travels on (R137); requests have the REQ channel to themselves. -/
def msgChan : CohMsg → CohChan
  | .inv | .recall | .downgrade => .prb
  | .wb _ | .cleanEvict | .invAck | .dataM _ | .dataClean _ | .ackWb => .rsp
  | _ => .gnt

/-- The oldest message of a channel between an agent and the home agent of a line: each channel is ordered for each such pair (R137). -/
def chanHead (s : State) (line : Nat) (a : AgentId) (ch : CohChan) : Option (LineNo × CohMsg) :=
  (s.coh.net.find? fun x => x.2.1 == a && homeOf x.1 == homeOf line && msgChan x.2.2 == ch).map fun x => (x.1, x.2.2)

/-- The message that can arrive on a channel for a line and agent, if it satisfies `p`: the oldest of its channel. -/
def findMsg (s : State) (line : Nat) (a : AgentId) (ch : CohChan) (p : CohMsg → Bool) : Option CohMsg :=
  match chanHead s line a ch with
  | some x => if x.1 == line && p x.2 then some x.2 else none
  | none => none

/-- A message that satisfies `p` is under way for a line and agent. -/
def underWay (s : State) (line : Nat) (a : AgentId) (p : CohMsg → Bool) : Bool :=
  s.coh.net.any fun x => x.1 == line && x.2.1 == a && p x.2.2

/-- That message taken off its channel. -/
def takeMsg (s : State) (line : Nat) (a : AgentId) (p : CohMsg → Bool) : State :=
  { s with coh := { s.coh with net := dropFirst (fun x => x.1 == line && x.2.1 == a && p x.2.2) s.coh.net } }

/-- A MAPPED object holds an address (R263). -/
def mappedAt (s : State) (key : Nat) (o : Obj) (a : Nat) : Bool :=
  decide (o.daddr ≤ a) && decide (a < o.daddr + objSpan o) && mappedHeld s key o

/-- A line of a read-only shared object (R138, R282). -/
def isSharedLine (s : State) (line : Nat) : Bool :=
  s.tie.objs.any fun x => x.2.shareMask != 0 && oReadOnly x.2 && mappedAt s x.1 x.2 (lineAddr line)

/-- The chunk of a MAPPED object that may be dirty and holds address `a` becomes dirty from now on if it was clean (R276). -/
def markDirty (s : State) (a : Nat) : Tbl Obj :=
  s.tie.objs.map fun x =>
    if !oReadOnly x.2 && mappedAt s x.1 x.2 a then
      let ch := (a - x.2.daddr) / 65536
      (x.1, { x.2 with mdirty := match tfind? x.2.mdirty ch with
        | some _ => x.2.mdirty
        | none => tput x.2.mdirty ch (now s) })
    else x

/-- The home agent commits a write of bytes to DRAM: whole lines lose their poison, and the chunk they lie in becomes dirty (R276, R494). -/
def dramCommit (s : State) (a : Nat) (bs : List Byte) : State :=
  { s with
    mem := mwrite s.mem a bs
    ras := { s.ras with poison := poisonAfter s.ras.poison a bs.length }
    tie := { s.tie with objs := markDirty s a } }

/-- The bytes of a line as the home agent holds them. -/
def lineData (s : State) (line : Nat) : List Byte := mread s.mem (lineAddr line) 64

/-- What a non-caching reader of a line receives: its bytes, or none where the line is poisoned (R496: an uncorrectable-data response). -/
def ncResponse (s : State) (line : Nat) : List Byte := if poisoned s (lineAddr line) 64 then [] else lineData s line

/-- Bytes merged over a line's data under a byte mask (R494). -/
def mergeMask (mask : Dword) (old new : List Byte) : List Byte :=
  (List.range 64).map fun j => if mask.getLsbD j then (new[j]?).getD 0 else (old[j]?).getD 0

/-- A line whose transaction, writeback or messages are under way. -/
def lineBusy (s : State) (line : Nat) : Bool :=
  let d := dirOf s line
  d.txn.isSome || !d.queue.isEmpty || d.wbData.isSome || (s.coh.net.any fun x => x.1 == line)
    || (s.coh.wanted.any fun x => x.1 == line)

/-- An agent gives up a line: dirty data by WB, clean data by CLEAN_EVICT (R138). -/
def evictLine (s : State) (a : AgentId) (line : Nat) : State :=
  match agentLine s a line with
  | none => s
  | some x =>
    let s := if x.st == .m then dramCommit s (lineAddr line) x.data else s
    let s := dropAgentLine s a line
    updDir s line fun d => { d with st := match d.st with
      | .s v => let w := v.filter (· != a); if w.isEmpty then .u else .s w
      | .o b => if b == a then .u else .o b
      | st => st }

/-- A place made for a line in a cluster's cache: the way it holds, or the way the tree chooses, whose line is given up (R134). A
cluster without cache segments has no ways, and the Sage cache's are not given. -/
def cacheAlloc (s : State) (a : AgentId) (line : Nat) : State :=
  let c := a.val
  if 32 ≤ c || cacheSegs s c = 0 then s
  else
    let set := cacheSet (cacheSegs s c) line
    let w := (wayOf s c set line).getD (treeWay (tget 0 (cluster s c).trees set))
    let s := match tfind? (cluster s c).ways (set * 16 + w) with
      | some old => if old == line then s else evictLine s a old
      | none => s
    updClu s c fun x => { x with ways := tput x.ways (set * 16 + w) line, trees := tput x.trees set (treeUse (tget 0 x.trees set) w) }

/-- A line filled into an agent's cache (R134). -/
def fillLine (s : State) (a : AgentId) (line : Nat) (x : CLine) : State := setAgentLine (cacheAlloc s a line) a line x

/-! ### Directory capacity (R142) -/

/-- Entries of the directory region of partition `p`: 2^21 for each cluster it owns and 2^20 for Sage. -/
def dirCapacity (s : State) (p : Nat) : Nat :=
  ((List.range 32).filter fun c => (prec s p).clusters.getLsbD c).length * 2 ^ 21 + 2 ^ 20

/-- The holders a directory state names. -/
def holders : DirState → List AgentId
  | .u => []
  | .s v => v
  | .o a => [a]
  | .wbp a => [a]

/-- One holder loses a line to a back-invalidation: dirty data is written back, and a cluster counts it (R142). -/
def backInvalidate (s : State) (line : Nat) (a : AgentId) : State :=
  match agentLine s a line with
  | some x =>
    let s := if x.st == .m then dramCommit s (lineAddr line) x.data else s
    let s := if a.val < 32 then updClu s a.val fun c => { c with backinv := satInc c.backinv } else s
    dropAgentLine s a line
  | none => s

/-- The least recently used idle entry of partition `p`'s region. -/
def dirLru (s : State) (p : Nat) : Option Nat :=
  let l := s.coh.dir.filter fun x =>
    x.2.st != .u && sliceOwner s (sliceOf (lineAddr x.1)) == some p && !lineBusy s x.1
  match l with
  | [] => none
  | x :: t => some (t.foldl (fun (b : Nat × Dir) y => if y.2.used < b.2.used then y else b) x).1

/-- Room made for a new entry for a line: a full region frees its least recently used entry by recalling the line from every
holder (R142). The region counts as one set (log entry 12). -/
def makeRoom (s : State) (line : Nat) : State :=
  match sliceOwner s (sliceOf (lineAddr line)) with
  | none => s
  | some p =>
    let used := (s.coh.dir.filter fun x => x.2.st != .u && sliceOwner s (sliceOf (lineAddr x.1)) == some p).length
    if (dirOf s line).st == .u && dirCapacity s p ≤ used then
      match dirLru s p with
      | none => s
      | some v =>
        let s := (holders (dirOf s v).st).foldl (fun s a => backInvalidate s v a) s
        updDir s v fun d => { d with st := .u }
    else s

/-- The entry of a line is used now. -/
def touchDir (s : State) (line : Nat) : State :=
  let s := updDir s line fun d => { d with used := s.coh.stamp + 1 }
  { s with coh := { s.coh with stamp := s.coh.stamp + 1 } }

/-- Requests that leave the line an entry, for which the directory must have room (R142). -/
def CohKind.caching : CohKind → Bool
  | .rdS | .rdX | .upg => true
  | _ => false

/-! ### The directory table (R138) -/

/-- What a request asks of the directory: lines of read-only shared objects are granted only in S, so an exclusive request for one is
served as RD_S (log entry 113). -/
def effKind (s : State) (line : Nat) (q : CohReq) : CohKind :=
  match q.kind with
  | .rdX => if isSharedLine s line then .rdS else .rdX
  | .upg => if isSharedLine s line then .rdS else .upg
  | k => k

/-- A sharer added to a sharer set. -/
def addSharer (v : List AgentId) (r : AgentId) : List AgentId := if v.contains r then v else v ++ [r]

/-- A transaction ends: the line takes a new state and is no longer busy. -/
def endTxn (s : State) (line : Nat) (st : DirState) : State := updDir s line fun d => { d with st, txn := none }

/-- The request is answered once no more probes are awaited; `old` is the line's state after the probes, whose dirty data is already
written. UPG of an agent that is no sharer is answered as RD_X, in O(o) too, for which R138 has no row (log entry 113), and
WR_NC_PART in U as WR_NC with its bytes merged (log entry 113). -/
def grant (s : State) (line : Nat) (q : CohReq) (old : DirState) : State :=
  let dat := lineData s line
  match effKind s line q with
  | .rdS =>
    match old with
    | .s v => endTxn (send s line q.r (.gntS dat)) line (.s (addSharer v q.r))
    | .o a => endTxn (send s line q.r (.gntS dat)) line (.s (addSharer [a] q.r))
    | _ => if isSharedLine s line then endTxn (send s line q.r (.gntS dat)) line (.s [q.r])
           else endTxn (send s line q.r (.gntE dat)) line (.o q.r)
  | .rdX => endTxn (send s line q.r (.gntX dat)) line (.o q.r)
  | .upg =>
    match old with
    | .s v => if v.contains q.r then endTxn (send s line q.r .gntUpg) line (.o q.r)
              else endTxn (send s line q.r (.gntX dat)) line (.o q.r)
    | _ => endTxn (send s line q.r (.gntX dat)) line (.o q.r)
  | .rdNc =>
    match old with
    | .o a => endTxn (send s line q.r (.ncData (ncResponse s line))) line (.s [a])
    | st => endTxn (send s line q.r (.ncData (ncResponse s line))) line st
  | .wrNc => endTxn (send (dramCommit s (lineAddr line) q.data) line q.r .ncAck) line .u
  | .wrNcPart =>
    endTxn (send (dramCommit s (lineAddr line) (mergeMask q.mask dat q.data)) line q.r .ncAck) line .u

/-- The probes a request of a kind from `r` needs in a state: to whom and which (R138). -/
def probesFor (k : CohKind) (r : AgentId) : DirState → List (AgentId × CohMsg)
  | .s v =>
    match k with
    | .upg | .rdX => (v.filter (· != r)).map fun a => (a, .inv)
    | .wrNc | .wrNcPart => v.map fun a => (a, .inv)
    | _ => []
  | .o a =>
    match k with
    | .rdS => [(a, .downgrade)]
    | .rdX | .upg => [(a, .recall)]
    | .rdNc => [(a, .downgrade)]
    | .wrNc => [(a, .inv)]
    | .wrNcPart => [(a, .recall)]
  | _ => []

/-- The home agent serves the first waiting request of a line, if the line is not busy (R139). -/
def serve (s : State) (line : Nat) : State :=
  let d := dirOf s line
  match d.queue with
  | [] => s
  | q :: t =>
    match d.txn, d.st with
    | some _, _ => s
    | none, .wbp _ => s
    | none, _ =>
      let s := if q.kind.caching then touchDir (makeRoom s line) line else s
      let s := updDir s line fun d => { d with queue := t }
      let ps := probesFor (effKind s line q) q.r (dirOf s line).st
      if ps.isEmpty then grant s line q (dirOf s line).st
      else
        let s := ps.foldl (fun s p => send s line p.1 p.2) s
        updDir s line fun d => { d with txn := some { req := q, await := ps.map (·.1), data := none, keepS := false } }

/-- Requests served until the line is busy or its queue is empty. -/
def serveAll : Nat → State → Nat → State
  | 0, s, _ => s
  | n + 1, s, line =>
    let s' := serve s line
    if (dirOf s' line).queue.length < (dirOf s line).queue.length && (dirOf s' line).txn.isNone then serveAll n s' line else s'

def serveLine (s : State) (line : Nat) : State := serveAll ((dirOf s line).queue.length) s line

/-- Requests that reach a home agent in one cycle, in the order of its rotating pointer; those of one agent in their order (R139). -/
def tieOrder (q : Nat) (l : List (LineNo × CohReq)) : List (LineNo × CohReq) :=
  (List.range 34).flatMap fun i => l.filter fun x => x.2.r.val == (q + i) % 34

/-- A request joins the queue of its line, which is served (R139). -/
def enqueue (s : State) (x : LineNo × CohReq) : State :=
  serveLine (updDir s x.1 fun d => { d with queue := d.queue ++ [x.2] }) x.1

/-- The requests of one cycle at home agent `h` are ordered, queued and served. A tie of several agents moves the pointer past the first
ordered (R139). -/
def releaseHome (s : State) (h : Nat) : State :=
  let l := s.coh.arrivals.filter fun x => homeOf x.1 == h
  let ord := tieOrder (tget 0 s.coh.tie h) l
  let s := match ord with
    | x :: _ => if l.all (fun y => y.2.r == x.2.r) then s
                else { s with coh := { s.coh with tie := tput s.coh.tie h ((x.2.r.val + 1) % 34) } }
    | [] => s
  ord.foldl enqueue { s with coh := { s.coh with arrivals := s.coh.arrivals.filter fun x => homeOf x.1 != h } }

/-- Requests of one kind arrive at the home agent of a line. With `more`, the next request to reach that home agent does so in the same
cycle; else the cycle's requests are ordered and served (R139, log entry 114). -/
def arrive (s : State) (line : Nat) (kind : CohKind) (ids : List AgentId) (mask : Dword) (data : List Byte) (more : Bool) : State :=
  let s := { s with coh := { s.coh with
    wanted := s.coh.wanted ++ ids.map fun a => (line, a, kind)
    arrivals := s.coh.arrivals ++ ids.map fun r => (line, { kind, r, mask, data }) } }
  if more then s else releaseHome s (homeOf line)

/-- Caching requests come from agents with a cache: the clusters that have cache segments, and Sage (R135, R136). -/
def hasCache (s : State) (a : AgentId) : Bool := a.val == 32 || (decide (a.val < 32) && cacheSegs s a.val != 0)

/-- Caching requests may arrive: the line is DRAM, and each agent has a cache. -/
def mayCache (s : State) (line : Nat) (ids : List AgentId) : Bool := inDram (lineAddr line) 64 && ids.all (hasCache s)

/-- RD_S, RD_X and UPG reach the home agent (R138, R139). -/
def cohRow (kind : CohKind) (line : LineNo) (ids : List AgentId) (more : Bool) (s : State) : State :=
  if mayCache s line ids then arrive s line kind ids 0 [] more else s

/-- RD_NC, WR_NC and WR_NC_PART reach the home agent. -/
def ncRow (kind : CohKind) (line : LineNo) (r : AgentId) (mask : Dword) (data : List Byte) (more : Bool) (s : State) : State :=
  if inDram (lineAddr line) 64 then arrive s line kind [r] mask data more else s

/-! ### Probes at an agent (R138, R140, R141) -/

def isInv : CohMsg → Bool | .inv => true | _ => false
def isRecall : CohMsg → Bool | .recall => true | _ => false
def isDowngrade : CohMsg → Bool | .downgrade => true | _ => false
def isGrant : CohMsg → Bool
  | .gntS _ => true | .gntE _ => true | .gntX _ => true | .gntUpg => true
  | _ => false

/-- An agent answers a probe: a line already sent in a WB with ACK_WB, a line it does not hold with INV_ACK, else as the probe asks. -/
def answerProbe (s : State) (line : Nat) (o : AgentId) (m : CohMsg) : State :=
  match agentLine s o line with
  | none =>
    if s.coh.wbOut.contains (line, o) then send s line o .ackWb else send s line o .invAck
  | some x =>
    match m with
    | .downgrade =>
      let s := setAgentLine s o line { x with st := .s }
      send s line o (if x.st == .m then .dataM x.data else .dataClean x.data)
    | .recall =>
      let s := dropAgentLine s o line
      send s line o (if x.st == .m then .dataM x.data else .dataClean x.data)
    | _ => send (dropAgentLine s o line) line o .invAck

/-- A probe reaches an agent: held while the agent's grant for the line is under way (R140, log entry 13), else answered. -/
def probe (s : State) (line : Nat) (o : AgentId) (p : CohMsg → Bool) : State :=
  match findMsg s line o .prb p with
  | none => s
  | some m =>
    let s := takeMsg s line o p
    if underWay s line o isGrant then
      { s with coh := { s.coh with heldProbes := s.coh.heldProbes ++ [(line, o, m)] } }
    else answerProbe s line o m

def execInv (line : LineNo) (o : AgentId) (s : State) : Res := .next (probe s line o isInv)
def execRecall (line : LineNo) (o : AgentId) (s : State) : Res := .next (probe s line o isRecall)
def execDowngrade (line : LineNo) (o : AgentId) (s : State) : Res := .next (probe s line o isDowngrade)

/-! ### Responses at the home agent -/

/-- No answer of an agent to a line's home agent is under way before what the agent sends now (R137). -/
def rspClear (s : State) (line : Nat) (o : AgentId) : Bool := (chanHead s line o .rsp).isNone

/-- A writeback arrives from the owner: the line waits in WBP until its data is committed (R138, R141). -/
def execWb (line : LineNo) (o : AgentId) (data : List Byte) (s : State) : Res :=
  if (dirOf s line).st == .o o && (dirOf s line).wbData.isNone && (agentLine s o line).isSome && rspClear s line o then
    let s := dropAgentLine s o line
    let s := { s with coh := { s.coh with wbOut := s.coh.wbOut ++ [(line, o)] } }
    .next (updDir s line fun d => { d with st := .wbp o, wbData := some (fit data 64) })
  else .next s

/-- The WB data is committed: WB_ACK to the writer, then the first queued request is granted from it (R141). -/
def execWbCommit (line : LineNo) (s : State) : Res :=
  match (dirOf s line).wbData, (dirOf s line).st with
  | some data, .wbp o =>
    let s := dramCommit s (lineAddr line) data
    let s := send s line o .wbAck
    let s := updDir s line fun d => { d with wbData := none, st := .u }
    .next (serveLine s line)
  | _, _ => .next s

/-- A clean line is dropped by its holder (R138); a line in M leaves by WB only. -/
def execCleanEvict (line : LineNo) (o : AgentId) (s : State) : Res :=
  match agentLine s o line with
  | none => .next s
  | some x =>
    if x.st == .m || !rspClear s line o then .next s
    else
    let s := dropAgentLine s o line
    let s := updDir s line fun d => { d with st := match d.st with
      | .s v => let w := v.filter (· != o); if w.isEmpty then .u else .s w
      | .o a => if a == o then .u else .o a
      | st => st }
    .next (serveLine s line)

/-- An answer to a probe reaches the home agent: returned dirty data is written, and after the last answer the request is granted
(R138, R141). After a downgrade whose holder had already dropped the line, the line has no holder left. -/
def probeAnswered (s : State) (line : Nat) (o : AgentId) (data : Option (List Byte)) (gone : Bool) : State :=
  match (dirOf s line).txn with
  | none => s
  | some t =>
    if !t.await.contains o then s
    else
      let discard := t.req.kind == .wrNc
      let s := match data with
        | some d => if discard then s else dramCommit s (lineAddr line) d
        | none => s
      let await := t.await.filter (· != o)
      let st := (dirOf s line).st
      let st := if gone && (t.req.kind == .rdS || t.req.kind == .rdNc) then .u else st
      if await.isEmpty then
        let s := updDir s line fun d => { d with st, txn := none }
        serveLine (grant s line t.req st) line
      else updDir s line fun d => { d with st, txn := some { t with await } }

def isInvAck : CohMsg → Bool | .invAck => true | _ => false
def isAckWb : CohMsg → Bool | .ackWb => true | _ => false
def isDataM : CohMsg → Bool | .dataM _ => true | _ => false
def isDataClean : CohMsg → Bool | .dataClean _ => true | _ => false

def execInvAck (line : LineNo) (o : AgentId) (s : State) : Res :=
  if (findMsg s line o .rsp isInvAck).isSome then .next (probeAnswered (takeMsg s line o isInvAck) line o none true) else .next s
def execAckWb (line : LineNo) (o : AgentId) (s : State) : Res :=
  if (findMsg s line o .rsp isAckWb).isSome && (dirOf s line).wbData.isNone then
    .next (probeAnswered (takeMsg s line o isAckWb) line o none true)
  else .next s
/-- DATA_M: the data the operand gives is the line's, with the writes the owner has made in it (R140, log entry 10). -/
def execDataM (line : LineNo) (o : AgentId) (data : List Byte) (s : State) : Res :=
  if (findMsg s line o .rsp isDataM).isSome then
    .next (probeAnswered (takeMsg s line o isDataM) line o (some (fit data 64)) false)
  else .next s
def execDataClean (line : LineNo) (o : AgentId) (_data : List Byte) (s : State) : Res :=
  if (findMsg s line o .rsp isDataClean).isSome then
    .next (probeAnswered (takeMsg s line o isDataClean) line o none false)
  else .next s

/-! ### Grants at an agent -/

/-- A grant reaches its agent: the line is installed, the access that asked for it is performed, and a held probe is answered (R140). -/
def granted (s : State) (line : Nat) (o : AgentId) (p : CohMsg → Bool) (st : LineState) (data : Option (List Byte)) : State :=
  let s := takeMsg s line o p
  let s := { s with coh := { s.coh with wanted := dropFirst (fun w => w.1 == line && w.2.1 == o && w.2.2.caching) s.coh.wanted } }
  let s := match data with
    | some d => fillLine s o line { st, data := d }
    | none => match agentLine s o line with
      | some x => setAgentLine s o line { x with st }
      | none => s
  match s.coh.heldProbes.find? fun h => h.1 == line && h.2.1 == o with
  | some h =>
    answerProbe { s with coh := { s.coh with heldProbes := dropFirst (fun h => h.1 == line && h.2.1 == o) s.coh.heldProbes } }
      line o h.2.2
  | none => s

def isGntS : CohMsg → Bool | .gntS _ => true | _ => false
def isGntE : CohMsg → Bool | .gntE _ => true | _ => false
def isGntX : CohMsg → Bool | .gntX _ => true | _ => false
def isGntUpg : CohMsg → Bool | .gntUpg => true | _ => false
def isWbAck : CohMsg → Bool | .wbAck => true | _ => false
def isNcData : CohMsg → Bool | .ncData _ => true | _ => false
def isNcAck : CohMsg → Bool | .ncAck => true | _ => false

def execGntS (line : LineNo) (o : AgentId) (data : List Byte) (s : State) : Res :=
  if findMsg s line o .gnt isGntS == some (.gntS data) then .next (granted s line o isGntS .s (some data)) else .next s
def execGntE (line : LineNo) (o : AgentId) (data : List Byte) (s : State) : Res :=
  if findMsg s line o .gnt isGntE == some (.gntE data) then .next (granted s line o isGntE .e (some data)) else .next s
def execGntX (line : LineNo) (o : AgentId) (data : List Byte) (s : State) : Res :=
  if findMsg s line o .gnt isGntX == some (.gntX data) then .next (granted s line o isGntX .m (some data)) else .next s
def execGntUpg (line : LineNo) (o : AgentId) (s : State) : Res :=
  if findMsg s line o .gnt isGntUpg == some .gntUpg then .next (granted s line o isGntUpg .m none) else .next s

/-- The writer's WB is committed: the agent no longer answers probes for it with ACK_WB (R141). -/
def execWbAck (line : LineNo) (o : AgentId) (s : State) : Res :=
  if (findMsg s line o .gnt isWbAck).isSome then
    let s := takeMsg s line o isWbAck
    .next { s with coh := { s.coh with wbOut := dropFirst (fun w => w == (line, o)) s.coh.wbOut } }
  else .next s

/-- A non-caching request ends at its requester. -/
def ncDone (s : State) (line : Nat) (r : AgentId) (p : CohMsg → Bool) (k : CohKind → Bool) : State :=
  let s := takeMsg s line r p
  { s with coh := { s.coh with wanted := dropFirst (fun w => w.1 == line && w.2.1 == r && k w.2.2) s.coh.wanted } }

def execNcData (line : LineNo) (r : AgentId) (data : List Byte) (s : State) : Res :=
  if findMsg s line r .gnt isNcData == some (.ncData data) then .next (ncDone s line r isNcData (· == .rdNc)) else .next s
def execNcAck (line : LineNo) (r : AgentId) (s : State) : Res :=
  if findMsg s line r .gnt isNcAck == some .ncAck then .next (ncDone s line r isNcAck fun k => k == .wrNc || k == .wrNcPart) else .next s

/-! ### Whole transactions, as the module's own requesters make them -/

/-- A non-caching read brings a dirty owner's data home and leaves the owner a sharer (R138: RD_NC). -/
def ncReadLine (s : State) (line : Nat) : State :=
  match (dirOf s line).st with
  | .o a =>
    match agentLine s a line with
    | some x =>
      let s := if x.st == .m then dramCommit s (lineAddr line) x.data else s
      let s := setAgentLine s a line { x with st := .s }
      updDir s line fun d => { d with st := .s [a] }
    | none => updDir s line fun d => { d with st := .u }
  | _ => s

/-- A non-caching write invalidates every holder (R138: WR_NC). -/
def ncDropLine (s : State) (line : Nat) : State :=
  match (dirOf s line).st with
  | .u => s
  | st => updDir ((holders st).foldl (fun s a => dropAgentLine s a line) s) line fun d => { d with st := .u }

/-- Lines of a range. -/
def linesOf (a n : Nat) : List Nat := if n = 0 then [] else (List.range ((a + n - 1) / 64 + 1 - a / 64)).map (· + a / 64)

/-- The cached lines of a range: only lines the directory lists need work. -/
def trackedLines (s : State) (a n : Nat) : List Nat :=
  (s.coh.dir.filter fun x => x.2.st != .u && overlaps (x.1 * 64) 64 a n).map (·.1)

/-- Some line of a range is busy. -/
def rangeBusy (s : State) (a n : Nat) : Bool :=
  s.coh.dir.any fun x => overlaps (x.1 * 64) 64 a n && lineBusy s x.1

/-- Memory made current for a non-caching read of a DRAM range. -/
def ncRead (s : State) (a n : Nat) : State := (trackedLines s a n).foldl ncReadLine s

/-- A non-caching write of a DRAM range. -/
def ncWrite (s : State) (a : Nat) (bs : List Byte) : State :=
  let s := (trackedLines s a bs.length).foldl ncDropLine s
  -- each chunk the range touches is committed on its own, so that MAPPED chunks are marked (R276)
  (List.range ((a % 65536 + bs.length + 65535) / 65536)).foldl (fun s i =>
    let lo := if i = 0 then 0 else i * 65536 - a % 65536
    let hi := min bs.length ((i + 1) * 65536 - a % 65536)
    dramCommit s (a + lo) ((bs.drop lo).take (hi - lo))) s

/-- A range copied to DRAM as a non-caching write. -/
def ncMove (s : State) (src a n : Nat) : State :=
  let s := (trackedLines s a n).foldl ncDropLine s
  let s := (List.range ((a % 65536 + n + 65535) / 65536)).foldl (fun s i =>
    { s with tie := { s.tie with objs := markDirty s (a - a % 65536 + i * 65536) } }) s
  { s with mem := mcopy s.mem src a n, ras := { s.ras with poison := poisonAfter s.ras.poison a n } }

end Sys2Proof.Machine
end

