-- ==== Sys2Proof/Machine/Slots.lean ====
section
/-! DEFINITION. Jobs and contexts as the engines see them: the job of a slot, tickets (R120, R121), context faults (R133, R254) and
the checks every command word passes (R127). -/

namespace Sys2Proof.Machine

/-! ### Jobs -/

/-- The job-table key of a handle, partition * 256 + index (R255). -/
def jobKey (h : Nat) : Nat := bits h 15 12 * 256 + bits h 7 0

/-- The handle of a job (R255). -/
def jobHandle (j : Job) : Nat := j.index + j.part * 4096 + j.gen.toNat * 65536

/-- The job a handle names. -/
def jobOf (s : State) (h : Nat) : Option Job :=
  match tfind? s.sch.jobs (jobKey h) with
  | some j => if jobHandle j == h then some j else none
  | none => none

def updJob (s : State) (key : Nat) (f : Job → Job) : State :=
  match tfind? s.sch.jobs key with
  | some j => { s with sch := { s.sch with jobs := tput s.sch.jobs key (f j) } }
  | none => s

/-- Scheduler registers of a partition (R257). -/
def schPart (s : State) (p : Nat) : SchPart := tget schPartReset s.sch.parts p
def updSchPart (s : State) (p : Nat) (f : SchPart → SchPart) : State :=
  { s with sch := { s.sch with parts := tmod schPartReset s.sch.parts p f } }

/-- Header fields of a job image (R236). -/
def jTimely (j : Job) : Bool := bitAt (fld j.header 5 1) 0
def jPinned (j : Job) : Bool := bitAt (fld j.header 5 1) 1
def jSeedGiven (j : Job) : Bool := bitAt (fld j.header 5 1) 2
def jWidth (j : Job) : Nat := fld j.header 6 1
def jPriority (j : Job) : Nat := fld j.header 7 1 % 4
def jQuantum (j : Job) : Nat := fld j.header 0x10 4
def jImageLen (j : Job) : Nat := fld j.header 0x14 4
def jViewSegs (j : Job) : Nat := bits (fld j.header 0x18 1) 2 0
def jCacheSegs (j : Job) : Nat := bits (fld j.header 0x18 1) 5 3
def jShapeW (j : Job) : Nat := fld j.header 0x19 1
def jShapeH (j : Job) : Nat := fld j.header 0x1A 1
def jPeers (j : Job) : Nat := fld j.header 0x1B 1
def jLanding (j : Job) : Nat := fld j.header 0x1C 4
def jWatchdog (j : Job) : Nat := fld j.header 0x20 4
/-- Arrays rank `r`'s stream names (R236: ARRAY_USE). -/
def jArrayUse (j : Job) (r : Nat) : Nat := bits (fld j.header 0x40 16) (4 * r + 3) (4 * r)
/-- STREAM_OFF and STREAM_LEN of rank `r` (R236). -/
def jStreamOff (j : Job) (r : Nat) : Nat := fld j.header (0x100 + 16 * r) 8
def jStreamLen (j : Job) (r : Nat) : Nat := fld j.header (0x100 + 16 * r + 8) 4

/-- RANK_SIZE, and the areas of a rank (R237). -/
def jRankSize (j : Job) : Nat := 0x10000 + jViewSegs j * 0x01000000 + jLanding j
def jSaveArea (j : Job) (r : Nat) : Nat := j.rankBase + r * jRankSize j + 0x10000
def jLandingArea (j : Job) (r : Nat) : Nat := jSaveArea j r + jViewSegs j * 0x01000000

/-- Whether a job runs timely (R253). -/
def runsTimely (j : Job) : Bool := jTimely j && !j.forceStrict

/-- The job of a slot. -/
def slotJob (s : State) (c i : Nat) : Option Job :=
  let sl := slot s c i
  if sl.st == .empty || sl.job == 0 then none else jobOf s sl.job.toNat

/-- A slot's dispatcher and engines work only while RUNNING (R241). -/
def running (s : State) (c i : Nat) : Bool := (slot s c i).st == .running

/-- Priority of a slot's job, and whether the job is pinned to an array. -/
def slotPri (s : State) (c i : Nat) : Nat := ((slotJob s c i).map jPriority).getD 0
def slotPinned (s : State) (c k i : Nat) : Bool :=
  match slotJob s c i with
  | some j => jPinned j && bitAt (jArrayUse j (slot s c i).rank) k
  | none => false

/-- The slots after `last` in rotating order. -/
def rotated (last : Nat) : List Nat := (List.range 4).map fun d => (last + 1 + d) % 4

/-- The first of the slots of highest priority (R243, R244). -/
def topSlot (s : State) (c : Nat) : List Nat → Option Nat
  | [] => none
  | x :: t => some (t.foldl (fun b i => if slotPri s c b < slotPri s c i then i else b) x)

/-! ### Command words (R127) -/

def wOp (w : List Byte) : Nat := fld w 0 1
def wWaitEn (w : List Byte) : Bool := bitAt (fld w 1 1) 0
def wPostEn (w : List Byte) : Bool := bitAt (fld w 1 1) 1
def wWaitTkt (w : List Byte) : Nat := fld w 2 1
def wPostTkt (w : List Byte) : Nat := fld w 3 1
def wWaitVal (w : List Byte) : Nat := fld w 4 2

/-- The header's reserved bits and ranges (R127). -/
def headerReserved (w : List Byte) : Bool :=
  bits (fld w 1 1) 7 2 != 0 || 64 ≤ wWaitTkt w || 64 ≤ wPostTkt w || fld w 6 2 != 0

/-- A 16-bit counter is ready against a threshold (R120). -/
def tktReady (cnt val : Nat) : Bool := decide ((cnt + 65536 - val % 65536) % 65536 < 0x8000)

/-- The wait of a command word is met (R120). -/
def waitMet (sl : Slot) (w : List Byte) : Bool :=
  !wWaitEn w || tktReady (tget 0 sl.tkt (wWaitTkt w)).toNat (wWaitVal w)

/-- The budget clock of a cluster's partition (R101). -/
def budgetOf (s : State) (c : Nat) : Dword := (pst s ((clusterOwner s c).getD 16)).budget

/-- A ticket is posted on a cluster, slot (R120); the budget clock at which it reaches its count is kept for DL_CHECK (R252). -/
def postTkt (s : State) (c i t : Nat) : State :=
  updSlot s c i fun sl =>
    let n : Half := tget 0 sl.tkt t + 1
    { sl with tkt := tput sl.tkt t n, postAt := tput sl.postAt (t * 65536 + n.toNat) (budgetOf s c) }

/-- The budget clock at which a ticket became ready against a threshold; 0 where it was from the placement on (R252). -/
def readyAt (sl : Slot) (t val : Nat) : Nat := (tget 0 sl.postAt (t * 65536 + val)).toNat

/-- A command of the context finished: its watchdog restarts (R249). -/
def wdRestart (s : State) (c i : Nat) : State := updSlot s c i fun sl => { sl with wd := 0 }

/-! ### Faults -/

/-- The rank at which a job's contexts sit, by cluster. -/
def jobSlots (j : Job) : List Nat := j.clusters

/-- Every resident context of a job stops: its dispatcher reads no more (R254). -/
def stopSlots (s : State) (j : Job) : State :=
  j.clusters.foldl (fun s c =>
    updSlot s c j.slotIx fun sl => if sl.job.toNat == jobHandle j then { sl with st := .teardown } else sl) s

/-- A job begins to end with a status; a job already ending is not affected (R254, R255). -/
def beginEnd (s : State) (key : Nat) (e : JobEnd) : State :=
  match tfind? s.sch.jobs key with
  | none => s
  | some j =>
    if j.ending.isSome then s
    else
      let s := stopSlots s j
      updJob s key fun j => { j with ending := some e }

/-- A fault stops the context and tears its job down (R133, R254): code, stream offset of the command, address or 0. -/
def contextFault (s : State) (c i : Nat) (code pos addr : Nat) : State :=
  let sl := slot s c i
  let s := updSlot s c i fun sl => { sl with faultCode := BitVec.ofNat 8 code }
  match slotJob s c i with
  | none => updSlot s c i fun sl => { sl with st := .teardown }
  | some j =>
    let key := jobKey (jobHandle j)
    let s := if j.ending.isSome then s else
      updJob s key fun j => { j with fault := some { code, rank := sl.rank, cluster := c, slot := i, pos, addr } }
    beginEnd s key (if code == 0x26 then { status := 0x000A, detail := nextSeqLow s } else { status := 0x0104, detail := code })

/-- The MEDIA fault of a command that read poisoned data, with its log entry (R249, R496). -/
def mediaFault (s : State) (c i pos addr : Nat) : State :=
  let s' := contextFault s c i 0x26 pos addr
  let j := (slotJob s c i).map jobHandle
  logErr s' { source := if inDram addr 1 then 1 else if inRoot addr 1 then 3 else 2, severity := 1, part := clusterOwner s c
              address := addr / 64 * 64, job := j.getD 0, requester := c }

/-- The ADDRESS fault of a context is logged nowhere else; a NEIGHBOUR fault is counted (R125). -/
def countNb (s : State) (c : Nat) : State := updClu s c fun x => { x with nbFault := satInc x.nbFault }

/-! ### Queues -/

/-- The head of the DMA or vector queue of a slot, and the head of an array queue. -/
def dmaHead (s : State) (c i : Nat) : Option QCmd := (slot s c i).dmaQ.head?
def vecHead (s : State) (c i : Nat) : Option QCmd := (slot s c i).vecQ.head?
def arrHead (s : State) (c i k : Nat) : Option QCmd := (tget [] (slot s c i).arrQ k).head?

/-- A command of an engine is done with its accesses and waits for COMMAND_FINISH (R121). -/
def toFin (s : State) (c i : Nat) (e : Engine) (q : QCmd) (f : NumFlags := nf0) : State :=
  updSlot s c i fun sl => { sl with fin := sl.fin ++ [{ eng := e, cmd := q, flags := f }] }

/-- An engine's last command has finished (R121), so that the next may begin where commands run one at a time (R129, R158). -/
def engineFree (s : State) (c i : Nat) (e : Engine) : Bool := !((slot s c i).fin.any fun x => x.eng == e)

/-- The slot whose command the DMA engine takes next: of highest priority, in rotating order among equals (R244). -/
def dmaTurn (s : State) (c : Nat) : Option Nat :=
  topSlot s c ((rotated (cluster s c).dmaLast.val).filter fun i =>
    running s c i && (dmaHead s c i).any fun q => waitMet (slot s c i) q.word)

/-- The slot whose command the vector unit takes next (R244). A slot's commands run one at a time (R129); a command of another slot is
paused for one of higher priority only. -/
def vecTurn (s : State) (c : Nat) : Option Nat :=
  topSlot s c ((rotated (cluster s c).vecLast.val).filter fun i =>
    running s c i && (vecHead s c i).any (fun q => waitMet (slot s c i) q.word) && engineFree s c i .vec &&
      (List.range 4).all fun k => engineFree s c k .vec || decide (slotPri s c k < slotPri s c i))

end Sys2Proof.Machine
end

