-- ==== Sys2Proof/Machine/Dma.lean ====
section
/-! DEFINITION. DMA commands (R130-R135): DMA_COPY, DMA_FILL and CACHE_OP, their checks and faults, and the cluster cache. -/

namespace Sys2Proof.Machine

/-! ### What a partition's DMA may reach (R79, R131, R263, R269, R282) -/

/-- An object is MAPPED, read-only and shared with `p`, which is not sealed (R96, R282). -/
def sharedTo (s : State) (p key : Nat) (o : Obj) : Bool :=
  oReadOnly o && o.shareMask.getLsbD p && !isSealed s p && mappedHeld s key o

/-- A range touches a READ_ONLY MAPPED object (R263). -/
def touchesReadOnly (s : State) (a n : Nat) : Bool :=
  s.tie.objs.any fun x => oReadOnly x.2 && overlaps x.2.daddr (objSpan x.2) a n && mappedHeld s x.1 x.2

def tiePart (s : State) (p : Nat) : TiePart := tget tiePartReset s.tie.parts p
def updTiePart (s : State) (p : Nat) (f : TiePart → TiePart) : State :=
  { s with tie := { s.tie with parts := tmod tiePartReset s.tie.parts p f } }

/-- A range touches the partition's T1 pool (R270). -/
def touchesPool (s : State) (p a n : Nat) : Bool :=
  let t := tiePart s p
  overlaps t.poolBase (t.poolLen * 65536) a n

/-- The ranges a partition's DMA may read: its slices, and the objects shared with it, as first address and end. -/
def readRanges (s : State) (p : Nat) : List (Nat × Nat) :=
  ((List.range 32).filter fun k => (prec s p).dramSlices.getLsbD k).map (fun k => (k * 0x000400000000, (k + 1) * 0x000400000000)) ++
    (s.tie.objs.filter fun x => sharedTo s p x.1 x.2).map fun x => (x.2.daddr, x.2.daddr + objSpan x.2)

/-- Every address from `a` up to `e` lies in one of the ranges, whichever each of them lies in (R131). -/
def covered (l : List (Nat × Nat)) : Nat → Nat → Nat → Bool
  | 0, a, e => decide (e ≤ a)
  | k + 1, a, e =>
    decide (e ≤ a) ||
      match (l.filter fun r => decide (r.1 ≤ a) && decide (a < r.2)) with
      | [] => false
      | r :: t => covered l k (t.foldl (fun m x => max m x.2) r.2) e

/-- A job of `p` may read or write a DRAM range by DMA (R131): each address by itself. -/
def dramReach (s : State) (p a n : Nat) (write : Bool) : Bool :=
  inDram a n && !touchesPool s p a n &&
    (if write then slicesOwned s p a n && !touchesReadOnly s a n
     else covered (readRanges s p) (readRanges s p).length a (a + n))

/-- A job of `p` may reach a root store range by DMA: owned segments in ROOT_PIN (R131, R269). -/
def rootReach (s : State) (p a n : Nat) : Bool :=
  rootOwned s p a n && (List.range (rootSegOf (a + n - 1) + 1 - rootSegOf a)).all fun i =>
    (tiePart s p).rootPin.getLsbD (rootSegOf a + i)

/-! ### The cluster cache (R134, R135) -/

/-- A hit updates the tree (R134). -/
def cacheTouch (s : State) (a : AgentId) (line : Nat) : State :=
  let c := a.val
  let set := cacheSet (cacheSegs s c) line
  match wayOf s c set line with
  | some w => updClu s c fun x => { x with trees := tput x.trees set (treeUse (tget 0 x.trees set) w) }
  | none => s

def hit (s : State) (c : Nat) : State := updClu s c fun x => { x with cacheHit := x.cacheHit + 1 }
def miss (s : State) (c : Nat) : State := updClu s c fun x => { x with cacheMiss := x.cacheMiss + 1 }

/-- A line brought into the cache of cluster `a` in a state, the directory holding `st`. -/
def cacheFill (s : State) (a : AgentId) (line : Nat) (ls : LineState) (st : DirState) : State :=
  updDir (fillLine s a line { st := ls, data := lineData s line }) line fun d => { d with st }

/-- The cache of cluster `a` holds a line for reading: RD_S where it misses (R135, R138). -/
def cacheFetchS (s : State) (a : AgentId) (line : Nat) : State :=
  match agentLine s a line with
  | some _ => cacheTouch (hit s a.val) a line
  | none =>
    let s := ncReadLine (touchDir (makeRoom (miss s a.val) line) line) line
    match (dirOf s line).st with
    | .s v => cacheFill s a line .s (.s (addSharer v a))
    | _ => if isSharedLine s line then cacheFill s a line .s (.s [a]) else cacheFill s a line .e (.o a)

/-- The cache of cluster `a` holds a line for writing: RD_X or UPG where it must (R135, R138). A line of a read-only shared object is
granted in S only. -/
def cacheFetchX (s : State) (a : AgentId) (line : Nat) : State :=
  if isSharedLine s line then cacheFetchS s a line
  else
    match agentLine s a line with
    | some x =>
      let s := cacheTouch (hit s a.val) a line
      if x.st == .m || x.st == .e then s
      else
        let s := ((holders (dirOf s line).st).filter (· != a)).foldl (fun s b => dropAgentLine s b line) s
        updDir (setAgentLine s a line { x with st := .e }) line fun d => { d with st := .o a }
    | none =>
      let s := ncReadLine (touchDir (makeRoom (miss s a.val) line) line) line
      let s := (holders (dirOf s line).st).foldl (fun s b => dropAgentLine s b line) s
      cacheFill s a line .e (.o a)

/-- A whole line written into the cache in state M (R135). -/
def cacheWriteLine (s : State) (a : AgentId) (line : Nat) (data : List Byte) : State :=
  let s := cacheFetchX s a line
  setAgentLine s a line { st := .m, data }

/-! ### Addresses of a DMA command -/

/-- A place a DMA block lies at: pieces of one cluster's store, a DRAM range, or a root store range. -/
inductive Place where
  | store (ps : List (Nat × Nat))
  | dram (a n : Nat)
  | root (a n : Nat)
  deriving DecidableEq, Repr

/-- The cluster a store space names for a command of cluster `c` (R125, R130). -/
def spaceCluster (c sp : Nat) : Option Nat := if sp = 0 then some c else if sp ≤ 4 then neighbour c (sp - 1) else none

/-- A neighbour store may be named by slot `i` of cluster `c` (R125). -/
def nbAllowed (s : State) (c i : Nat) : Option Nat → Bool
  | none => false
  | some d => clusterOwner s d == clusterOwner s c && (slot s d i).job == (slot s c i).job

/-- A block's place, or the fault code it raises (R131, R133). -/
def blockPlace (s : State) (c i p sp a n : Nat) (write : Bool) : Except Nat Place :=
  if sp = 5 then (if dramReach s p a n write then .ok (.dram a n) else .error 0x04)
  else if sp = 6 then (if rootReach s p a n then .ok (.root a n) else .error 0x04)
  else if sp = 7 then .error 0x07
  else if 0x08000000 ≤ a then .error 0x03
  else if sp = 0 then
    match viewRange s c i a n with
    | some ps => .ok (.store ps)
    | none => .error 0x05
  else
    match spaceCluster c sp with
    | none => .error 0x06
    | some d =>
      if nbAllowed s c i (some d) then
        match viewRange s d i a n with
        | some ps => .ok (.store ps)
        | none => .error 0x06
      else .error 0x06

/-- Whether any part of a place is poisoned (R496). -/
def placePoisoned (s : State) : Place → Bool
  | .store ps => ps.any fun x => poisoned s x.1 x.2
  | .dram a n => poisoned s a n
  | .root a n => poisoned s a n

/-- The first address of a place. -/
def placeAddr : Place → Nat
  | .store ps => ((ps.head?).map (·.1)).getD 0
  | .dram a _ => a
  | .root a _ => a

/-- A place made current for reading, through the cluster cache if `cached`. -/
def preRead (s : State) (a : AgentId) (cached : Bool) : Place → State
  | .dram x n => if cached then (linesOf x n).foldl (fun s l => cacheFetchS s a l) s else ncRead s x n
  | _ => s

/-- The bytes of a place; cached lines from the cluster's cache. -/
def readPlace (s : State) (a : AgentId) (cached : Bool) : Place → List Byte
  | .store ps => readPieces s.mem ps
  | .dram x n =>
    if cached then (linesOf x n).flatMap fun l =>
      match agentLine s a l with
      | some y => y.data
      | none => lineData s l
    else mread s.mem x n
  | .root x n => mread s.mem x n

/-- Whole lines written from a line on, through the cluster cache. -/
def cacheWrite (s : State) (a : AgentId) : List Nat → List Byte → State
  | [], _ => s
  | l :: t, bs => cacheWrite (cacheWriteLine s a l (bs.take 64)) a t (bs.drop 64)

/-- Bytes written at a place. -/
def writePlace (s : State) (a : AgentId) (cached : Bool) (pl : Place) (bs : List Byte) : State :=
  match pl with
  | .store ps => storeWritePieces s ps bs
  | .dram x n => if cached then cacheWrite s a (linesOf x n) bs else ncWrite s x bs
  | .root x _ => storeWrite s x bs

/-- Any line of a place is in the middle of a transaction (R139), or a segment of it is being cleared (R126): the command waits. -/
def placeBusy (s : State) : Place → Bool
  | .dram x n => rangeBusy s x n
  | .store ps => clearingAt s ps
  | .root _ _ => false

/-! ### DMA_COPY and DMA_FILL -/

/-- The fields of a DMA command word (R130, R132). -/
structure DmaCmd where
  fill : Bool
  value : Nat
  src : Nat
  srcSp : Nat
  dst : Nat
  dstSp : Nat
  cached : Bool
  rows : Nat
  bytes : Nat
  srcStride : Nat
  dstStride : Nat
  deriving DecidableEq, Repr

/-- The fields read from a word. -/
def dmaFields (w : List Byte) : DmaCmd :=
  { fill := wOp w == 2, value := fld w 8 4, src := fld w 8 6, srcSp := bits (fld w 0xE 1) 2 0, dst := fld w 0x10 6
    dstSp := bits (fld w 0xE 1) 6 4, cached := bitAt (fld w 0xF 1) 0, rows := fld w 0x16 2 + 1
    bytes := (fld w 0x18 2 + 1) * 64, srcStride := fld w 0x1A 2 * 64, dstStride := fld w 0x1C 2 * 64 }

/-- Reserved bits of a DMA word (R127, R130, R132). -/
def dmaReserved (w : List Byte) : Bool :=
  headerReserved w || bitAt (fld w 0xE 1) 3 || bitAt (fld w 0xE 1) 7 || bits (fld w 0xF 1) 7 1 != 0 || fld w 0x1E 2 != 0 ||
    (wOp w == 2 && (fld w 0xC 2 != 0 || bits (fld w 0xE 1) 2 0 != 0 || fld w 0x1A 2 != 0))

/-- Places of every block, source (none for a fill) and destination, or the faults raised, as codes. -/
def dmaPlaces (s : State) (c i p : Nat) (d : DmaCmd) : List (Except Nat (Option Place × Place)) :=
  (List.range d.rows).map fun k =>
    let dst := blockPlace s c i p d.dstSp (d.dst + k * d.dstStride) d.bytes true
    if d.fill then dst.map fun x => (none, x)
    else
      match blockPlace s c i p d.srcSp (d.src + k * d.srcStride) d.bytes false, dst with
      | .ok a, .ok b => .ok (some a, b)
      | .error e, .ok _ => .error e
      | .ok _, .error e => .error e
      | .error e, .error f => .error (min e f)

/-- The fault a DMA command raises, if any (R131, R133; log entry 15): what its own fields break first, RESERVED, ALIGN and SPACE, then the lowest
code of its blocks. -/
def dmaFault (w : List Byte) (d : DmaCmd) (ps : List (Except Nat (Option Place × Place))) : Option Nat :=
  let nb (sp : Nat) : Bool := 1 ≤ sp && sp ≤ 4
  let codes := ps.filterMap fun x => match x with
    | .error e => some e
    | .ok _ => none
  if dmaReserved w then some 0x02
  else if d.dst % 64 != 0 || (!d.fill && d.src % 64 != 0) then some 0x03
  else if (!d.fill && nb d.srcSp && nb d.dstSp) || d.dstSp == 7 || (!d.fill && d.srcSp == 7) then some 0x07
  else
    match codes with
    | [] => none
    | c :: t => some (t.foldl min c)

/-- The module address a faulting command is reported with (R255): its destination, or source for a copy. -/
def dmaFaultAddr (d : DmaCmd) : Nat := if d.fill then d.dst else d.src

/-- Blocks copied in ascending order (R130), each read whole before it is written (DESIGN CHOICE, log entry 115); a poisoned source stops the command (R496), and the blocks before it stay written. -/
def copyBlocks (a : AgentId) (cached : Bool) (value : Nat) : List (Option Place × Place) → State → State × Option Nat
  | [], s => (s, none)
  | (src, dst) :: t, s =>
    match src with
    | some x =>
      if placePoisoned s x then (s, some (placeAddr x))
      else
        let s := preRead s a cached x
        let bs := readPlace s a cached x
        copyBlocks a cached value t (writePlace s a cached dst bs)
    | none =>
      let n := match dst with
        | .store ps => natSum (ps.map (·.2))
        | .dram _ n => n
        | .root _ n => n
      copyBlocks a cached value t (writePlace s a cached dst ((List.replicate (n / 4) (leBytes 4 value)).flatten))

/-- The cluster whose ticket a DMA command posts: the one whose store it writes, else the issuing one (R121). -/
def dmaPostCluster (c : Nat) (w : List Byte) : Nat :=
  let sp := bits (fld w 0xE 1) 6 4
  if wOp w == 3 then c else if 1 ≤ sp && sp ≤ 4 then (spaceCluster c sp).getD c else c

/-- A cluster as a coherence requester (R136). -/
def cluAgent (c : Clu) : AgentId := ⟨c.val, by omega⟩

/-- The partition a cluster's work serves. -/
def cluPart (s : State) (c : Nat) : Nat := (clusterOwner s c).getD 16

/-- The DMA queue's head runs, if its opcode is the row's, the context is RUNNING, its wait is met, and the engine takes this slot's
command next (R120, R129, R244). -/
def dmaRow (c : Clu) (i : SlotIx) (op : Nat) (f : QCmd → State → State) (s : State) : Res :=
  match dmaHead s c.val i.val with
  | none => .next s
  | some q => if wOp q.word == op && dmaTurn s c.val == some i.val then .next (f q s) else .next s

/-- The head leaves the DMA queue and waits for COMMAND_FINISH. -/
def dmaPop (s : State) (c : Clu) (i : SlotIx) (q : QCmd) : State :=
  let s := updClu s c.val fun x => { x with dmaLast := i }
  toFin (updSlot s c.val i.val fun sl => { sl with dmaQ := sl.dmaQ.tail }) c.val i.val .dma q

/-- DMA_COPY and DMA_FILL: every block is checked first; a command that faults makes no access (R131). A CACHED write to DRAM is complete,
for POST, once its lines are in the cluster's cache (R121, R135; DESIGN CHOICE, log entry 116). -/
def runDma (c : Clu) (i : SlotIx) (q : QCmd) (s : State) : State :=
  let d := dmaFields q.word
  let ps := dmaPlaces s c.val i.val (cluPart s c.val) d
  match dmaFault q.word d ps with
  | some code =>
    let s := if code == 0x06 then countNb s c.val else s
    contextFault s c.val i.val code q.pos (if code == 0x04 then dmaFaultAddr d else 0)
  | none =>
    let ok := ps.filterMap fun x => x.toOption
    if ok.any (fun x => placeBusy s x.2 || ((x.1.map (placeBusy s)).getD false)) then s
    else
      let cached := d.cached && cacheSegs s c.val != 0
      match copyBlocks (cluAgent c) cached d.value ok s with
      | (s, some a) => mediaFault s c.val i.val q.pos a
      | (s, none) => dmaPop s c i q

def execDmaCopy (c : Clu) (i : SlotIx) (s : State) : Res := dmaRow c i 0x01 (runDma c i) s
def execDmaFill (c : Clu) (i : SlotIx) (s : State) : Res := dmaRow c i 0x02 (runDma c i) s

/-! ### CACHE_OP (R132) -/

/-- Reserved bits of a CACHE_OP word. -/
def cacheOpReserved (w : List Byte) : Bool :=
  headerReserved w || 3 < fld w 0xE 1 || fld w 0xF 1 != 0 || fld w 0x14 4 != 0 || fld w 0x18 8 != 0

/-- The lowest fault code of a CACHE_OP; no KIND writes its lines, so read access is enough. -/
def cacheOpFault (s : State) (p : Nat) (w : List Byte) : Option Nat :=
  let a := fld w 8 6
  let n := fld w 0x10 4
  if cacheOpReserved w then some 0x02
  else if a % 64 != 0 then some 0x03
  else if n != 0 && !dramReach s p a (n * 64) false then some 0x04
  else if n == 0 then some 0x08
  else none

/-- One line of a CACHE_OP. -/
def cacheOpLine (a : AgentId) (kind : Nat) (s : State) (line : Nat) : State :=
  match kind with
  | 0 => cacheFetchS s a line
  | 1 => cacheFetchX s a line
  | 2 =>
    match agentLine s a line with
    | some x => if x.st == .m then setAgentLine (dramCommit s (lineAddr line) x.data) a line { x with st := .e } else s
    | none => s
  | _ => evictLine s a line

/-- CACHE_OP: on a cluster without cache segments it has no effect beyond finishing (R132). -/
def execCacheOp (c : Clu) (i : SlotIx) (s : State) : Res :=
  dmaRow c i 0x03 (fun q s =>
    match cacheOpFault s (cluPart s c.val) q.word with
    | some code => contextFault s c.val i.val code q.pos (if code == 0x04 then fld q.word 8 6 else 0)
    | none =>
      let a := fld q.word 8 6
      let n := fld q.word 0x10 4
      if cacheSegs s c.val = 0 then dmaPop s c i q
      else if rangeBusy s a (n * 64) then s
      else
        let lines := if fld q.word 0xE 1 < 2 then linesOf a (n * 64) else trackedLines s a (n * 64)
        dmaPop (lines.foldl (cacheOpLine (cluAgent c) (fld q.word 0xE 1)) s) c i q) s

end Sys2Proof.Machine
end

