-- ==== Sys2Proof/Machine/Thyme.lean ====
section
/-! DEFINITION. Thyme (chapter 07): the counter-based random function and the keyed permutation. -/

namespace Sys2Proof.Machine

/-- One mixing step (R219). -/
def thymeMix (z : Dword) : Dword :=
  let z := z ^^^ (z >>> 31)
  let z := z * 0xA3B195D47C2E6F19#64
  let z := z ^^^ (z >>> 27)
  let z := z * 0x8F1D6C47A53BE2D5#64
  z ^^^ (z >>> 33)

/-- The 64-bit word of seed, stream and logical index (R219). -/
def thyme64 (seed : Dword) (stream : Word) (idx : Dword) : Dword :=
  let k0 := thymeMix (seed ^^^ 0x7E513A0C94D2B681#64)
  let k1 := thymeMix (k0 ^^^ (stream.setWidth 64 * 0xE3A94F271B6D5C85#64))
  let c : Dword := 0x6C8E9CF57F4A7C15#64
  let x := thymeMix (idx + k0)
  let x := thymeMix (x + k1 + c)
  let x := thymeMix (x + k0 + 2 * c)
  thymeMix (x + k1 + 3 * c)

/-- The 32-bit word (R219). -/
def thyme32 (seed : Dword) (stream : Word) (idx : Dword) : Word := (thyme64 seed stream idx).setWidth 32

/-- One Feistel round (R230). -/
def feistelRound (s : Dword) (e h r : Nat) (lr : Nat × Nat) : Nat × Nat :=
  let idx := r * 2 ^ 32 + h * 2 ^ 24 ||| lr.2
  let f := (thyme64 s (BitVec.ofNat 32 (0xFF000000 + e)) (BitVec.ofNat 64 idx)).toNat % 2 ^ h
  (lr.2, lr.1 ^^^ f)

/-- The Feistel permutation of 2h-bit numbers (R230). -/
def feistel (s : Dword) (e h x : Nat) : Nat :=
  let lr := (List.range 8).foldl (fun lr r => feistelRound s e h r lr) (x / 2 ^ h, x % 2 ^ h)
  lr.1 * 2 ^ h + lr.2

/-- Half the width of the permutation's domain (R230). -/
def permHalf (n : Nat) : Nat := max 1 (((if n ≤ 1 then 0 else Nat.log2 (n - 1) + 1) + 1) / 2)

/-- Repeated application until the value is below `n`, within `fuel` steps. -/
def permWalk (s : Dword) (e h n : Nat) : Nat → Nat → Nat
  | 0, x => x
  | fuel + 1, x => if n ≤ x then permWalk s e h n fuel (feistel s e h x) else x

/-- π(s, e, N, i) (R230): the walk ends within the 2^(2h) values of the domain (R231). -/
def permute (s : Dword) (e n i : Nat) : Nat :=
  let h := permHalf n
  permWalk s e h n (2 ^ (2 * h)) (feistel s e h i)

end Sys2Proof.Machine
end

