-- ==== Sys2Proof/Machine/Numbers.lean ====
section
/-! DEFINITION. Number formats and exact arithmetic (chapter 05): the values of the fifteen formats, rounding, the group reduction of
R183, addition, and the conversions of R192 and R206-R212. Everything is computed exactly on integers and narrowed at the end. -/

namespace Sys2Proof.Machine

/-- A value: a NaN (signalling or quiet), an infinity, or (-1)^neg * m * 2^x (R174). -/
inductive FVal where
  | nan (sig : Bool)
  | inf (neg : Bool)
  | fin (neg : Bool) (m : Nat) (x : Int)
  deriving DecidableEq, Repr

/-- Position of the highest set bit plus one; 0 for 0 (R183). -/
def bitlen (m : Nat) : Nat := if m = 0 then 0 else Nat.log2 m + 1

/-- m * 2^x narrowed to an integer multiple of 2^q, ties to even. -/
def rneAt (m : Nat) (x q : Int) : Nat :=
  if q ≤ x then m * 2 ^ (x - q).toNat
  else
    let k := (q - x).toNat
    let d := m / 2 ^ k
    let r := m % 2 ^ k
    let h := 2 ^ (k - 1)
    if h < r || (r == h && d % 2 == 1) then d + 1 else d

/-- m * 2^x ≥ n * 2^y. -/
def geScaled (m : Nat) (x : Int) (n : Nat) (y : Int) : Bool :=
  if y ≤ x then decide (n ≤ m * 2 ^ (x - y).toNat) else decide (n * 2 ^ (y - x).toNat ≤ m)

/-- A binary floating-point format (R174). `kind` 0: IEEE infinities and NaNs; 1: E4M3; 2: every encoding a value. -/
structure FpFmt where
  ebits : Nat
  fbits : Nat
  bias : Nat
  kind : Nat
  deriving DecidableEq, Repr

def fpFP32 : FpFmt := ⟨8, 23, 127, 0⟩
def fpBF16 : FpFmt := ⟨8, 7, 127, 0⟩
def fpFP16 : FpFmt := ⟨5, 10, 15, 0⟩
def fpE4M3 : FpFmt := ⟨4, 3, 7, 1⟩
def fpE5M2 : FpFmt := ⟨5, 2, 15, 0⟩
def fpE3M2 : FpFmt := ⟨3, 2, 3, 2⟩
def fpE2M3 : FpFmt := ⟨2, 3, 1, 2⟩
def fpE2M1 : FpFmt := ⟨2, 1, 1, 2⟩

/-- The value of an encoding (R174). -/
def fpValue (f : FpFmt) (b : Nat) : FVal :=
  let fr := b % 2 ^ f.fbits
  let ex := (b / 2 ^ f.fbits) % 2 ^ f.ebits
  let neg := (b / 2 ^ (f.fbits + f.ebits)) % 2 == 1
  let top := 2 ^ f.ebits - 1
  if f.kind == 0 && ex == top then
    if fr == 0 then .inf neg else .nan (fr / 2 ^ (f.fbits - 1) == 0)
  else if f.kind == 1 && ex == top && fr == 2 ^ f.fbits - 1 then .nan false
  else if ex == 0 then .fin neg fr (1 - (f.bias : Int) - f.fbits)
  else .fin neg (fr + 2 ^ f.fbits) ((ex : Int) - f.bias - f.fbits)

/-- The largest finite encoding without its sign (R174). -/
def fpMax (f : FpFmt) : Nat :=
  let all := 2 ^ (f.ebits + f.fbits)
  if f.kind == 0 then (2 ^ f.ebits - 1) * 2 ^ f.fbits - 1 else if f.kind == 1 then all - 2 else all - 1

/-- The sign bit of an encoding. -/
def fpSign (f : FpFmt) (neg : Bool) : Nat := if neg then 2 ^ (f.ebits + f.fbits) else 0

/-- The canonical NaN of a format (R143, R192). -/
def fpNan (f : FpFmt) : Nat :=
  if f.kind == 0 then
    (if f.fbits == 2 then 2 ^ (f.ebits + f.fbits) - 1 else (2 ^ f.ebits - 1) * 2 ^ f.fbits + 2 ^ (f.fbits - 1))
  else 2 ^ (f.ebits + f.fbits) - 1

/-- The infinity of a format; E4M3 encodes it as its NaN codes (R192). -/
def fpInf (f : FpFmt) (neg : Bool) : Nat :=
  fpSign f neg + (if f.kind == 0 then (2 ^ f.ebits - 1) * 2 ^ f.fbits else 2 ^ (f.ebits + f.fbits) - 1)

/-- Overflow or infinity as written: with SAT the largest finite value of the sign (R192, R193). -/
def fpOver (f : FpFmt) (sat neg : Bool) : Nat := if sat then fpSign f neg + fpMax f else fpInf f neg

/-- The exponent of the spacing of a format's grid around a value with ⌊log2⌋ = l. -/
def gridExp (f : FpFmt) (l : Int) : Int := max (l - f.fbits) (1 - (f.bias : Int) - f.fbits)

/-- ⌊log2 (m * 2^x)⌋ for m > 0. -/
def log2Of (m : Nat) (x : Int) : Int := (bitlen m : Int) - 1 + x

/-- The encoding of n * 2^q, n already on the grid that starts at q, without overflow check: exponent and fraction fields follow
from the count of grid steps. -/
def fpPack (f : FpFmt) (n : Nat) (q : Int) : Nat :=
  if n = 0 then 0
  else
    let l := log2Of n q
    let emin : Int := 1 - f.bias
    if l < emin then n * 2 ^ (q - (emin - f.fbits)).toNat
    else
      let frac := if (q ≤ l - f.fbits) then n / 2 ^ ((l - f.fbits) - q).toNat else n * 2 ^ (q - (l - f.fbits)).toNat
      (l + f.bias).toNat * 2 ^ f.fbits + (frac - 2 ^ f.fbits)

/-- m * 2^x rounded to nearest even in format `f`: the encoding without sign, and whether it overflows (R192). The tie rule at
the top follows from rounding on the grid continued upward. -/
def fpRound (f : FpFmt) (m : Nat) (x : Int) : Nat × Bool :=
  if m = 0 then (0, false)
  else
    let q := gridExp f (log2Of m x)
    let n := rneAt m x q
    let e := fpPack f n q
    (e, decide (fpMax f < e))

/-- A value written in a format with round-to-nearest-even, its flags, and whether it counts as CLIPPED (R192, R193, R195). -/
def fpWrite (f : FpFmt) (sat : Bool) : FVal → Nat × NumFlags × Bool
  | .nan _ => (fpNan f, nf0, false)
  | .inf neg => (fpOver f sat neg, nf0, true)
  | .fin neg m x =>
    let (e, ovf) := fpRound f m x
    if ovf then (fpOver f sat neg, nfOf, true) else (fpSign f neg + e, nf0, false)

/-- A value rounded once to FP32 (R143, R180), as a value again, with OF on overflow. -/
def roundF32 (neg : Bool) (m : Nat) (x : Int) : FVal × NumFlags :=
  let (e, ovf) := fpRound fpFP32 m x
  if ovf then (.inf neg, nfOf) else (fpValue fpFP32 (fpSign fpFP32 neg + e), nf0)

/-- The FP32 encoding of an FP32 value. -/
def f32Bits (v : FVal) : Nat := (fpWrite fpFP32 false v).1

def FVal.isZero : FVal → Bool
  | .fin _ m _ => m == 0
  | _ => false

def FVal.isNeg : FVal → Bool
  | .nan _ => false
  | .inf n => n
  | .fin n _ _ => n

def FVal.negate : FVal → FVal
  | .nan s => .nan s
  | .inf n => .inf (!n)
  | .fin n m x => .fin (!n) m x

/-- The flags a value sets by being a NaN input (R185). -/
def nanFlags : FVal → NumFlags
  | .nan s => nfNan s
  | _ => nf0

/-- The exact signed sum of two finite values, as sign, magnitude and exponent. -/
def exactAdd (n1 : Bool) (m1 : Nat) (x1 : Int) (n2 : Bool) (m2 : Nat) (x2 : Int) : Int × Int :=
  let q := min x1 x2
  let a : Int := (m1 * 2 ^ (x1 - q).toNat : Nat)
  let b : Int := (m2 * 2 ^ (x2 - q).toNat : Nat)
  ((if n1 then -a else a) + (if n2 then -b else b), q)

/-- Binary32 addition with round-to-nearest-even (R143, R182): the result, and NV or OF; NaN inputs are flagged by the caller. -/
def addF (a b : FVal) : FVal × NumFlags :=
  match a, b with
  | .nan _, _ => (.nan false, nf0)
  | _, .nan _ => (.nan false, nf0)
  | .inf n, .inf k => if n == k then (.inf n, nf0) else (.nan false, nfNv)
  | .inf n, .fin _ _ _ => (.inf n, nf0)
  | .fin _ _ _, .inf n => (.inf n, nf0)
  | .fin n1 m1 x1, .fin n2 m2 x2 =>
    if m1 == 0 && m2 == 0 then (.fin (n1 && n2) 0 0, nf0)
    else
      let (v, q) := exactAdd n1 m1 x1 n2 m2 x2
      if v == 0 then (.fin false 0 0, nf0) else roundF32 (decide (v < 0)) v.natAbs q

/-- The exact product; NV where 0 × Inf (R185). -/
def mulExact (a b : FVal) : FVal × NumFlags :=
  match a, b with
  | .nan _, _ => (.nan false, nf0)
  | _, .nan _ => (.nan false, nf0)
  | .inf n, .inf k => (.inf (n != k), nf0)
  | .inf n, .fin k m _ => if m == 0 then (.nan false, nfNv) else (.inf (n != k), nf0)
  | .fin k m _, .inf n => if m == 0 then (.nan false, nfNv) else (.inf (n != k), nf0)
  | .fin n1 m1 x1, .fin n2 m2 x2 => (.fin (n1 != n2) (m1 * m2) (x1 + x2), nf0)

/-- A value rounded to FP32. -/
def toF32 : FVal → FVal × NumFlags
  | .fin n m x => roundF32 n m x
  | v => (v, nf0)

/-- Multiplication rounded once (R143). -/
def mulF (a b : FVal) : FVal × NumFlags :=
  let (p, f) := mulExact a b
  let (r, g) := toF32 p
  (r, nfOr f g)

/-- Fused multiply-add with one rounding (R143). -/
def fmaF (a b d : FVal) : FVal × NumFlags :=
  let (p, f) := mulExact a b
  match p, d with
  | .fin n1 m1 x1, .fin n2 m2 x2 =>
    if m1 == 0 && m2 == 0 then (.fin (n1 && n2) 0 0, f)
    else
      let (v, q) := exactAdd n1 m1 x1 n2 m2 x2
      if v == 0 then (.fin false 0 0, f)
      else
        let (r, g) := roundF32 (decide (v < 0)) v.natAbs q
        (r, nfOr f g)
  | _, _ =>
    let (r, g) := addF p d
    (r, nfOr f g)

/-- a < b in the order that puts -0 below +0, for values that are not NaN (R143). -/
def ltF (a b : FVal) : Bool :=
  match a, b with
  | .inf n, .inf k => n && !k
  | .inf n, _ => n
  | _, .inf n => !n
  | .fin n1 m1 x1, .fin n2 m2 x2 =>
    let (v, _) := exactAdd n1 m1 x1 (!n2) m2 x2
    if v == 0 then n1 && !n2 else decide (v < 0)
  | _, _ => false

/-- Maximum and minimum (R143): NaN if any operand is NaN. -/
def maxF (a b : FVal) : FVal :=
  match a, b with
  | .nan _, _ => .nan false
  | _, .nan _ => .nan false
  | _, _ => if ltF a b then b else a

def minF (a b : FVal) : FVal :=
  match a, b with
  | .nan _, _ => .nan false
  | _, .nan _ => .nan false
  | _, _ => if ltF b a then b else a

/-! ### Format codes (R172) -/

/-- Element size in bits of a format code. -/
def fmtBits (c : Nat) : Nat :=
  match c with
  | 0 => 32
  | 1 => 16
  | 2 => 16
  | 3 => 8
  | 4 => 8
  | 5 => 8
  | 6 => 4
  | 7 => 8
  | 8 => 8
  | 9 => 6
  | 10 => 6
  | 11 => 4
  | 12 => 8
  | 13 => 4
  | 14 => 8
  | _ => 0

/-- Codes with a block scale. -/
def fmtMx (c : Nat) : Bool := decide (7 ≤ c) && decide (c ≤ 12)

/-- Codebook codes. -/
def fmtCb (c : Nat) : Bool := c == 13 || c == 14

/-- The floating-point format of an element code that has one. -/
def fmtFp (c : Nat) : Option FpFmt :=
  match c with
  | 0 => some fpFP32
  | 1 => some fpBF16
  | 2 => some fpFP16
  | 3 => some fpE4M3
  | 4 => some fpE5M2
  | 7 => some fpE4M3
  | 8 => some fpE5M2
  | 9 => some fpE3M2
  | 10 => some fpE2M3
  | 11 => some fpE2M1
  | _ => none

/-- Codes allowed for the output of ARR_MM (R172). -/
def fmtY (c : Nat) : Bool := decide (c ≤ 4) || fmtMx c

/-- Twice the depth factor φ of the rate class (R148). -/
def fmtPhi2 (c : Nat) : Nat := if c == 6 || c == 11 then 4 else if c ≤ 2 then 1 else 2

/-- A two's complement integer as a value times 2^x; zero is +0 (R175). -/
def intValue (n b : Nat) (x : Int) : FVal :=
  let v := signed n b
  .fin (decide (v < 0)) v.natAbs x

/-- The value of an element by its format code, without block scale; a codebook element is looked up by the caller (R174-R177). -/
def fmtValue (c b : Nat) : FVal :=
  match fmtFp c with
  | some f => fpValue f b
  | none => if c == 6 then intValue 4 b 0 else if c == 12 then intValue 8 b (-6) else intValue 8 b 0

/-- Element `i` of a packed row (R173). -/
def elemBits (row : List Byte) (bitsN i : Nat) : Nat :=
  let lo := bitsN * i
  (fld row (lo / 8) ((lo % 8 + bitsN + 7) / 8) / 2 ^ (lo % 8)) % 2 ^ bitsN

/-- A bit string packed from elements of `bitsN` bits, the lower index in the lower bits, zero-padded to whole bytes (R173). -/
def packBits (bitsN : Nat) (es : List Nat) : List Byte :=
  let total := es.foldr (fun e acc => e % 2 ^ bitsN + 2 ^ bitsN * acc) 0
  leBytes ((bitsN * es.length + 7) / 8) total

/-- Elements of 8, 16 and 32 bits packed byte by byte. -/
def packElems (bitsN : Nat) (es : List Nat) : List Byte :=
  if bitsN % 8 == 0 then es.flatMap (leBytes (bitsN / 8)) else packBits bitsN es

/-! ### The group reduction (R178-R184) -/

/-- A term of a group: sign, significand, exponent (R183). -/
structure Term where
  neg : Bool
  m : Nat
  x : Int
  deriving DecidableEq, Repr

/-- An FP32 encoding with bits [15:0] cleared, as a value (R188). -/
def truncBf (v : FVal) : FVal :=
  let b := f32Bits v
  fpValue fpFP32 (b - b % 65536)

/-- The three BF16 pieces of a finite FP32 value (R188). -/
def split3 (v : FVal) : FVal × FVal × FVal :=
  let hi := truncBf v
  let r1 := (addF v hi.negate).1
  let lo := truncBf r1
  let r2 := (addF r1 lo.negate).1
  (hi, lo, truncBf r2)

/-- The factor pairs of one k (R189): one pair, or PASSES pairs where an operand is FP32. -/
def passPairs (aF32 bF32 : Bool) (passes : Nat) (a b : FVal) : List (FVal × FVal) :=
  let l :=
    if aF32 && bF32 then
      let (ah, al, _) := split3 a
      let (bh, bl, _) := split3 b
      [(ah, bh), (ah, bl), (al, bh)]
    else if aF32 then
      let (h, l, l2) := split3 a
      [(h, b), (l, b), (l2, b)]
    else if bF32 then
      let (h, l, l2) := split3 b
      [(a, h), (a, l), (a, l2)]
    else [(a, b)]
  if aF32 || bF32 then l.take passes else l

/-- What a group has gathered so far (R183). -/
structure GroupAcc where
  nan : Bool
  pinf : Bool
  ninf : Bool
  neg0 : Bool
  terms : List Term
  flags : NumFlags
  deriving DecidableEq, Repr

/-- One k of a group (R183); `xs` is the group scale exponent. -/
def groupStep (aF32 bF32 : Bool) (passes : Nat) (xs : Int) (g : GroupAcc) (ab : FVal × FVal) : GroupAcc :=
  let a := ab.1
  let b := ab.2
  match a, b with
  | .nan sa, _ => { g with nan := true, flags := nfOr g.flags (nfOr (nfNan sa) (nanFlags b)) }
  | _, .nan sb => { g with nan := true, flags := nfOr g.flags (nfNan sb) }
  | _, _ =>
    let neg := a.isNeg != b.isNeg
    match mulExact a b with
    | (.nan _, _) => { g with nan := true, flags := nfOr g.flags nfNv }
    | (.inf n, _) => if n then { g with ninf := true, neg0 := false } else { g with pinf := true, neg0 := false }
    | (.fin _ _ _, _) =>
      let g1 := if !(a.isZero || b.isZero) || !neg then { g with neg0 := false } else g
      (passPairs aF32 bF32 passes a b).foldl (fun g pq =>
        match mulExact pq.1 pq.2 with
        | (.fin n m x, _) =>
          if m == 0 then g
          else if geScaled m (x + xs) (2 ^ 25 - 1) 103 then
            let g := { g with flags := nfOr g.flags nfOf }
            if n then { g with ninf := true } else { g with pinf := true }
          else { g with terms := { neg := n, m, x } :: g.terms }
        | _ => g) g1

/-- The exact sum of the truncated terms, and the weight they are truncated at (R180). -/
def truncSum (ts : List Term) : Int × Int :=
  match ts with
  | [] => (0, 0)
  | t :: _ =>
    let e := ts.foldl (fun e t => max e (log2Of t.m t.x)) (log2Of t.m t.x)
    let q := e - 36
    let sum := ts.foldl (fun (acc : Int) t =>
      let v : Nat := if q ≤ t.x then t.m * 2 ^ (t.x - q).toNat else t.m / 2 ^ (q - t.x).toNat
      if t.neg then acc - v else acc + v) 0
    (sum, q)

/-- The group sum of gathered terms (R180, R181, R183). -/
def groupEnd (xs : Int) (g : GroupAcc) : FVal × NumFlags :=
  if g.nan then (.nan false, g.flags)
  else if g.pinf && g.ninf then (.nan false, nfOr g.flags nfNv)
  else if g.pinf then (.inf false, g.flags)
  else if g.ninf then (.inf true, g.flags)
  else if g.terms.isEmpty then (.fin g.neg0 0 0, g.flags)
  else
    let (sum, q) := truncSum g.terms
    if sum == 0 then (.fin false 0 0, g.flags)
    else
      let (r, f) := roundF32 (decide (sum < 0)) sum.natAbs (q + xs)
      (r, nfOr g.flags f)

/-- One group of at most 32 factor pairs (R183); `short` when k reaches K inside the group, so that padding follows. -/
def groupSum (aF32 bF32 : Bool) (passes : Nat) (xs : Int) (ps : List (FVal × FVal)) : FVal × NumFlags :=
  let g0 : GroupAcc := { nan := false, pinf := false, ninf := false, neg0 := ps.length == 32, terms := [], flags := nf0 }
  groupEnd xs (ps.foldl (groupStep aF32 bF32 passes xs) g0)

/-- The group sums added into the accumulator in ascending order (R182); `none`: no start value, group 0 is taken. -/
def accumulate (start : Option FVal) (gs : List (FVal × NumFlags)) : FVal × NumFlags :=
  let f0 := match start with
    | some v => nanFlags v
    | none => nf0
  let r := gs.foldl (fun (acc : Option FVal × NumFlags) g =>
    match acc.1 with
    | none => (some g.1, nfOr acc.2 g.2)
    | some v =>
      let (w, f) := addF v g.1
      (some w, nfOr acc.2 (nfOr g.2 f))) (start, f0)
  match r.1 with
  | some (.nan _) => (.nan false, r.2)
  | some v => (v, r.2)
  | none => (.fin false 0 0, r.2)

/-- A list cut into runs of `n` (the last may be short); `fuel` bounds the runs. -/
def chunksOf {α : Type} (n : Nat) : Nat → List α → List (List α)
  | 0, _ => []
  | _ + 1, [] => []
  | fuel + 1, l => l.take n :: chunksOf n fuel (l.drop n)

/-- The runs of 32 of a list. -/
def runs32 {α : Type} (l : List α) : List (List α) := chunksOf 32 (l.length / 32 + 1) l

/-- A dot product (R183): factor pairs in ascending k, the scale exponent of each group, and the ACC input. -/
def dot (aF32 bF32 : Bool) (passes : Nat) (acc : Option FVal) (xs : List Int) (ps : List (FVal × FVal)) : FVal × NumFlags :=
  accumulate acc (((runs32 ps).zip xs).map fun gx => groupSum aF32 bF32 passes gx.2 gx.1)

/-- VRSUM of a row: each element stands as a term (R184). -/
def rowSum (vs : List FVal) : FVal × NumFlags :=
  let one : FVal := .fin false 1 0
  accumulate none ((runs32 vs).map fun g => groupSum false false 1 0 (g.map fun v => (v, one)))

/-! ### Block scales and MX elements (R206, R207) -/

/-- emax of an MX element format (R206). -/
def mxEmax (c : Nat) : Int :=
  match c with
  | 7 => 8
  | 8 => 15
  | 9 => 4
  | 10 => 2
  | 11 => 2
  | _ => 0

/-- The scale exponent of a block from its FP32 results (R206). -/
def mxExp (c : Nat) (vs : List FVal) : Int :=
  let ls := vs.filterMap fun v => match v with
    | .fin _ m x => if m == 0 then none else some (log2Of m x)
    | _ => none
  match ls with
  | [] => -127
  | l :: t => max (-127) (min 127 (t.foldl max l - mxEmax c))

/-- The grid spacing around a value with ⌊log2⌋ = l on an element grid continued upward (R207). -/
def mxGridExp (c : Nat) (l : Int) : Int :=
  match fmtFp c with
  | some f => gridExp f l
  | none => -6

/-- The extreme element magnitude of a sign, as a significand and exponent (R206, R207, R212). -/
def mxExt (c : Nat) (neg : Bool) : Nat × Int :=
  match c with
  | 5 => (if neg then 128 else 127, 0)
  | 6 => (if neg then 8 else 7, 0)
  | 12 => (if neg then 128 else 127, -6)
  | _ =>
    match fmtFp c with
    | some f =>
      match fpValue f (fpMax f) with
      | .fin _ m x => (m, x)
      | _ => (0, 0)
    | none => (0, 0)

/-- m * 2^x > n * 2^y. -/
def gtScaled (m : Nat) (x : Int) (n : Nat) (y : Int) : Bool := !geScaled n y m x

/-- The encoding of n * 2^q, a grid value of an element format, with its sign. -/
def elemEnc (c : Nat) (neg : Bool) (n : Nat) (q : Int) : Nat :=
  match fmtFp c with
  | some f => fpSign f neg + fpPack f n q
  | none =>
    let x : Int := if c == 12 then -6 else 0
    let v : Nat := if x ≤ q then n * 2 ^ (q - x).toNat else n / 2 ^ (x - q).toNat
    unsign (fmtBits c) (if neg then -(v : Int) else v)

/-- Stochastic choice (R212) on the grid of spacing 2^q around m * 2^x, or nearest-even: the grid count. `rnd` none: nearest. -/
def roundCount (m : Nat) (x q : Int) (rnd : Option Nat) : Nat :=
  match rnd with
  | none => rneAt m x q
  | some r =>
    if q ≤ x then m * 2 ^ (x - q).toNat
    else
      let k := (q - x).toNat
      let d := m / 2 ^ k
      let fr := m % 2 ^ k
      if fr == 0 then d else if r < fr * 2 ^ 32 / 2 ^ k then d + 1 else d

/-- A value times 2^k. -/
def FVal.scaled (k : Int) : FVal → FVal
  | .fin n m x => .fin n m (x + k)
  | v => v

/-- A stochastic rounding of a value to an element format draws a random word: the value is finite, not zero, not on the grid, and not beyond
the extreme value of its sign (R212). -/
def drawsWord (c : Nat) : FVal → Bool
  | .fin neg m x =>
    let e := mxExt c neg
    let q : Int := if c == 5 || c == 6 then 0 else mxGridExp c (log2Of m x)
    m != 0 && !gtScaled m x e.1 e.2 && decide (x < q) && m % 2 ^ (q - x).toNat != 0
  | _ => false

/-- An element written: encoding, CLIPPED, FLUSHED. -/
structure ElemOut where
  enc : Nat
  clipped : Bool
  flushed : Bool
  deriving DecidableEq, Repr

/-- An MX element of a block with scale exponent `sx` (R207, R212); `rnd` the random word of a stochastic rounding. -/
def mxElem (c : Nat) (sx : Int) (rnd : Option Nat) : FVal → ElemOut
  | .nan _ => ⟨0, false, false⟩
  | .inf neg => let (m, x) := mxExt c neg; ⟨elemEnc c neg m x, true, false⟩
  | .fin neg m x0 =>
    if m == 0 then ⟨(if c == 12 then 0 else elemEnc c neg 0 0), false, false⟩
    else
      let x := x0 - sx
      let (em, ex) := mxExt c neg
      let rnd := if gtScaled m x em ex then none else rnd
      let q := mxGridExp c (log2Of m x)
      let n := roundCount m x q rnd
      if gtScaled n q em ex then ⟨elemEnc c neg em ex, true, false⟩
      else if n == 0 then ⟨(if c == 12 then 0 else elemEnc c neg 0 0), false, true⟩
      else ⟨elemEnc c neg n q, false, false⟩

/-- Whether a block would clip a finite element under scale exponent `sx` with nearest rounding (R210's NOCLIP test). -/
def mxWouldClip (c : Nat) (sx : Int) (vs : List FVal) : Bool :=
  vs.any fun v => match v with
    | .fin _ m _ => m != 0 && (mxElem c sx none v).clipped
    | _ => false

/-- Whether a value is NaN. -/
def FVal.isNan : FVal → Bool
  | .nan _ => true
  | _ => false

/-- A block written: scale byte, elements; a block that holds a NaN gets scale 0xFF and zero elements (R194). -/
def mxBlock (c : Nat) (sx : Int) (vs : List (FVal × Option Nat)) : Nat × List ElemOut :=
  if vs.any (fun v => v.1.isNan) then (0xFF, vs.map fun _ => ⟨0, false, false⟩)
  else ((sx + 127).toNat, vs.map fun v => mxElem c sx v.2 v.1)

/-- An FP32 result written to a non-MX format (R192, R193): encoding, flags, CLIPPED, FLUSHED. -/
def outElem (c : Nat) (sat : Bool) (v : FVal) : Nat × NumFlags × Bool × Bool :=
  match fmtFp c with
  | some f =>
    let (e, fl, cl) := fpWrite f sat v
    let flushed := match v with
      | .fin _ m _ => m != 0 && e % 2 ^ (f.ebits + f.fbits) == 0
      | _ => false
    (e, fl, cl, flushed)
  | none => (0, nf0, false, false)

/-- VCVT to a non-MX target of an exact value (R211, R212): encoding, flags, CLIPPED, FLUSHED. -/
def cvtElem (c : Nat) (sat : Bool) (rnd : Option Nat) (v : FVal) : Nat × NumFlags × Bool × Bool :=
  match fmtFp c with
  | some f =>
    match v with
    | .fin neg m x =>
      let (em, ex) := mxExt c neg
      if m == 0 || rnd.isNone || gtScaled m x em ex then outElem c sat v
      else
        let q := gridExp f (log2Of m x)
        let n := roundCount m x q rnd
        (fpSign f neg + fpPack f n q, nf0, false, n == 0)
    | _ => outElem c sat v
  | none =>
    match v with
    | .nan _ => (0, nfNv, false, false)
    | .inf neg => let (m, x) := mxExt c neg; (elemEnc c neg m x, nf0, true, false)
    | .fin neg m x =>
      let (em, ex) := mxExt c neg
      let rnd := if gtScaled m x em ex then none else rnd
      let n := roundCount m x 0 rnd
      if gtScaled n 0 em ex then (elemEnc c neg em ex, nf0, true, false)
      else (elemEnc c neg n 0, nf0, false, m != 0 && n == 0)

end Sys2Proof.Machine
end

