-- ==== Sys2Proof/Machine/Transcend.lean ====
section
/-! DEFINITION. The correctly rounded functions of the vector unit (R143). Each is computed in fixed point with 400 fraction bits and a
sticky bit below them, which decides the one rounding to FP32 (log entry 20); exact cases are returned exactly. -/

namespace Sys2Proof.Machine

/-- Fraction bits of the working precision. -/
def fxBits : Nat := 400

/-- One in fixed point. -/
def fxOne : Nat := 2 ^ fxBits

/-- Product and quotient of fixed-point numbers, rounded down. -/
def fxMul (a b : Nat) : Nat := a * b / fxOne
def fxDiv (a b : Nat) : Nat := if b = 0 then 0 else a * fxOne / b

/-- sum over n from `k` of r^n / n!, given the term r^(k-1)/(k-1)!, for `fuel` terms. -/
def expTerms (r : Nat) : Nat → Nat → Nat → Nat
  | 0, _, _ => 0
  | fuel + 1, k, t =>
    let t' := fxMul t r / k
    t' + expTerms r fuel (k + 1) t'

/-- e^r for 0 ≤ r < 1 in fixed point. -/
def fxExp (r : Nat) : Nat := fxOne + expTerms r 100 1 fxOne

/-- sum of z^(2n+1)/(2n+1) from the power `p` = z^k on, k odd. -/
def atanhTerms (z2 : Nat) : Nat → Nat → Nat → Nat
  | 0, _, _ => 0
  | fuel + 1, k, p => p / k + atanhTerms z2 fuel (k + 2) (fxMul p z2)

/-- atanh z for z ≤ 1/3 in fixed point. -/
def fxAtanh (z : Nat) : Nat := atanhTerms (fxMul z z) 135 1 z

/-- ln 2 = 2 atanh (1/3). -/
def fxLn2 : Nat := 2 * fxAtanh (fxOne / 3)

/-- e^(-y) for y ≥ 0 given in fixed point, as a fixed-point number: y = n ln 2 + r, and e^(-y) = 2^-n / e^r. -/
def fxExpNeg (y : Nat) : Nat :=
  let n := y / fxLn2
  let r := y % fxLn2
  fxDiv fxOne (fxExp r) / 2 ^ n

/-- A magnitude m * 2^x in fixed point, rounded down. -/
def fxOf (m : Nat) (x : Int) : Nat :=
  let k := x + fxBits
  if 0 ≤ k then m * 2 ^ k.toNat else m / 2 ^ (-k).toNat

/-- A fixed-point approximation from below as an inexact value: a sticky bit below its last place. -/
def fxRound (neg : Bool) (v : Nat) : FVal × NumFlags := roundF32 neg (2 * v + 1) (-(fxBits : Int) - 1)

/-- e^a. -/
def expF : FVal → FVal × NumFlags
  | .nan _ => (.nan false, nf0)
  | .inf true => (.fin false 0 0, nf0)
  | .inf false => (.inf false, nf0)
  | .fin neg m x =>
    if m == 0 then (.fin false 1 0, nf0)
    else if 8 ≤ log2Of m x then
      (if neg then (.fin false 0 0, nf0) else (.inf false, nfOf))
    else
      let y := fxOf m x
      if neg then
        -- below one: a value rounded down to the last place, one place lower for the dropped part of y
        fxRound false (fxExpNeg y - 1)
      else
        let n := y / fxLn2
        roundF32 false (2 * fxExp (y % fxLn2) + 1) ((n : Int) - fxBits - 1)

/-- ln a. -/
def logF : FVal → FVal × NumFlags
  | .nan _ => (.nan false, nf0)
  | .inf true => (.nan false, nfNv)
  | .inf false => (.inf false, nf0)
  | .fin neg m x =>
    if m == 0 then (.inf true, nfOf)
    else if neg then (.nan false, nfNv)
    else
      let l := log2Of m x
      -- a = f * 2^l with 1 ≤ f < 2
      let f := fxOf m (x - l)
      if f == fxOne && l == 0 then (.fin false 0 0, nf0)
      else
        let lnf := 2 * fxAtanh (fxDiv (f - fxOne) (f + fxOne))
        let v : Int := l * (fxLn2 : Nat) + (lnf : Nat)
        fxRound (decide (v < 0)) (v.natAbs - if v < 0 then 1 else 0)

/-- 1/a. -/
def rcpF : FVal → FVal × NumFlags
  | .nan _ => (.nan false, nf0)
  | .inf n => (.fin n 0 0, nf0)
  | .fin neg m x =>
    if m == 0 then (.inf neg, nfOf)
    else
      let q := 2 ^ 120 / m
      let st := if 2 ^ 120 % m == 0 then 0 else 1
      roundF32 neg (2 * q + st) (-x - 121)

/-- The integer square root, by `fuel` bits from bit `fuel - 1` down. -/
def isqrtGo (n : Nat) : Nat → Nat → Nat
  | 0, r => r
  | k + 1, r =>
    let t := r + 2 ^ k
    if t * t ≤ n then isqrtGo n k t else isqrtGo n k r

/-- ⌊√n⌋ for n < 2^512. -/
def isqrt (n : Nat) : Nat := isqrtGo n 256 0

/-- 1/√a. -/
def rsqrtF : FVal → FVal × NumFlags
  | .nan _ => (.nan false, nf0)
  | .inf true => (.nan false, nfNv)
  | .inf false => (.fin false 0 0, nf0)
  | .fin neg m x =>
    if m == 0 then (.inf neg, nfOf)
    else if neg then (.nan false, nfNv)
    else
      -- a = m' * 4^h
      let (m', h) : Nat × Int := if x % 2 == 0 then (m, x / 2) else (2 * m, (x - 1) / 2)
      let y := isqrt (2 ^ 400 / m')
      let st := if y * y * m' == 2 ^ 400 then 0 else 1
      roundF32 false (2 * y + st) (-h - 201)

/-- tanh a; below 2^-13 the result rounds to a itself. -/
def tanhF : FVal → FVal × NumFlags
  | .nan _ => (.nan false, nf0)
  | .inf n => (.fin n 1 0, nf0)
  | .fin neg m x =>
    if m == 0 then (.fin neg 0 0, nf0)
    else
      let l := log2Of m x
      if l < -13 then roundF32 neg m x
      else if 7 ≤ l then (.fin neg 1 0, nf0)
      else
        let t := fxExpNeg (2 * fxOf m x)
        fxRound neg (fxDiv (fxOne - t) (fxOne + t) - 1)

/-- 1/(1 + e^-a). -/
def sigmF : FVal → FVal × NumFlags
  | .nan _ => (.nan false, nf0)
  | .inf true => (.fin false 0 0, nf0)
  | .inf false => (.fin false 1 0, nf0)
  | .fin neg m x =>
    if m == 0 then (.fin false 1 (-1), nf0)
    else if 8 ≤ log2Of m x then (.fin false (if neg then 0 else 1) 0, nf0)
    else
      let t := fxExpNeg (fxOf m x)
      -- t = e^-|a|; for a < 0 the value is t / (1 + t), else 1 / (1 + t)
      if neg then fxRound false (fxDiv t (fxOne + t) - 1) else fxRound false (fxDiv fxOne (fxOne + t) - 1)

end Sys2Proof.Machine
end

