-- ==== Sys2Proof/Machine/Vector.lean ====
section
/-! DEFINITION. The vector unit (R143-R146), VCVT (R209-R213) and THY_FILL (R228, R229). Inputs are read before the output is
written (log entry 16). -/

namespace Sys2Proof.Machine

/-! ### Fields and faults -/

def vSrcA (w : List Byte) : Nat := fld w 0x08 4
def vSrcB (w : List Byte) : Nat := fld w 0x0C 4
def vDst (w : List Byte) : Nat := fld w 0x10 4
def vCount (w : List Byte) : Nat := fld w 0x14 4
def vFmtIn (w : List Byte) : Nat := bits (fld w 0x18 1) 3 0
def vFmtOut (w : List Byte) : Nat := bits (fld w 0x18 1) 7 4
def vBimm (w : List Byte) : Bool := bitAt (fld w 0x19 1) 0
def vSat (w : List Byte) : Bool := bitAt (fld w 0x19 1) 1
def vRowLen (w : List Byte) : Nat := fld w 0x1A 2 + 1

def isVcvt (w : List Byte) : Bool := wOp w == 0x72
/-- Opcodes with a second source: VADD, VSUB, VMUL, VFMA, VMAX, VMIN. -/
def vBinary (w : List Byte) : Bool := 0x60 ≤ wOp w && wOp w ≤ 0x65
def vReduce (w : List Byte) : Bool := wOp w == 0x70 || wOp w == 0x71

/-- VCVT to an MX target writes a scale stream at SRC_B (R210). -/
def vMx (w : List Byte) : Bool := isVcvt w && fmtMx (vFmtOut w)
def vRnd (w : List Byte) : Nat := bits (fld w 0x1C 1) 1 0
def vBlockAxis (w : List Byte) : Bool := bitAt (fld w 0x1C 1) 2
def vNoClip (w : List Byte) : Bool := bitAt (fld w 0x1C 1) 3
def vStream (w : List Byte) : Nat := fld w 0x1D 1
def vIdxBase (w : List Byte) : Nat := fld w 0x1E 2

/-- Reserved bits and ranges of a vector word (R127, R144, R210). -/
def vecReserved (w : List Byte) : Bool :=
  headerReserved w || 0x08000000 ≤ vSrcA w || 0x08000000 ≤ vDst w || (!vBimm w && 0x08000000 ≤ vSrcB w) ||
    2 < vFmtIn w || bits (fld w 0x19 1) 7 2 != 0 || 2 ^ 24 < vCount w ||
    (if isVcvt w then
      13 ≤ vFmtOut w || 2 ≤ vRnd w || bits (fld w 0x1C 1) 7 4 != 0 || (vBimm w == fmtMx (vFmtOut w))
     else 2 < vFmtOut w || fld w 0x1C 4 != 0)

/-- Elements a command writes. -/
def vOutCount (w : List Byte) : Nat := if vReduce w then vCount w / vRowLen w else vCount w

/-- Bytes written at DST. -/
def vOutBytes (w : List Byte) : Nat := (vOutCount w * fmtBits (vFmtOut w) + 7) / 8

/-- The rows and blocks of an MX target (R210): blocks in the order of the scale stream. -/
def vMxRows (w : List Byte) : Nat := vCount w / vRowLen w
def vScaleLen (w : List Byte) : Nat :=
  if vBlockAxis w then (vMxRows w + 31) / 32 * vRowLen w else vMxRows w * ((vRowLen w + 31) / 32)

/-- The view ranges a command reads, and those it writes. -/
def vecReads (w : List Byte) : List (Nat × Nat) :=
  [(vSrcA w, vCount w * (fmtBits (vFmtIn w) / 8))]
    ++ (if vBinary w && !vBimm w then [(vSrcB w, vCount w * (fmtBits (vFmtIn w) / 8))] else [])
    ++ (if wOp w == 0x63 then [(vDst w, vOutBytes w)] else [])
def vecWrites (w : List Byte) : List (Nat × Nat) :=
  [(vDst w, vOutBytes w)] ++ (if vMx w then [(vSrcB w, vScaleLen w)] else [])

/-- Element size in bytes that an address is aligned to; packed sub-byte strings start at a byte. -/
def elemAlign (c : Nat) : Nat := max 1 (fmtBits c / 8)

/-- The lowest fault code of a vector command (R133, log entry 15). -/
def vecFault (s : State) (c i : Nat) (w : List Byte) : Option Nat :=
  if vecReserved w then some 0x02
  else if vSrcA w % elemAlign (vFmtIn w) != 0 || vDst w % elemAlign (vFmtOut w) != 0 ||
      (vBinary w && !vBimm w && vSrcB w % elemAlign (vFmtIn w) != 0) then some 0x03
  else if (vecReads w ++ vecWrites w).any fun r => (viewRange s c i r.1 r.2).isNone then some 0x05
  else if vCount w == 0 || ((vReduce w || vMx w) && vCount w % vRowLen w != 0) then some 0x08
  else none

/-- The bytes of a view range that translates. -/
def viewRead (s : State) (c i va n : Nat) : List Byte := readPieces s.mem ((viewRange s c i va n).getD [])

/-- Bytes written at a view range that translates. -/
def viewWrite (s : State) (c i va : Nat) (bs : List Byte) : State :=
  storeWritePieces s ((viewRange s c i va bs.length).getD []) bs

/-- A poisoned byte in one of the view ranges read. -/
def viewPoison (s : State) (c i : Nat) (rs : List (Nat × Nat)) : Option Nat :=
  (rs.flatMap fun r => (viewRange s c i r.1 r.2).getD []).findSome? fun x => if poisoned s x.1 x.2 then some x.1 else none

/-- A segment one of the view ranges lies in is still being cleared (R126). -/
def viewClearing (s : State) (c i : Nat) (rs : List (Nat × Nat)) : Bool :=
  !(cluster s c).clearing.isEmpty && clearingAt s (rs.flatMap fun r => (viewRange s c i r.1 r.2).getD [])

/-- The values of `n` packed elements of a floating-point or integer format. -/
def elemValues (fmt n : Nat) (bs : List Byte) : List FVal :=
  (chunksOf (fmtBits fmt / 8) (n + 1) bs).take n |>.map fun e => fmtValue fmt (leNat e)

/-! ### Results -/

/-- A unary or binary operation on FP32 values (R143, R145), with its flags; NaN inputs are flagged here. -/
def vecOp (op : Nat) (a b d : FVal) : FVal × NumFlags :=
  let fa := nanFlags a
  let fab := nfOr fa (nanFlags b)
  match op with
  | 0x60 => let (r, f) := addF a b; (r, nfOr f fab)
  | 0x61 => let (r, f) := addF a b.negate; (r, nfOr f fab)
  | 0x62 => let (r, f) := mulF a b; (r, nfOr f fab)
  | 0x63 => let (r, f) := fmaF a b d; (r, nfOr f (nfOr fab (nanFlags d)))
  | 0x64 => (maxF a b, fab)
  | 0x65 => (minF a b, fab)
  | 0x68 => let (r, f) := expF a; (r, nfOr f fa)
  | 0x69 => let (r, f) := logF a; (r, nfOr f fa)
  | 0x6A => let (r, f) := rcpF a; (r, nfOr f fa)
  | 0x6B => let (r, f) := rsqrtF a; (r, nfOr f fa)
  | 0x6C => let (r, f) := tanhF a; (r, nfOr f fa)
  | _ => let (r, f) := sigmF a; (r, nfOr f fa)

/-- A row reduced: VRSUM by R184, VRMAX by R143. -/
def vecRow (op : Nat) (vs : List FVal) : FVal × NumFlags :=
  if op == 0x70 then rowSum vs
  else
    let f := vs.foldl (fun f v => nfOr f (nanFlags v)) nf0
    match vs with
    | [] => (.fin false 0 0, f)
    | v :: t => (match t.foldl maxF v with
      | .nan _ => .nan false
      | r => r, f)

/-- Zip of three lists by an operation. -/
def zip3With (f : FVal → FVal → FVal → FVal × NumFlags) : List FVal → List FVal → List FVal → List (FVal × NumFlags)
  | a :: as, b :: bs, d :: ds => f a b d :: zip3With f as bs ds
  | _, _, _ => []

/-- The FP32 results of a command other than VCVT. -/
def vecResults (s : State) (c i : Nat) (w : List Byte) : List (FVal × NumFlags) :=
  let n := vCount w
  let zero : FVal := .fin false 0 0
  let as := elemValues (vFmtIn w) n (viewRead s c i (vSrcA w) (n * (fmtBits (vFmtIn w) / 8)))
  if vReduce w then (chunksOf (vRowLen w) (n + 1) as).map (vecRow (wOp w))
  else
    let bs := if !vBinary w then List.replicate n zero
      else if vBimm w then List.replicate n (fpValue fpFP32 (vSrcB w))
      else elemValues (vFmtIn w) n (viewRead s c i (vSrcB w) (n * (fmtBits (vFmtIn w) / 8)))
    let ds := if wOp w == 0x63 then elemValues (vFmtOut w) n (viewRead s c i (vDst w) (vOutBytes w))
      else List.replicate n zero
    zip3With (vecOp (wOp w)) as bs ds

/-- The results written in the output format (R143): bytes and flags. -/
def vecBytes (w : List Byte) (rs : List (FVal × NumFlags)) : List Byte × NumFlags :=
  let es := rs.map fun r =>
    let (e, f, _, _) := outElem (vFmtOut w) (vSat w) r.1
    (e, nfOr f r.2)
  (packElems (fmtBits (vFmtOut w)) (es.map (·.1)), es.foldl (fun f e => nfOr f e.2) nf0)

/-! ### VCVT (R210-R212) -/

/-- The random word of element `i`, with stochastic rounding (R212, R213). -/
def vcvtWord (seed : Dword) (w : List Byte) (i : Nat) : Option Nat :=
  if vRnd w == 1 then
    some (thyme32 seed (BitVec.ofNat 32 (vStream w)) (BitVec.ofNat 64 (vIdxBase w * 65536 + i))).toNat
  else none

/-- A list with each element's index. -/
def withIx {α : Type} (k : Nat) : List α → List (Nat × α)
  | [] => []
  | x :: t => (k, x) :: withIx (k + 1) t

/-- What a VCVT produces: element codes in index order, scale bytes in stream order, flags, and the counts CLIPPED, FLUSHED, blocks of
scale 0xFF, blocks raised by NOCLIP, and elements a stochastic rounding draws a word for (R212). -/
structure CvtOut where
  elems : List Nat
  scales : List Nat
  flags : NumFlags
  clipped : Nat
  flushed : Nat
  mxNan : Nat
  raised : Nat
  drawn : Nat
  deriving DecidableEq, Repr

/-- VCVT to a non-MX target: v = a × m exactly, then R211. -/
def cvtPlain (seed : Dword) (w : List Byte) (as : List FVal) : CvtOut :=
  let m := fpValue fpFP32 (vSrcB w)
  let es := (withIx 0 as).map fun x =>
    let (v, f) := mulExact x.2 m
    let (e, g, cl, fl) := cvtElem (vFmtOut w) (vSat w) (vcvtWord seed w x.1) v
    (e, nfOr f (nfOr g (nfOr (nanFlags x.2) (nanFlags m))), cl, fl, drawsWord (vFmtOut w) v)
  { elems := es.map (·.1), scales := [], flags := es.foldl (fun f e => nfOr f e.2.1) nf0
    clipped := (es.filter (·.2.2.1)).length, flushed := (es.filter (·.2.2.2.1)).length, mxNan := 0, raised := 0
    drawn := (es.filter (·.2.2.2.2)).length }

/-- One MX block converted: its members with their indices (R206, R207, R210). -/
def cvtBlock (seed : Dword) (w : List Byte) (b : List (Nat × FVal)) : Nat × List (Nat × ElemOut) × Bool × Nat :=
  let c := vFmtOut w
  let vs := b.map (·.2)
  let x0 := mxExp c vs
  let nan := vs.any (·.isNan)
  let raise := vNoClip w && !nan && decide (x0 < 127) && mxWouldClip c x0 vs
  let sx := if raise then x0 + 1 else x0
  let (sc, es) := mxBlock c sx (b.map fun x => (x.2, vcvtWord seed w x.1))
  (sc, (b.map (·.1)).zip es, raise, if nan then 0 else (vs.filter fun v => drawsWord c (v.scaled (-sx))).length)

/-- Columns of a list of rows, as lists. -/
def columns {α : Type} (n : Nat) (rows : List (List α)) : List (List α) :=
  (List.range n).map fun k => rows.filterMap fun r => r[k]?

/-- The blocks of an MX target in the order of the scale stream (R199, R200, R210). -/
def cvtBlocks (w : List Byte) (as : List (Nat × FVal)) : List (List (Nat × FVal)) :=
  let rows := chunksOf (vRowLen w) (as.length + 1) as
  if vBlockAxis w then (runs32 rows).flatMap fun g => columns (vRowLen w) g
  else rows.flatMap runs32

/-- Elements in index order. -/
def orderElems (n : Nat) (l : List (Nat × ElemOut)) : List ElemOut :=
  let t := l.foldl (fun (t : Tbl ElemOut) x => tput t x.1 x.2) []
  (List.range n).map fun k => tget ⟨0, false, false⟩ t k

/-- VCVT to an MX target (R210). -/
def cvtMx (seed : Dword) (w : List Byte) (as : List FVal) : CvtOut :=
  let bs := (cvtBlocks w (withIx 0 as)).map (cvtBlock seed w)
  let es := orderElems as.length (bs.flatMap (·.2.1))
  { elems := es.map (·.enc), scales := bs.map (·.1), flags := as.foldl (fun f v => nfOr f (nanFlags v)) nf0
    clipped := (es.filter (·.clipped)).length, flushed := (es.filter (·.flushed)).length
    mxNan := (bs.filter (·.1 == 0xFF)).length, raised := (bs.filter (·.2.2.1)).length
    drawn := natSum (bs.map (·.2.2.2)) }

/-- The Thyme seed of a slot's context (R222). -/
def ctxSeed (s : State) (c i : Nat) : Dword := ((slotJob s c i).map (·.seed)).getD 0

/-! ### The rows -/

/-- Flags ORed into NUM_FLAGS of a slot when a command ends (R187). -/
def orFlags (s : State) (c i : Nat) (f : NumFlags) : State := updSlot s c i fun sl => { sl with flags := nfOr sl.flags f }

/-- The vector queue's head runs, if its opcode is the row's, the context is RUNNING, its wait is met, the command before it has
finished, and the unit takes this slot's command next (R129, R244). -/
def vecRow1 (c : Clu) (i : SlotIx) (op : Nat) (f : QCmd → State → State) (s : State) : Res :=
  match vecHead s c.val i.val with
  | none => .next s
  | some q => if wOp q.word == op && vecTurn s c.val == some i.val then .next (f q s) else .next s

/-- The head of the vector queue leaves it, and waits for COMMAND_FINISH with its flags. -/
def vecPop (s : State) (c : Clu) (i : SlotIx) (q : QCmd) (f : NumFlags) : State :=
  let s := updClu s c.val fun x => { x with vecLast := i }
  toFin (updSlot s c.val i.val fun sl => { sl with vecQ := sl.vecQ.tail }) c.val i.val .vec q f

/-- A command is checked, its inputs' poison looked at, and `f` performs it, unless a segment it uses is still being cleared (R126). -/
def runVec (c : Clu) (i : SlotIx) (f : QCmd → State → State × NumFlags) (q : QCmd) (s : State) : State :=
  match vecFault s c.val i.val q.word with
  | some code => contextFault s c.val i.val code q.pos 0
  | none =>
    if viewClearing s c.val i.val (vecReads q.word ++ vecWrites q.word) then s
    else
      match viewPoison s c.val i.val (vecReads q.word) with
      | some a => mediaFault s c.val i.val q.pos a
      | none => let r := f q s; vecPop r.1 c i q r.2

/-- An operation or reduction with FP32 results (R143-R145). -/
def vecPlain (c : Clu) (i : SlotIx) (q : QCmd) (s : State) : State × NumFlags :=
  let (bs, f) := vecBytes q.word (vecResults s c.val i.val q.word)
  (viewWrite s c.val i.val (vDst q.word) bs, f)

def execVadd (c : Clu) (i : SlotIx) (s : State) : Res := vecRow1 c i 0x60 (runVec c i (vecPlain c i)) s
def execVsub (c : Clu) (i : SlotIx) (s : State) : Res := vecRow1 c i 0x61 (runVec c i (vecPlain c i)) s
def execVmul (c : Clu) (i : SlotIx) (s : State) : Res := vecRow1 c i 0x62 (runVec c i (vecPlain c i)) s
def execVfma (c : Clu) (i : SlotIx) (s : State) : Res := vecRow1 c i 0x63 (runVec c i (vecPlain c i)) s
def execVmax (c : Clu) (i : SlotIx) (s : State) : Res := vecRow1 c i 0x64 (runVec c i (vecPlain c i)) s
def execVmin (c : Clu) (i : SlotIx) (s : State) : Res := vecRow1 c i 0x65 (runVec c i (vecPlain c i)) s
def execVexp (c : Clu) (i : SlotIx) (s : State) : Res := vecRow1 c i 0x68 (runVec c i (vecPlain c i)) s
def execVlog (c : Clu) (i : SlotIx) (s : State) : Res := vecRow1 c i 0x69 (runVec c i (vecPlain c i)) s
def execVrcp (c : Clu) (i : SlotIx) (s : State) : Res := vecRow1 c i 0x6A (runVec c i (vecPlain c i)) s
def execVrsqrt (c : Clu) (i : SlotIx) (s : State) : Res := vecRow1 c i 0x6B (runVec c i (vecPlain c i)) s
def execVtanh (c : Clu) (i : SlotIx) (s : State) : Res := vecRow1 c i 0x6C (runVec c i (vecPlain c i)) s
def execVsigm (c : Clu) (i : SlotIx) (s : State) : Res := vecRow1 c i 0x6D (runVec c i (vecPlain c i)) s
def execVrsum (c : Clu) (i : SlotIx) (s : State) : Res := vecRow1 c i 0x70 (runVec c i (vecPlain c i)) s
def execVrmax (c : Clu) (i : SlotIx) (s : State) : Res := vecRow1 c i 0x71 (runVec c i (vecPlain c i)) s

/-- VCVT: elements, scale stream, flags and counts (R210, R211, R218). -/
def vecCvt (c : Clu) (i : SlotIx) (q : QCmd) (s : State) : State × NumFlags :=
  let w := q.word
  let n := vCount w
  let as := elemValues (vFmtIn w) n (viewRead s c.val i.val (vSrcA w) (n * (fmtBits (vFmtIn w) / 8)))
  let seed := ctxSeed s c.val i.val
  let o := if vMx w then cvtMx seed w as else cvtPlain seed w as
  let s := viewWrite s c.val i.val (vDst w) (packElems (fmtBits (vFmtOut w)) o.elems)
  let s := if vMx w then viewWrite s c.val i.val (vSrcB w) (o.scales.map (BitVec.ofNat 8 ·)) else s
  let s := updSlot s c.val i.val fun sl =>
    { sl with vclip := satAdd sl.vclip o.clipped, vflush := satAdd sl.vflush o.flushed }
  (updClu s c.val fun x =>
    { x with mxNan := satAdd x.mxNan o.mxNan, mxRaised := satAdd x.mxRaised o.raised
             thyWords := x.thyWords + (if vRnd w == 1 then BitVec.ofNat 64 o.drawn else 0) }, o.flags)

def execVcvt (c : Clu) (i : SlotIx) (s : State) : Res := vecRow1 c i 0x72 (runVec c i (vecCvt c i)) s

/-! ### THY_FILL -/

def tfCount (w : List Byte) : Nat := fld w 0x0C 4
def tfKind (w : List Byte) : Nat := bits (fld w 0x1A 1) 1 0
def tfThr (w : List Byte) : Nat := fld w 0x1C 4
def tfBytes (w : List Byte) : Nat :=
  match tfKind w with
  | 1 => (tfCount w + 7) / 8
  | 2 => tfCount w * 2
  | _ => tfCount w * 4

/-- The fault of a THY_FILL, in the order of the table of R229, its header's reserved fields among the rest. -/
def tfFault (s : State) (c i : Nat) (w : List Byte) : Option Nat :=
  let dst := fld w 8 4
  if dst % 64 != 0 then some 0x03
  else if tfCount w == 0 || 2 ^ 24 < tfCount w then some 0x08
  else if headerReserved w || 0x08000000 ≤ dst || bits (fld w 0x1A 1) 7 2 != 0 || fld w 0x1B 1 != 0 ||
      ((tfKind w == 0 || tfKind w == 3) && tfThr w != 0) || 0xFF000000 ≤ fld w 0x10 4 then some 0x02
  else if (viewRange s c i dst (tfBytes w)).isNone then some 0x05
  else none

/-- Element `i` of a THY_FILL (R226-R228). -/
def tfElem (seed : Dword) (w : List Byte) (i : Nat) : Nat :=
  let r := (thyme32 seed (BitVec.ofNat 32 (fld w 0x10 4)) (BitVec.ofNat 64 (fld w 0x14 6 * 65536 + i))).toNat
  let mask := decide (r < tfThr w)
  match tfKind w with
  | 0 => r
  | 1 => bnat mask
  | 2 => if mask then 0x3F80 else 0
  | _ => (fpRound fpFP32 (r / 256) (-24)).1

/-- The filled string (R228). -/
def tfString (seed : Dword) (w : List Byte) : List Byte :=
  let es := (List.range (tfCount w)).map (tfElem seed w)
  match tfKind w with
  | 1 => packBits 1 es
  | 2 => packElems 16 es
  | _ => packElems 32 es

def execThyFill (c : Clu) (i : SlotIx) (s : State) : Res :=
  vecRow1 c i 0x9F (fun q s =>
    match tfFault s c.val i.val q.word with
    | some code => contextFault s c.val i.val code q.pos 0
    | none =>
      if viewClearing s c.val i.val [(fld q.word 8 4, tfBytes q.word)] then s
      else
        let s := viewWrite s c.val i.val (fld q.word 8 4) (tfString (ctxSeed s c.val i.val) q.word)
        let s := updClu s c.val fun x => { x with thyWords := x.thyWords + BitVec.ofNat 64 (tfCount q.word) }
        vecPop s c i q nf0) s

end Sys2Proof.Machine
end

