-- ==== Sys2Proof/Machine/Arrays.lean ====
section
/-! DEFINITION. Array commands (R148-R166, R172-R208): ARR_LAYOUT and ARR_MM, with their checks, held tiles, arithmetic, scale streams,
codebooks and statistics. -/

namespace Sys2Proof.Machine

/-! ### Fields of ARR_MM (R160) -/

/-- The fields of an ARR_MM word. -/
structure MmCmd where
  mode : Nat
  shape : Nat
  trans : Bool
  acc : Bool
  sat : Bool
  reuse : Bool
  statsEn : Bool
  passes : Nat
  fa : Nat
  fb : Nat
  fy : Nat
  aAddr : Nat
  bAddr : Nat
  yAddr : Nat
  m : Nat
  n : Nat
  k : Nat
  deriving DecidableEq, Repr

def mmFields (w : List Byte) : MmCmd :=
  let sel := fld w 8 1
  let mf := fld w 9 1
  { mode := bits sel 3 2, shape := bits sel 5 4, trans := bitAt sel 6, acc := bitAt mf 0, sat := bitAt mf 1
    reuse := bitAt mf 2, statsEn := bitAt mf 3, passes := bits mf 5 4, fa := bits (fld w 0xA 1) 3 0
    fb := bits (fld w 0xA 1) 7 4, fy := bits (fld w 0xB 1) 3 0, aAddr := fld w 0xC 3, bAddr := fld w 0xF 3
    yAddr := fld w 0x12 3, m := fld w 0x16 2 + 1, n := fld w 0x18 2 + 1, k := fld w 0x1A 2 + 1 }

/-- The logical array a word names. -/
def wArr (w : List Byte) : Nat := bits (fld w 8 1) 1 0

/-- Reserved bits of ARR_MM and ARR_LAYOUT (R127, R159, R160). -/
def mmReserved (w : List Byte) : Bool :=
  headerReserved w || bitAt (fld w 8 1) 7 || bits (fld w 9 1) 7 6 != 0 || bits (fld w 0xB 1) 7 4 != 0 ||
    2 ^ 21 ≤ fld w 0xC 3 || 2 ^ 21 ≤ fld w 0xF 3 || 2 ^ 21 ≤ fld w 0x12 3 || fld w 0x15 1 != 0 || fld w 0x1C 4 != 0
def layoutReserved (w : List Byte) : Bool :=
  headerReserved w || bits (fld w 8 1) 7 2 != 0 || fld w 9 1 != 0 || fld w 0x1F 1 != 0 ||
    [0x10, 0x13, 0x16, 0x19, 0x1C].any fun o => decide (2 ^ 21 ≤ fld w o 3)

/-- The logical array is absent on the cluster, or FAILED (R161, R166). -/
def arrUnusable (s : State) (c k : Nat) : Bool := !arrPresent s c k || (arr s c k).failed

/-- An operand is FP32. -/
def anyF32 (d : MmCmd) : Bool := d.fa == 0 || d.fb == 0

/-- Twice φ of the command's rate class, the wider of its operands' (R148, R149). -/
def mmPhi2 (d : MmCmd) : Nat := min (fmtPhi2 d.fa) (fmtPhi2 d.fb)

/-- Grid rows and columns of a shape (R150). -/
def gridR (sh : Nat) : Nat := if sh = 0 then 128 else if sh = 1 then 32 else 16
def gridC (sh : Nat) : Nat := if sh = 0 then 128 else if sh = 1 then 512 else 1024

/-- The first-stage fault of an ARR_MM: the lowest of RESERVED, ARRAY, MODE and FORMAT (R161). -/
def mmStage1 (s : State) (c : Nat) (w : List Byte) : Option Nat :=
  let d := mmFields w
  if mmReserved w then some 0x02
  else if arrUnusable s c (wArr w) then some 0x10
  else if d.mode == 3 || d.shape == 3 || (d.trans && d.mode == 2) || d.passes == 0 then some 0x11
  else if d.fa == 15 || d.fb == 15 || !fmtY d.fy || (1 < d.passes && !anyF32 d) || (d.acc && d.fy != 0) ||
      (fmtCb d.fa && fmtCb d.fb) then some 0x14
  else none

/-! ### Stored orientations (R153) -/

/-- A stored operand: view address, row stride and count of rows, elements per row, format. -/
structure Stored where
  base : Nat
  stride : Nat
  rows : Nat
  cols : Nat
  fmt : Nat
  deriving DecidableEq, Repr

/-- A (or Aᵀ), B (or Bᵀ) and Y (or Yᵀ) as stored. -/
def storedA (d : MmCmd) (l : Layout) : Stored :=
  let byM := d.mode == 0 || (d.mode == 1 && d.trans)
  { base := d.aAddr * 64, stride := l.aStride * 64, rows := if byM then d.m else d.k, cols := if byM then d.k else d.m, fmt := d.fa }
def storedB (d : MmCmd) (l : Layout) : Stored :=
  let byK := (d.mode == 0 && !d.trans) || d.mode == 2
  { base := d.bAddr * 64, stride := l.bStride * 64, rows := if byK then d.k else d.n, cols := if byK then d.n else d.k, fmt := d.fb }
def storedY (d : MmCmd) (l : Layout) : Stored :=
  let tr := d.mode == 1
  { base := d.yAddr * 64, stride := l.yStride * 64, rows := if tr then d.n else d.m, cols := if tr then d.m else d.n, fmt := d.fy }

/-- k runs along stored rows of A; of B. -/
def aAlongRows (d : MmCmd) : Bool := d.mode == 0 || (d.mode == 1 && d.trans)
def bAlongRows (d : MmCmd) : Bool := !((d.mode == 0 && !d.trans) || d.mode == 2)

/-- Bytes of a stored row (R173). -/
def rowBytes (x : Stored) : Nat := (x.cols * fmtBits x.fmt + 7) / 8

/-- Length of an operand's scale stream: one byte per block of 32 along k (R199); of an output's (R200). -/
def inScaleLen (i k : Nat) : Nat := i * ((k + 31) / 32)
def outScaleLen (y : Stored) : Nat := y.rows * ((y.cols + 31) / 32)

/-- Length of the codebook tables of k values (R204). -/
def cbLen (fmt k : Nat) : Nat := k * (if fmt == 13 then 32 else 512)

/-- The view ranges, one per stored row. -/
def rowRanges (x : Stored) : List (Nat × Nat) := (List.range x.rows).map fun i => (x.base + i * x.stride, rowBytes x)

/-- The view ranges beside an operand's rows: its scale stream and codebook tables. -/
def sideRanges (fmt scale cb i k : Nat) : List (Nat × Nat) :=
  (if fmtMx fmt then [(scale * 64, inScaleLen i k)] else []) ++ (if fmtCb fmt then [(cb * 64, cbLen fmt k)] else [])

/-- An operand's scale stream and each of its codebook tables, each of which lies within one view segment (R202). -/
def segmentUnits (fmt scale cb i k : Nat) : List (Nat × Nat) :=
  (if fmtMx fmt then [(scale * 64, inScaleLen i k)] else []) ++
    (if fmtCb fmt then (List.range k).map fun j => (cb * 64 + j * cbLen fmt 1, cbLen fmt 1) else [])

/-- Ranges of A, of B, of Y's rows, of Y's scale stream, of the statistics record. -/
def aRanges (d : MmCmd) (l : Layout) : List (Nat × Nat) := rowRanges (storedA d l) ++ sideRanges d.fa l.aScale l.cbTable d.m d.k
def bRanges (d : MmCmd) (l : Layout) : List (Nat × Nat) := rowRanges (storedB d l) ++ sideRanges d.fb l.bScale l.cbTable d.n d.k
def yScaleRange (d : MmCmd) (l : Layout) : List (Nat × Nat) :=
  if fmtMx d.fy then [(l.yScale * 64, outScaleLen (storedY d l))] else []
def yRanges (d : MmCmd) (l : Layout) : List (Nat × Nat) := rowRanges (storedY d l) ++ yScaleRange d l
def statsRange (d : MmCmd) (l : Layout) : List (Nat × Nat) := if d.statsEn then [(l.stats * 64, 1088)] else []

/-! ### The held tile (R162) -/

/-- The held operand's stored form, scale stream and codebook, in MODE 0 and 1. -/
def heldStored (d : MmCmd) (l : Layout) : Stored := if d.mode == 0 then storedB d l else storedA d l
def heldRanges (d : MmCmd) (l : Layout) : List (Nat × Nat) := if d.mode == 0 then bRanges d l else aRanges d l
def streamRanges (d : MmCmd) (l : Layout) : List (Nat × Nat) :=
  if d.mode == 0 then aRanges d l else if d.mode == 1 then bRanges d l else aRanges d l ++ bRanges d l
def heldScale (d : MmCmd) (l : Layout) : Option Nat :=
  let f := (heldStored d l).fmt
  if fmtMx f then some (if d.mode == 0 then l.bScale else l.aScale) else none
def heldCb (d : MmCmd) (l : Layout) : Option Nat := if fmtCb (heldStored d l).fmt then some l.cbTable else none

/-- The physical ranges the write guard covers: the tile's span, its scale stream and codebook rows (R162, R203). Where the span goes on past
the last view segment, what lies in the view is covered. -/
def guardRanges (s : State) (c i : Nat) (d : MmCmd) (l : Layout) : List (Nat × Nat) :=
  let x := heldStored d l
  let side := if d.mode == 0 then sideRanges d.fb l.bScale l.cbTable d.n d.k else sideRanges d.fa l.aScale l.cbTable d.m d.k
  let rows := side.map fun r => (r.1 / 64 * 64, (r.1 + r.2 + 63) / 64 * 64 - r.1 / 64 * 64)
  ((x.base, x.rows * x.stride) :: rows).flatMap fun r => viewCover s c i 9 r.1 r.2

/-- The held tile of a command. -/
def heldOf (s : State) (c i : Nat) (d : MmCmd) (l : Layout) : Held :=
  let x := heldStored d l
  { slot := i, addr := x.base, stride := x.stride, fmt := x.fmt, rows := x.rows, cols := x.cols, scale := heldScale d l
    cb := heldCb d l, guard := guardRanges s c i d l }

/-- The tile is used without reloading (R162): same identity, slot and shape, and its guard has not fired. -/
def mayReuse (a : Arr) (i : Nat) (d : MmCmd) (l : Layout) : Bool :=
  d.mode != 2 && d.reuse && a.shape == d.shape &&
    match a.held with
    | none => false
    | some h =>
      let x := heldStored d l
      h.slot == i && h.addr == x.base && h.stride == x.stride && h.fmt == x.fmt && h.rows == x.rows && h.cols == x.cols
        && h.scale == heldScale d l && h.cb == heldCb d l

/-! ### The tile bound (R163) -/

/-- The store rows of view ranges, as view addresses. -/
def storeRowsOf (rs : List (Nat × Nat)) : List Nat :=
  rs.flatMap fun r => if r.2 = 0 then [] else (List.range ((r.1 + r.2 - 1) / 64 + 1 - r.1 / 64)).map fun j => (r.1 / 64 + j) * 64

/-- The largest, over physical segments, of ⌈rows / 8⌉. -/
def segTerm (s : State) (c i : Nat) (rows : List Nat) : Nat :=
  natMax ((List.range 7).map fun g =>
    ceilDiv (rows.filter fun va => xlatSeg s c i (bits va 26 24) == g).length 8)

/-- T of a command (R163), given whether the held tile is loaded. -/
def mmTime (s : State) (c i : Nat) (d : MmCmd) (l : Layout) (load : Bool) : Nat :=
  let h := if d.mode == 2 || !load then 0 else segTerm s c i (storeRowsOf (heldRanges d l))
  let compute := if d.mode == 0 then d.m * d.passes else if d.mode == 1 then d.n * d.passes
    else ceilDiv (2 * d.k) (mmPhi2 d) * d.passes
  let rows := storeRowsOf (streamRanges d l) ++ storeRowsOf (yRanges d l)
    ++ (if d.acc then storeRowsOf (rowRanges (storedY d l)) else [])
    ++ storeRowsOf (statsRange d l) ++ storeRowsOf (statsRange d l)
  h + max compute (segTerm s c i rows) + 96

/-- R154 is broken. -/
def extentBroken (d : MmCmd) : Bool :=
  let r2 := gridR d.shape * mmPhi2 d
  let c := gridC d.shape
  if d.mode == 2 then gridR d.shape < d.m || c < d.n
  else if d.mode == 0 then (if d.trans then r2 < 2 * d.n || c < d.k else r2 < 2 * d.k || c < d.n)
  else (if d.trans then r2 < 2 * d.m || c < d.k else r2 < 2 * d.k || c < d.m)

/-- A range lies in more than one view segment (R202). -/
def crossesSeg (r : Nat × Nat) : Bool := r.2 != 0 && r.1 / 0x01000000 != (r.1 + r.2 - 1) / 0x01000000

/-- A stride in use is 0, or a stored row does not fit its stride (R161). -/
def strideBroken (x : Stored) : Bool := x.stride == 0 || x.stride < rowBytes x

/-- Two lists of view ranges share a store row. -/
def shareRow (a b : List (Nat × Nat)) : Bool :=
  let ra := storeRowsOf a
  let rb := storeRowsOf b
  ra.any fun x => rb.contains x

/-- The rows an output may not overlap: everything read except ACC input; a held tile not reloaded is not read (R161). -/
def mmReads (d : MmCmd) (l : Layout) (load : Bool) : List (Nat × Nat) :=
  streamRanges d l ++ (if d.mode == 2 || !load then [] else heldRanges d l)

/-- The second-stage fault: the lowest of SEGMENT, EXTENT, TILE, FORMAT, STRIDE, OVERLAP (R161). -/
def mmStage2 (s : State) (c i : Nat) (d : MmCmd) (l : Layout) (load : Bool) : Option Nat :=
  let all := aRanges d l ++ bRanges d l ++ yRanges d l ++ statsRange d l
  let sides := segmentUnits d.fa l.aScale l.cbTable d.m d.k ++ segmentUnits d.fb l.bScale l.cbTable d.n d.k ++ yScaleRange d l
  if all.any fun r => (viewRange s c i r.1 r.2).isNone then some 0x05
  else if extentBroken d then some 0x12
  else if 4096 < mmTime s c i d l load then some 0x13
  else if sides.any crossesSeg then some 0x14
  else if strideBroken (storedA d l) || strideBroken (storedB d l) || strideBroken (storedY d l) then some 0x15
  else if shareRow (yRanges d l ++ statsRange d l) (mmReads d l load) || shareRow (yRanges d l) (statsRange d l) then some 0x16
  else none

/-! ### Operand values -/

/-- Element codes of a stored operand, row by row. -/
def storedCodes (s : State) (c i : Nat) (x : Stored) : List (List Nat) :=
  (rowRanges x).map fun r =>
    let bs := viewRead s c i r.1 r.2
    (List.range x.cols).map fun j => elemBits bs (fmtBits x.fmt) j

/-- The codes with the non-k index outside and k inside. -/
def byOuter (alongRows : Bool) (k outer : Nat) (l : List (List Nat)) : List (List Nat) :=
  if alongRows then l else columns outer (l.take k)

/-- The scale bytes of an operand: for each outer index, one per group (R199). -/
def operandScales (s : State) (c i : Nat) (alongRows : Bool) (fmt scale outer k : Nat) : List (List Nat) :=
  let g := (k + 31) / 32
  if fmtMx fmt then
    let bs := (viewRead s c i (scale * 64) (inScaleLen outer k)).toArray
    (List.range outer).map fun o => (List.range g).map fun b =>
      ((bs[if alongRows then o * g + b else b * outer + o]?).getD 0).toNat
  else List.replicate outer (List.replicate g 127)

/-- The BF16 entries of the codebook table of each k (R204). -/
def cbTables (s : State) (c i fmt cb k : Nat) : List (List Nat) :=
  let n := if fmt == 13 then 16 else 256
  (chunksOf (n * 2) (k + 1) (viewRead s c i (cb * 64) (cbLen fmt k))).map fun t => (chunksOf 2 (n + 1) t).map leNat

/-- The values of one outer index: element codes along k, with block scales of 0xFF as NaN (R177) and codebook look-up (R204). -/
def rowValues (fmt : Nat) (tables : List (List Nat)) (scales : List Nat) (codes : List Nat) : List FVal :=
  if fmtCb fmt then
    (codes.zip tables).map fun ct => fpValue fpBF16 ((ct.2[ct.1]?).getD 0)
  else if fmtMx fmt then
    ((runs32 codes).zip scales).flatMap fun gs =>
      if gs.2 == 0xFF then gs.1.map fun _ => FVal.nan false else gs.1.map (fmtValue fmt)
  else codes.map (fmtValue fmt)

/-- Values and scale exponents of every outer index of an operand. -/
def operand (s : State) (c i : Nat) (x : Stored) (alongRows : Bool) (scale cb outer k : Nat) : List (List FVal × List Int) :=
  let codes := byOuter alongRows k outer (storedCodes s c i x)
  let scales := operandScales s c i alongRows x.fmt scale outer k
  let tables := if fmtCb x.fmt then cbTables s c i x.fmt cb k else []
  (codes.zip scales).map fun cs => (rowValues x.fmt tables cs.2 cs.1, cs.2.map fun (b : Nat) => (b : Int) - 127)

/-- The ACC input, by output row and column as stored. -/
def accInput (s : State) (c i : Nat) (y : Stored) : List (List FVal) :=
  (storedCodes s c i y).map fun r => r.map (fpValue fpFP32)

/-- One output element (R152, R178-R183). -/
def mmElem (d : MmCmd) (a b : List FVal × List Int) (acc : Option FVal) : FVal × NumFlags :=
  dot (d.fa == 0) (d.fb == 0) d.passes acc ((a.2.zip b.2).map fun x => x.1 + x.2) (a.1.zip b.1)

/-- The FP32 results in the stored order of Y. -/
def mmResults (s : State) (c i : Nat) (d : MmCmd) (l : Layout) : List (List (FVal × NumFlags)) :=
  let as := operand s c i (storedA d l) (aAlongRows d) l.aScale l.cbTable d.m d.k
  let bs := operand s c i (storedB d l) (bAlongRows d) l.bScale l.cbTable d.n d.k
  let y := storedY d l
  let rows := if d.mode == 1 then bs.map fun b => as.map fun a => (a, b) else as.map fun a => bs.map fun b => (a, b)
  if d.acc then
    (rows.zip (accInput s c i y)).map fun ra => (ra.1.zip ra.2).map fun x => mmElem d x.1.1 x.1.2 (some x.2)
  else rows.map fun r => r.map fun x => mmElem d x.1 x.2 none

/-! ### Output (R192-R196, R206-R208) -/

/-- An output row written: its bytes, its scale bytes, and for each element CLIPPED and FLUSHED, with the conversion's flags. -/
structure RowOut where
  bytes : List Byte
  scales : List Nat
  marks : List (Bool × Bool)
  flags : NumFlags
  deriving DecidableEq, Repr

/-- One stored row of results converted to FMT_Y. -/
def rowOut (d : MmCmd) (vs : List FVal) : RowOut :=
  if fmtMx d.fy then
    let bs := (runs32 vs).map fun b => mxBlock d.fy (mxExp d.fy b) (b.map fun v => (v, none))
    let es := bs.flatMap (·.2)
    { bytes := packElems (fmtBits d.fy) (es.map (·.enc)), scales := bs.map (·.1)
      marks := es.map fun e => (e.clipped, e.flushed), flags := nf0 }
  else
    let es := vs.map (outElem d.fy d.sat)
    { bytes := packElems (fmtBits d.fy) (es.map (·.1)), scales := []
      marks := es.map fun e => (e.2.2.1, e.2.2.2), flags := es.foldl (fun f e => nfOr f e.2.1) nf0 }

/-- The bin of R195 an FP32 result counts in: none for NaN; some none for zero; else the biased exponent. -/
def statBin (v : FVal) : Option (Option Nat) :=
  match v with
  | .nan _ => none
  | .fin _ 0 _ => some none
  | _ => some (some (bits (f32Bits v) 30 23))

/-- A saturating field of a record raised by `n`. -/
def satField (r : List Byte) (off size n : Nat) : List Byte := setFld r off size (min (fld r off size + n) (2 ^ (8 * size) - 1))

/-- A record with one element counted (R195). -/
def statElem (r : List Byte) (v : FVal) (mark : Bool × Bool) : List Byte :=
  let r := match statBin v with
    | none => satField r 0x404 4 1
    | some none => satField r 0x400 4 1
    | some (some e) => satField r (4 * e) 4 1
  let r := if mark.1 then satField r 0x408 4 1 else r
  let r := if mark.2 then satField r 0x40C 4 1 else r
  satField r 0x410 8 1

/-- A record with a command's counts added and its flags ORed in; reserved bytes are written as zero (R195, R196). -/
def statRecord (r : List Byte) (es : List (FVal × (Bool × Bool))) (f : NumFlags) : List Byte :=
  let r := es.foldl (fun r e => statElem r e.1 e.2) r
  let r := setFld r 0x418 4 (fld r 0x418 4 % 8 ||| nfBits f)
  overlay r 0x41C (zeros 36)

/-- The output rows written to the store. -/
def writeRows (s : State) (c i : Nat) (y : Stored) : Nat → List RowOut → State
  | _, [] => s
  | r, o :: t => writeRows (viewWrite s c i (y.base + r * y.stride) o.bytes) c i y (r + 1) t

/-- The effect of an ARR_MM whose checks pass: the tile held, Y written, scale stream, statistics and counters, with the flags it ORs into
NUM_FLAGS when it ends (R187). NUM_OUT_NAN counts the elements whose FP32 result is NaN; one that E4M3 writes as a NaN code for want of an
infinity does not count (R192, R197; DESIGN CHOICE, log entry 120). -/
def mmEffect (s : State) (c : Clu) (i : SlotIx) (k : Nat) (d : MmCmd) (l : Layout) : State × NumFlags :=
  let res := mmResults s c.val i.val d l
  let outs := res.map fun r => rowOut d (r.map (·.1))
  let y := storedY d l
  let fl := nfOr (res.flatten.foldl (fun f e => nfOr f e.2) nf0) (outs.foldl (fun f o => nfOr f o.flags) nf0)
  let a := arr s c.val k
  let reused := mayReuse a i.val d l
  let held := if d.mode == 2 then none else some (heldOf s c.val i.val d l)
  let busy := (freeVal s).toNat % (mmTime s c.val i.val d l (!reused) + 1)
  let s := drawn s
  let s := updArr s c.val k fun a =>
    { a with held, shape := d.shape, busy := a.busy + BitVec.ofNat 64 busy, quantum := a.quantum + busy
             macs := a.macs + BitVec.ofNat 64 (d.m * d.n * d.k * d.passes)
             reload := if d.reuse && d.mode != 2 && !reused then satInc a.reload else a.reload }
  let stat := viewRead s c.val i.val (l.stats * 64) 1088
  let s := writeRows s c.val i.val y 0 outs
  let s := if fmtMx d.fy then
      viewWrite s c.val i.val (l.yScale * 64) ((outs.flatMap (·.scales)).map (BitVec.ofNat 8 ·)) else s
  let marks := (res.flatten.map (·.1)).zip (outs.flatMap (·.marks))
  let s := if d.statsEn then viewWrite s c.val i.val (l.stats * 64) (statRecord stat marks fl) else s
  let nans := (res.flatten.filter (·.1.isNan)).length
  let clips := (marks.filter (·.2.1)).length
  (updClu s c.val fun x =>
    { x with outNan := satAdd x.outNan nans, outClip := satAdd x.outClip clips
             mxNan := satAdd x.mxNan ((outs.flatMap (·.scales)).filter (· == 0xFF)).length }, fl)

/-! ### The rows -/

/-- The head of an array queue leaves it and waits for COMMAND_FINISH. -/
def arrPop (s : State) (c i k : Nat) (e : ArrIx) (q : QCmd) (f : NumFlags := nf0) : State :=
  toFin (updSlot s c i fun sl => { sl with arrQ := tput sl.arrQ k (tget [] sl.arrQ k).tail }) c i (.arr e) q f

/-- ARR_LAST_FAULT of an array after a fault of a command for it (R171). -/
def noteArrFault (s : State) (c : Clu) (i : SlotIx) (k code : Nat) : State :=
  if arrPresent s c.val k then updArr s c.val k fun a => { a with lastFault := BitVec.ofNat 8 code, lastFaultSlot := i } else s

/-- A fault of a command for an array (R161, R171). -/
def arrFault (s : State) (c : Clu) (i : SlotIx) (k code pos : Nat) : State :=
  contextFault (noteArrFault s c i k code) c.val i.val code pos 0

/-- STATE of an array as its register and ARRAY_STATUS show it (R169, R171): a FAILED array stays so while it is tested (log entry 119). -/
def arrState (a : Arr) : Nat := if a.failed then 3 else a.st.val

/-- The head of array `k`'s queue for a slot runs, if its opcode is the row's, the context is RUNNING, its wait is met and the
command before it on that array has finished (R158). -/
def arrRow (c : Clu) (i : SlotIx) (k : ArrIx) (op : Nat) (f : QCmd → State → State) (s : State) : Res :=
  match arrHead s c.val i.val k.val with
  | none => .next s
  | some q =>
    if running s c.val i.val && wOp q.word == op && waitMet (slot s c.val i.val) q.word && engineFree s c.val i.val (.arr k) then
      .next (f q s)
    else .next s

/-- The layout registers an ARR_LAYOUT word sets (R159). -/
def layoutOf (w : List Byte) : Layout :=
  { aStride := fld w 0xA 2, bStride := fld w 0xC 2, yStride := fld w 0xE 2, aScale := fld w 0x10 3, bScale := fld w 0x13 3
    yScale := fld w 0x16 3, cbTable := fld w 0x19 3, stats := fld w 0x1C 3 }

/-- ARR_LAYOUT is performed at the head of its queue, in one array cycle, whether or not the array is granted to the slot (R159). It uses
neither the grid nor a tile, so one of another slot leaves the held tile (R162; DESIGN CHOICE, log entry 119). -/
def execArrLayout (c : Clu) (i : SlotIx) (k : ArrIx) (s : State) : Res :=
  arrRow c i k 0x20 (fun q s =>
    if layoutReserved q.word then arrFault s c i k.val 0x02 q.pos
    else if arrUnusable s c.val k.val then arrFault s c i k.val 0x10 q.pos
    else
      let s := updSlot s c.val i.val fun sl => { sl with layout := tput sl.layout k.val (layoutOf q.word) }
      let s := updArr s c.val k.val fun a => { a with busy := a.busy + 1 }
      arrPop s c.val i.val k.val k q) s

/-- The array is granted to the slot (R165). -/
def grantedTo (a : Arr) (i : SlotIx) : Bool := a.st == 1 && a.slot == i

/-- ARR_MM: checked in two stages before any access (R161), then performed. A command for a FAILED array faults even when it was
queued before the failure (R166); one for an array not granted to its slot waits (R165). -/
def execArrMm (c : Clu) (i : SlotIx) (k : ArrIx) (s : State) : Res :=
  arrRow c i k 0x21 (fun q s =>
    match mmStage1 s c.val q.word with
    | some code => arrFault s c i k.val code q.pos
    | none =>
      if !grantedTo (arr s c.val k.val) i then s
      else
        let d := mmFields q.word
        let l := tget layoutReset (slot s c.val i.val).layout k.val
        let load := !mayReuse (arr s c.val k.val) i.val d l
        match mmStage2 s c.val i.val d l load with
        | some code => arrFault s c i k.val code q.pos
        | none =>
          let reads := mmReads d l load ++ (if d.acc then rowRanges (storedY d l) else []) ++ statsRange d l
          if viewClearing s c.val i.val (reads ++ yRanges d l) then s
          else
            match viewPoison s c.val i.val reads with
            | some a => mediaFault (noteArrFault s c i k.val 0x26) c.val i.val q.pos a
            | none =>
              let r := mmEffect s c i k.val d l
              arrPop r.1 c.val i.val k.val k q r.2) s

end Sys2Proof.Machine
end

