-- ==== Sys2Proof/Machine/Stream.lean ====
section
/-! DEFINITION. The stream's words (R127-R129), finishing commands (R121), the synchronisation and context commands (R248, R249, R252) and
the grants of arrays (R243). -/

namespace Sys2Proof.Machine

/-! ### Reading the stream -/

/-- Opcodes assigned (R128, R145, R248). -/
def opAssigned (op : Nat) : Bool :=
  (1 ≤ op && op ≤ 3) || op == 0x20 || op == 0x21 || (0x60 ≤ op && op ≤ 0x65) || (0x68 ≤ op && op ≤ 0x6D) ||
    (0x70 ≤ op && op ≤ 0x72) || (0x80 ≤ op && op ≤ 0x8B) || op == 0x8F || op == 0x9F

/-- The queue a word goes to has room (R129, R158, R250). -/
def hasRoom (sl : Slot) (w : List Byte) : Bool :=
  let op := wOp w
  if op ≤ 3 then decide (sl.dmaQ.length < 16)
  else if op ≤ 0x5F then decide ((tget [] sl.arrQ (wArr w)).length < 8)
  else if op ≤ 0x7F || op == 0x9F then decide (sl.vecQ.length < 16)
  else if op == 0x82 || op == 0x83 then decide (sl.remotes.length + sl.remQ.length < 64)
  else true

/-- The word goes to the queue of its engine, or to the dispatcher itself (R129, R158, R250). -/
def routeWord (s : State) (c i : Nat) (q : QCmd) : State :=
  let op := wOp q.word
  let b := budgetOf s c
  updSlot s c i fun sl =>
    let sl := { sl with pos := sl.pos + 32, nextSeq := sl.nextSeq + 1 }
    if op ≤ 3 then { sl with dmaQ := sl.dmaQ ++ [q] }
    else if op ≤ 0x5F then { sl with arrQ := tput sl.arrQ (wArr q.word) (tget [] sl.arrQ (wArr q.word) ++ [q]) }
    else if op ≤ 0x7F || op == 0x9F then { sl with vecQ := sl.vecQ ++ [q] }
    else if op == 0x82 || op == 0x83 then { sl with remQ := sl.remQ ++ [q] }
    else { sl with cur := some q, readAt := b }

/-- The dispatcher may read: the context is RUNNING, holds no synchronisation command, has not reached END, and its whole job is
resident and not ending (R246, R254). -/
def mayDispatch (s : State) (c i : Nat) (j : Job) : Bool :=
  let sl := slot s c i
  running s c i && sl.cur.isNone && !sl.ended && sl.barrier.isNone && j.ending.isNone && j.st == .running

/-! ### An array taken offline for a test (R167, R168) -/

/-- No command for the array is executing or queued (R167, R168). -/
def arrayIdle (s : State) (c : Nat) (k : ArrIx) : Bool :=
  (List.range 4).all fun i => (tget [] (slot s c i).arrQ k.val).isEmpty && engineFree s c i (.arr k)

/-- The scheduler takes an idle array offline: it is granted to no slot, and its held tile goes with the grid (R167, R168). -/
def takeOffline (s : State) (c : Nat) (k : ArrIx) : State :=
  if arrayIdle s c k then
    updArr s c k.val fun a =>
      { a with st := 2, held := none, pinned := false, quantum := 0
               test := a.test.map fun t => { t with running := true, yielded := false } }
  else s

/-- A command boundary of the array: a requested test begins at the first at which no command for the array is executing or queued (R167); for
a test that has yielded, the time without such a command begins (R168). -/
def arrayBoundary (s : State) (c : Nat) (k : ArrIx) : State :=
  match (arr s c k.val).test with
  | none => s
  | some t =>
    if t.running then
      (if t.yielded then updArr s c k.val fun a => { a with test := some { t with idleAt := now s } } else s)
    else takeOffline s c k

/-! ### Finishing -/

/-- The cluster whose ticket a command of an engine posts (R121). -/
def postCluster (c : Nat) (e : Engine) (q : QCmd) : Nat :=
  match e with
  | .dma => dmaPostCluster c q.word
  | _ => c

/-- A finished command posts its ticket, if POST_EN is set, and restarts the watchdog (R120, R121, R249). -/
def finishCmd (s : State) (c i : Nat) (e : Engine) (q : QCmd) : State :=
  let s := wdRestart s c i
  if wPostEn q.word then postTkt s (postCluster c e q) i (wPostTkt q.word) else s

/-- COMMAND_FINISH: the oldest command of the engine whose accesses are done finishes, and its flags are ORed into NUM_FLAGS (R187). -/
def execCommandFinish (c : Clu) (i : SlotIx) (e : Engine) (s : State) : Res :=
  match (slot s c.val i.val).fin.find? fun x => x.eng == e with
  | none => .next s
  | some x =>
    let s := updSlot s c.val i.val fun sl =>
      { sl with fin := dropFirst (fun x => x.eng == e) sl.fin, flags := nfOr sl.flags x.flags }
    let s := finishCmd s c.val i.val e x.cmd
    .next (match e with
      | .arr k => arrayBoundary s c.val k
      | _ => s)

/-! ### Synchronisation commands -/

/-- Reserved bytes and ranges of a synchronisation word (R127, R248). -/
def syncReserved (w : List Byte) : Bool :=
  headerReserved w ||
  match wOp w with
  | 0x81 => 15 < fld w 8 1 || !allZero (w.drop 9)
  | 0x84 => 15 < fld w 8 1 || fld w 9 1 != 0 || !allZero (w.drop 0xC)
  | 0x85 => fld w 9 3 != 0 || !allZero (w.drop 0x14)
  | 0x86 => 4 < fld w 8 1 || 63 < fld w 9 1 || !allZero (w.drop 0xC)
  | 0x88 => 0x08000000 ≤ fld w 8 4 || !allZero (w.drop 0xC)
  | 0x89 => !allZero (w.drop 0xC)
  | 0x8A => 3 < fld w 8 1 || fld w 9 3 != 0 || !allZero (w.drop 0x14)
  | _ => !allZero (w.drop 8)

/-- The synchronisation command the dispatcher holds, if its opcode is the row's: a reserved field faults; else `f` acts once its wait
is met (R248). -/
def syncRow (c : Clu) (i : SlotIx) (op : Nat) (f : Job → QCmd → State → State) (s : State) : Res :=
  match (slot s c.val i.val).cur, slotJob s c.val i.val with
  | some q, some j =>
    if !running s c.val i.val || wOp q.word != op then .next s
    else if syncReserved q.word then .next (contextFault s c.val i.val 0x02 q.pos 0)
    else if waitMet (slot s c.val i.val) q.word then .next (f j q s)
    else .next s
  | _, _ => .next s

/-- A synchronisation command is done: it leaves the dispatcher, posts, and restarts the watchdog. -/
def syncDone (s : State) (c i : Nat) (q : QCmd) : State :=
  finishCmd (updSlot s c i fun sl => { sl with cur := none }) c i .sync q

/-- A stream offset names a word of the rank's stream (R249). -/
def streamTarget (j : Job) (rank t : Nat) : Bool := t % 32 == 0 && decide (t < jStreamLen j rank)

def execSyncNop (c : Clu) (i : SlotIx) (s : State) : Res := syncRow c i 0x80 (fun _ q s => syncDone s c.val i.val q) s

/-- Every command of a context that has been read has finished. -/
def allFinished (sl : Slot) : Bool :=
  sl.dmaQ.isEmpty && sl.vecQ.isEmpty && sl.remQ.isEmpty && sl.fin.isEmpty && sl.remotes.isEmpty &&
    sl.arrQ.all fun x => x.2.isEmpty

/-- The resident contexts of a job. -/
def jobContexts (s : State) (j : Job) : List (Nat × Slot) := j.clusters.map fun c => (c, slot s c j.slotIx)

/-- Every rank waits at BARRIER `id` for the `n`-th time and has finished its earlier commands (R248). -/
def barrierMet (s : State) (j : Job) (id n : Nat) : Bool :=
  (jobContexts s j).all fun x => x.2.barrier == some id && tget 0 x.2.barCnt id == n && allFinished x.2

/-- BARRIER: the rank arrives; a rank that has reached END makes it fault; the last condition met releases every rank. -/
def execBarrier (c : Clu) (i : SlotIx) (s : State) : Res :=
  syncRow c i 0x81 (fun j q s =>
    let id := fld q.word 8 1
    if (jobContexts s j).any (fun x => x.2.ended) then contextFault s c.val i.val 0x24 q.pos 0
    else
      let s := if (slot s c.val i.val).barrier.isSome then s else
        updSlot s c.val i.val fun sl => { sl with barrier := some id, barCnt := tmod 0 sl.barCnt id (· + 1) }
      if barrierMet s j id (tget 0 (slot s c.val i.val).barCnt id) then
        (jobContexts s j).foldl (fun s x =>
          match x.2.cur with
          | some q => syncDone (updSlot s x.1 i.val fun sl => { sl with barrier := none }) x.1 i.val q
          | none => s) s
      else s) s

/-- RWAIT: the signal counter is ready against VAL (R120, R248). -/
def execRwait (c : Clu) (i : SlotIx) (s : State) : Res :=
  syncRow c i 0x84 (fun _ q s =>
    if tktReady (tget 0 (slot s c.val i.val).sigcnt (fld q.word 8 1)).toNat (fld q.word 0xA 2) then syncDone s c.val i.val q
    else s) s

/-- DL_ARM (R252). -/
def execDlArm (c : Clu) (i : SlotIx) (s : State) : Res :=
  syncRow c i 0x85 (fun j q s =>
    let alt := fld q.word 0x10 4
    if !streamTarget j (slot s c.val i.val).rank alt then contextFault s c.val i.val 0x20 q.pos 0
    else if (slot s c.val i.val).armed then contextFault s c.val i.val 0x23 q.pos 0
    else
      let d := (pst s (cluPart s c.val)).budget + BitVec.ofNat 64 (fld q.word 0xC 4)
      syncDone (updSlot s c.val i.val fun sl =>
        { sl with armed := true, deadline := d, altOff := alt, step := fld q.word 8 1 }) c.val i.val q) s

/-- The schedule failures held for a rank are cleared (R279). -/
def clearHeldFail (s : State) (key rank : Nat) : State :=
  match tfind? s.tie.scheds key with
  | some x => { s with tie := { s.tie with
      scheds := tput s.tie.scheds key { x with failed := x.failed.filter fun f => f.1 != rank } } }
  | none => s

/-- A failure is held on this ticket of the rank (R279). -/
def failHeld (s : State) (key rank t : Nat) : Bool :=
  match tfind? s.tie.scheds key with
  | some x => x.failed.contains (rank, t)
  | none => false

/-- The fallback is taken: the stream continues at ALT_OFF, the path bit is set, the fallback counted, the monitor disarmed (R252). -/
def takeFallback (s : State) (c i : Nat) (j : Job) (q : QCmd) : State :=
  let sl := slot s c i
  let s := updSlot s c i fun sl =>
    { sl with pos := sl.altOff, path := sl.path ||| BitVec.twoPow 256 sl.step, fallbacks := satInc sl.fallbacks, armed := false }
  let s := updSchPart s j.part fun x => { x with fallbacks := satInc x.fallbacks }
  syncDone (clearHeldFail s (jobKey (jobHandle j)) sl.rank) c i q

/-- Strict stall cycles past the deadline, added by cause (R252). -/
def addStall (s : State) (c i : Nat) (j : Job) (cause n : Nat) : State :=
  let s := updSlot s c i fun sl => { sl with stall := sl.stall + BitVec.ofNat 64 n }
  updSchPart s j.part fun x => { x with stall := tmod 0 x.stall cause (· + BitVec.ofNat 64 n) }

/-- The budget clock at which a DL_CHECK began to wait on its ticket: when it was read, or when its own WAIT_EN was met (R120, R252). -/
def checkFrom (sl : Slot) (w : List Byte) : Nat :=
  max sl.readAt.toNat (if wWaitEn w then readyAt sl (wWaitTkt w) (wWaitVal w) else 0)

/-- The budget clock reached D while a DL_CHECK waited, before its ticket became ready at `b` (R252). -/
def lateFor (sl : Slot) (w : List Byte) (b : Nat) : Bool := decide (checkFrom sl w < b) && decide (sl.deadline.toNat < b)

/-- DL_CHECK: a ready ticket lets the stream continue; a strict job counts the cycles past its deadline at which the ticket became ready;
a timely job whose deadline passed first, or whose entry failed, takes its fallback (R252, R279). -/
def execDlCheck (c : Clu) (i : SlotIx) (s : State) : Res :=
  syncRow c i 0x86 (fun j q s =>
    let sl := slot s c.val i.val
    let t := fld q.word 9 1
    let b := readyAt sl t (fld q.word 0xA 2)
    if !sl.armed then contextFault s c.val i.val 0x23 q.pos 0
    else if tktReady (tget 0 sl.tkt t).toNat (fld q.word 0xA 2) then
      if runsTimely j then (if lateFor sl q.word b then takeFallback s c.val i.val j q else syncDone s c.val i.val q)
      else
        let s := if sl.deadline.toNat < b then addStall s c.val i.val j (fld q.word 8 1) (b - sl.deadline.toNat) else s
        syncDone s c.val i.val q
    else if runsTimely j && failHeld s (jobKey (jobHandle j)) sl.rank t then takeFallback s c.val i.val j q
    else s) s

/-- DEADLINE_EXPIRE: the budget clock reaches D while a timely job's DL_CHECK still waits (R252). -/
def execDeadlineExpire (c : Clu) (i : SlotIx) (s : State) : Res :=
  syncRow c i 0x86 (fun j q s =>
    let sl := slot s c.val i.val
    if sl.armed && runsTimely j && !tktReady (tget 0 sl.tkt (fld q.word 9 1)).toNat (fld q.word 0xA 2) &&
        sl.deadline.toNat ≤ (budgetOf s c.val).toNat then takeFallback s c.val i.val j q
    else s) s

/-- DL_END (R252). -/
def execDlEnd (c : Clu) (i : SlotIx) (s : State) : Res :=
  syncRow c i 0x87 (fun j q s =>
    let sl := slot s c.val i.val
    if !sl.armed then contextFault s c.val i.val 0x23 q.pos 0
    else
      let s := updSlot s c.val i.val fun sl => { sl with armed := false }
      syncDone (clearHeldFail s (jobKey (jobHandle j)) sl.rank) c.val i.val q) s

/-- PATH_STORE writes one row (R248). -/
def execPathStore (c : Clu) (i : SlotIx) (s : State) : Res :=
  syncRow c i 0x88 (fun _ q s =>
    let dst := fld q.word 8 4
    let sl := slot s c.val i.val
    if dst % 64 != 0 then contextFault s c.val i.val 0x03 q.pos 0
    else if (viewRange s c.val i.val dst 64).isNone then contextFault s c.val i.val 0x05 q.pos 0
    else if viewClearing s c.val i.val [(dst, 64)] then s
    else
      let row := leBytes 32 sl.path.toNat ++ leBytes 4 sl.fallbacks.toNat ++ zeros 28
      syncDone (viewWrite s c.val i.val dst row) c.val i.val q) s

/-- JUMP (R248). -/
def execJump (c : Clu) (i : SlotIx) (s : State) : Res :=
  syncRow c i 0x89 (fun j q s =>
    let t := fld q.word 8 4
    if !streamTarget j (slot s c.val i.val).rank t then contextFault s c.val i.val 0x20 q.pos 0
    else syncDone (updSlot s c.val i.val fun sl => { sl with pos := t }) c.val i.val q) s

/-- The loop counter after a LOOP, and whether it jumps (R248). -/
def loopStep (ctr init : Nat) : Nat × Bool :=
  if ctr = 0 then (if 1 < init then (init - 1, true) else (0, false)) else (ctr - 1, ctr - 1 != 0)

/-- LOOP (R248); its target is checked whether or not it jumps (log entry 17). -/
def execLoop (c : Clu) (i : SlotIx) (s : State) : Res :=
  syncRow c i 0x8A (fun j q s =>
    let t := fld q.word 0xC 4
    let k := fld q.word 8 1
    if !streamTarget j (slot s c.val i.val).rank t then contextFault s c.val i.val 0x20 q.pos 0
    else
      let (n, jump) := loopStep (tget 0 (slot s c.val i.val).lctr k).toNat (fld q.word 0x10 4)
      syncDone (updSlot s c.val i.val fun sl =>
        { sl with lctr := tput sl.lctr k (BitVec.ofNat 32 n), pos := if jump then t else sl.pos }) c.val i.val q) s

/-- YIELD gives up the arrays the slot holds and is not pinned to (R243, R248). -/
def execYield (c : Clu) (i : SlotIx) (s : State) : Res :=
  syncRow c i 0x8B (fun _ q s =>
    let s := (List.range 4).foldl (fun s k =>
      updArr s c.val k fun a => if grantedTo a i && !a.pinned then { a with st := 0, quantum := 0 } else a) s
    syncDone s c.val i.val q) s

/-! ### Watchdog (R249) -/

/-- Every command read and not finished, with the engine it is queued for, if any. -/
def pendingCmds (sl : Slot) : List (Nat × Option Engine) :=
  (sl.dmaQ.map fun q => (q.seq, some .dma)) ++ (sl.vecQ.map fun q => (q.seq, some .vec)) ++ (sl.remQ.map fun q => (q.seq, none))
    ++ (sl.arrQ.flatMap fun x => x.2.map fun q => (q.seq, some (.arr ⟨x.1 % 4, by omega⟩))) ++ (sl.fin.map fun x => (x.cmd.seq, none))
    ++ (sl.cur.toList.map fun q => (q.seq, none))

/-- An engine serves another slot: an array granted to it, a DMA engine or vector unit that takes its command next or has not finished it
(R249). -/
def servesOther (s : State) (c i : Nat) (e : Engine) : Bool :=
  let others := (List.range 4).any fun k => k != i && !engineFree s c k e
  match e with
  | .arr k => (arr s c k.val).st == 1 && (arr s c k.val).slot.val != i
  | .dma => others || (dmaTurn s c).any (· != i)
  | .vec => others || (vecTurn s c).any (· != i)
  | _ => false

/-- The head of an engine's queue. -/
def queueHead (s : State) (c i : Nat) : Engine → Option QCmd
  | .arr k => arrHead s c i k.val
  | .dma => dmaHead s c i
  | .vec => vecHead s c i
  | _ => none

/-- The context's next command waits only for an array, DMA engine or vector unit that serves another slot (R249, log entry 18): its oldest
unfinished command heads the queue of such an engine, with its own wait met. -/
def waitsForEngine (s : State) (c i : Nat) : Bool :=
  let sl := slot s c i
  match pendingCmds sl with
  | [] => false
  | x :: t =>
    match (t.foldl (fun a b => if b.1 < a.1 then b else a) x).2 with
    | none => false
    | some e => (queueHead s c i e).any (fun q => waitMet sl q.word) && servesOther s c i e

/-- One budget cycle of partition `p` passes for the watchdogs of its running contexts (R249). -/
def wdAdvance (s : State) (p : Nat) : State :=
  { s with slots := s.slots.map fun x =>
      let c := x.1 / 4
      let i := x.1 % 4
      if x.2.st == .running && clusterOwner s c == some p && !waitsForEngine s c i then (x.1, { x.2 with wd := x.2.wd + 1 })
      else x }

/-- WATCHDOG_EXPIRE: the count has reached WATCHDOG (R249). -/
def execWatchdogExpire (c : Clu) (i : SlotIx) (s : State) : Res :=
  match slotJob s c.val i.val with
  | none => .next s
  | some j =>
    let sl := slot s c.val i.val
    if running s c.val i.val && jWatchdog j != 0 && jWatchdog j ≤ sl.wd then .next (contextFault s c.val i.val 0x25 sl.pos 0)
    else .next s

/-! ### Array grants (R243, R165) -/

/-- A slot waits for an array: RUNNING, with a command at the head of its queue for the array. -/
def waitsFor (s : State) (c k i : Nat) : Bool :=
  running s c i && !(tget [] (slot s c i).arrQ k).isEmpty

/-- The waiting slot of highest priority, the first among equals in the order given (R243). -/
def bestWaiter (s : State) (c k : Nat) (l : List Nat) : Option Nat := topSlot s c (l.filter fun i => waitsFor s c k i)

/-- No command for the array is executing: a command boundary (R164, R243). -/
def atBoundary (s : State) (c : Nat) (k : ArrIx) : Bool := (List.range 4).all fun i => engineFree s c i (.arr k)

/-- The array passes to slot `i` (R162, R164, R243); a holder with a command waiting has been pre-empted. -/
def giveArray (s : State) (c k : Nat) (i : Nat) : State :=
  let a := arr s c k
  let old := a.slot.val
  let taken := a.st == 1 && old != i && waitsFor s c k old
  let s := if taken then
      updSchPart s (cluPart s c) fun x => { x with preempts := satInc x.preempts } else s
  updArr s c k fun a =>
    { a with st := 1, slot := ⟨i % 4, by omega⟩, pinned := slotPinned s c k i, quantum := 0
             held := if old != i then none else a.held }

/-- ARRAY_GRANT: rules 1, 2 and 4 of R243 at a command boundary (R164). A resident PINNED job keeps its arrays, whether or not it is
RUNNING. An array under test or FAILED, or on a cluster whose Thyme check failed (R234), is granted to no slot. -/
def execArrayGrant (c : Clu) (k : ArrIx) (s : State) : Res :=
  let a := arr s c.val k.val
  if !arrPresent s c.val k.val || a.st == 2 || a.failed || (cluster s c.val).katFail || !atBoundary s c.val k then .next s
  else
    let order := rotated a.slot.val
    match order.find? fun i => slotPinned s c.val k.val i with
    | some i => if a.st == 1 && a.slot.val == i then .next s else .next (giveArray s c.val k.val i)
    | none =>
      match bestWaiter s c.val k.val order with
      | none => .next s
      | some i =>
        if a.st == 1 && a.slot.val == i then .next s
        else if a.st == 1 && waitsFor s c.val k.val a.slot.val && slotPri s c.val i ≤ slotPri s c.val a.slot.val then .next s
        else .next (giveArray s c.val k.val i)

/-- ARRAY_QUANTUM_EXPIRE: the holder has used its QUANTUM and another slot of its priority waits; the array passes at a command boundary (R243
rule 3, R164). -/
def execArrayQuantumExpire (c : Clu) (k : ArrIx) (s : State) : Res :=
  let a := arr s c.val k.val
  let h := a.slot.val
  let q := ((slotJob s c.val h).map jQuantum).getD 0
  if a.st == 1 && !a.pinned && q != 0 && q ≤ a.quantum && atBoundary s c.val k then
    match (rotated h).find? fun i => i != h && waitsFor s c.val k.val i && slotPri s c.val i == slotPri s c.val h with
    | some i => .next (giveArray s c.val k.val i)
    | none => .next s
  else .next s

end Sys2Proof.Machine
end

