-- ==== Sys2Proof/Machine/ArrayTest.lean ====
section
/-! DEFINITION. Array self-test (R166-R170): ARRAY_TEST, ARRAY_STATUS and the events of a test. -/

namespace Sys2Proof.Machine

/-- Opcodes of array self-test (R169). -/
def arrayTestOps : List OpSpec := [
  { cls := 9, op := 0x40, used := [(0x20, 4)], bitsRes := [(0x23, 0xFE)], range := rngs [(0x20, 1, 0, 31), (0x21, 1, 0, 3), (0x22, 1, 0, 1)] },
  { cls := 9, op := 0x41, used := [(0x20, 1)], pay := .outOnly, range := rngs [(0x20, 1, 0, 31)]
    lenOk := fun _ _ _ o => decide (64 ≤ o) } ]

/-- The array returns to service. -/
def testOver (s : State) (c k : Nat) : State :=
  updArr s c k fun a => { a with st := if a.st == 2 then 0 else a.st, test := none }

/-- ARRAY_TEST (R169, R170): checked, registered, and begun at the first command boundary; repeated, the row tries that again. -/
def execArrayTest (r : ReqId) (s : State) : Res :=
  runReq s r 9 0x40 fun s x =>
    let c := prm x 0x20 1
    let k : ArrIx := ⟨prm x 0x21 1 % 4, by omega⟩
    let a := arr s c k.val
    let clear := bitAt (prm x 0x23 1) 0
    match a.test with
    | some t =>
      if t.req == r then (if t.running || t.yielded then s else takeOffline s c k)
      else if clusterOwner s c != some (reqPart r) then finish s r (ansErr 0x0019 0x20)
      else if clear && ownerOf s r.mb.val != 0 then finish s r (ansErr 0x0019)
      else finish s r (ansErr 0x0140 (t.req.hseq.toNat % 65536))
    | none =>
      if clusterOwner s c != some (reqPart r) then finish s r (ansErr 0x0019 0x20)
      else if clear && ownerOf s r.mb.val != 0 then finish s r (ansErr 0x0019)
      else if !arrPresent s c k.val then finish s r (ansErr 0x0142 0x21)
      else
        let s := updArr s c k.val fun a =>
          { a with patterns := 0, yields := 0
                   test := some { req := r, total := if prm x 0x22 1 = 0 then 1024 else 65536, running := false, yielded := false
                                  clearFailed := clear, stop := false, idleAt := 0 } }
        takeOffline s c k

/-- One 16-byte record of ARRAY_STATUS (R169). -/
def arrayRecord (s : State) (c k : Nat) : List Byte :=
  if arrPresent s c k then
    let a := arr s c k
    leBytes 1 (arrState a) ++ leBytes 1 a.slot.val ++ zeros 2 ++ leBytes 4 a.patterns.toNat ++ leBytes 4 a.yields.toNat
      ++ leBytes 4 a.fails.toNat
  else leBytes 1 0xFF ++ zeros 15

def execArrayStatus (r : ReqId) (s : State) : Res :=
  answer s r 9 0x41 fun s x =>
    let c := prm x 0x20 1
    if clusterOwner s c != some (reqPart r) then ansErr 0x0019 0x20
    else ansOk (workingArrays s c) ((List.range 4).flatMap (arrayRecord s c))

/-- A slot whose pinned job has a command waiting at the head of this array's queue (R168). -/
def pinnedWaiter (s : State) (c k : Nat) : Option Nat :=
  (List.range 4).find? fun i => running s c i && slotPinned s c k i && (arrHead s c i k).isSome

/-- The FAILED state of every array goes to the record log (R166, R477). -/
def storeArrays (s : State) : State :=
  queueAppend s 4 ((List.range 32).map fun c =>
    BitVec.ofNat 8 (natSum ((List.range 4).map fun k => bnat (arr s c k).failed * 2 ^ k)))

/-- RESULT of a test that ran to its end (R169). -/
def testResult (a : Arr) (fail : Bool) : Nat := bnat fail + (a.yields.toNat % 65536) * 256

/-- A pattern ends (R166, R168, R169): a failing one makes the array FAILED and is logged; a cancelled test stops here; the last one
passes the test; a test a pinned command waits for yields, and ends at its 4,096th yield. -/
def execTestPatternEnd (c : Clu) (k : ArrIx) (fail : Option Word) (s : State) : Res :=
  match (arr s c.val k.val).test with
  | none => .next s
  | some t =>
    if !t.running || t.yielded then .next s
    else
      let s := updArr s c.val k.val fun a => { a with patterns := a.patterns + 1 }
      let a := arr s c.val k.val
      match fail with
      | some d =>
        let s := updArr s c.val k.val fun a => { a with failed := true, fails := a.fails + 1 }
        let s := logErr s { source := 4, severity := 1, part := clusterOwner s c.val, unit := c.val + k.val * 32, detail := d.toNat }
        let s := storeArrays s
        .next (finish (testOver s c.val k.val) t.req (ansOk (testResult a true)))
      | none =>
        if t.stop then .next (testOver s c.val k.val)
        else if t.total ≤ a.patterns.toNat then
          let cleared := t.clearFailed && t.total == 65536 && a.failed
          let s := if cleared then commit (storeArrays (updArr s c.val k.val fun a => { a with failed := false })) t.req else s
          .next (finish (testOver s c.val k.val) t.req (ansOk (testResult a false)))
        else
          match pinnedWaiter s c.val k.val with
          | none => .next s
          | some i =>
            let s := updArr s c.val k.val fun a => { a with yields := a.yields + 1 }
            if 4096 ≤ (arr s c.val k.val).yields.toNat then
              .next (finish (testOver s c.val k.val) t.req (ansErr 0x0141 (min a.patterns.toNat 0xFFFF)))
            else
              .next (updArr s c.val k.val fun a =>
                { a with st := 1, slot := ⟨i % 4, by omega⟩, pinned := true, held := none, quantum := 0
                         test := some { t with yielded := true, idleAt := now s } })

/-- TEST_RESUME: a test that yielded goes on once no command for the array has been executing or queued for 10 µs (R168). -/
def execTestResume (c : Clu) (k : ArrIx) (s : State) : Res :=
  match (arr s c.val k.val).test with
  | none => .next s
  | some t => if t.yielded && arrayIdle s c.val k then .next (takeOffline (reach s (t.idleAt + 10000)) c.val k) else .next s

/-- A test whose request was cancelled stops at the next pattern boundary, at once if no pattern runs (R169). -/
def cancelTest (s : State) (r : ReqId) : State :=
  { s with arrs := s.arrs.map fun x => (x.1, match x.2.test with
      | some t =>
        if t.req == r then
          (if t.running && !t.yielded then { x.2 with test := some { t with stop := true } }
           else { x.2 with test := none })
        else x.2
      | none => x.2) }

end Sys2Proof.Machine
end

