-- ==== Sys2Proof/Machine/Fennel.lean ====
section
/-! DEFINITION. What Fennel accepts and finds in a source (R286-R290): the checks on container, video, audio and captions, the frames and
breaks, the index entries; and the pictures decoded for a sample (R317). What the standards define is Config's (log entry 31). -/

namespace Sys2Proof.Machine

/-! ### Containers (R286) -/

/-- The packets of 188 bytes of a transport stream whose packets have `size` bytes: a prefix is ignored. -/
def tsPackets (size : Nat) (file : List Byte) : List (List Byte) :=
  (List.range (file.length / size)).map fun i => (file.drop (i * size + (size - 188))).take 188

/-- A transport stream of 192-byte packets. -/
def prefixed (kind : Nat) (file : List Byte) : Bool := kind == 0 && Config.packetSize file == 192

/-- A container's bytes without the prefixes of its packets, and the offset in the file of one of them. -/
def containerBytes (kind : Nat) (file : List Byte) : List Byte := if prefixed kind file then (tsPackets 192 file).flatten else file
def fileOffset (kind : Nat) (file : List Byte) (o : Nat) : Nat := if prefixed kind file then o / 188 * 192 + 4 + o % 188 else o

/-- Packets of a transport stream. -/
def packetCount (kind : Nat) (file : List Byte) : Nat := if kind = 0 then file.length / Config.packetSize file else 0

/-- A transport stream has packets of 188 or 192 bytes, none of them scrambled. -/
def tsAccepted (file : List Byte) : Bool :=
  let n := Config.packetSize file
  (n == 188 || n == 192) && (tsPackets n file).all fun p => Config.scramblingControl p == 0

/-- The program or track a source names; 0 names the first (R319). A source that names none of the file's is refused as its container (log entry
31). -/
def chooseProgram (number : Nat) (l : List Config.Program) : Option Config.Program :=
  if number = 0 then l.head? else l.find? fun p => p.number == number

/-- The program of an accepted container. -/
def acceptedProgram (kind number : Nat) (file : List Byte) : Option Config.Program :=
  if kind = 0 && !tsAccepted file then none
  else
    match (Config.programs kind (containerBytes kind file)).bind (chooseProgram number) with
    | some p => if kind = 1 && p.encrypted then none else some p
    | none => none

/-- An edit list of anything but one edit with media_time ≥ 0 is ignored (R286). -/
def editsIgnored (kind : Nat) (p : Config.Program) : Bool :=
  kind == 1 && match p.edits with
    | [] => false
    | [t] => decide (t < 0)
    | _ => true

/-! ### Video (R287) -/

/-- The codec of a carriage as SOURCE_INFO numbers it (R319); sample entries are four-character codes. -/
def codecOf (kind : Nat) (p : Config.Program) : Option Nat :=
  if kind = 0 then
    match p.carriage with
    | 0x02 => some 0
    | 0x1B => some 1
    | 0x24 => some 2
    | 0x06 => if p.av01 then some 3 else none
    | 0x33 => some 4
    | _ => none
  else
    match p.carriage with
    | 0x61766331 => some 1
    | 0x61766333 => some 1
    | 0x68766331 => some 2
    | 0x68657631 => some 2
    | 0x61763031 => some 3
    | 0x76766331 => some 4
    | 0x76766931 => some 4
    | _ => none

/-- The profiles of a codec. -/
def profilesOf (codec : Nat) : List Config.Profile := match codec with
  | 0 => [.simple, .main, .p422]
  | 1 => [.constrainedBaseline, .main, .high, .high10]
  | 2 => [.main, .main10]
  | 3 => [.main]
  | _ => [.main10]

/-- The highest level of a codec: H.262 up to High, the others in tenths. -/
def levelLimit (codec : Nat) : Nat := match codec with
  | 0 => 3
  | 3 => 53
  | _ => 52

/-- The chroma formats and depths of a codec and profile. -/
def sampleOk (codec : Nat) (f : Config.Profile) (chroma depth : Nat) : Bool :=
  match codec with
  | 0 => (chroma == 1 || chroma == 2 && f == .p422) && depth == 8
  | 1 => chroma == 1 && (depth == 8 || f == .high10 && decide (8 ≤ depth) && decide (depth ≤ 10))
  | 2 => chroma == 1 && decide (8 ≤ depth) && decide (depth ≤ 10)
  | _ => decide (chroma ≤ 1) && decide (8 ≤ depth) && decide (depth ≤ 10)

/-- No picture holds more than 8,912,896 luma samples or is wider or taller than 8,192. -/
def sizeOk (x : Config.Picture) : Bool :=
  decide (x.width * x.height ≤ 8912896) && decide (x.width ≤ 8192) && decide (x.height ≤ 8192)

/-- A tool that R287 refuses: FMO, ASO and redundant slices of H.264, interlaced pictures of HEVC, resampling of VVC. -/
def refusedTool (codec : Nat) (p : Config.Program) : Bool :=
  match codec with
  | 1 => p.fmo || p.aso || p.redundantSlices
  | 2 => p.pictures.any (·.interlaced)
  | 4 => p.resampling
  | _ => false

/-- The DETAIL with which R287 refuses a stream of a codec (R322): profile, level, size or tool, the first that fails; chroma and depth belong to
the profile (log entry 31). -/
def codecRefusal (codec : Nat) (p : Config.Program) : Option Nat :=
  if !(profilesOf codec).contains p.profile || !(p.pictures.all fun x => sampleOk codec p.profile x.chroma x.depth) then some 2
  else if levelLimit codec < p.level then some 3
  else if !p.pictures.all sizeOk then some 4
  else if refusedTool codec p then some 5
  else none

/-! ### Frames and breaks (R290) -/

/-- The distinct presentation ranks of pictures, ascending. -/
def insertRank (r : Nat) : List Nat → List Nat
  | [] => [r]
  | x :: t => if r < x then r :: x :: t else if r = x then x :: t else x :: insertRank r t
def ranksOf (l : List Config.Picture) : List Nat := l.foldl (fun t x => insertRank x.rank t) []

/-- The frame of a rank: one progressive picture, or a pair of fields. -/
def frameOfRank (l : List Config.Picture) (r : Nat) : FrameRec :=
  let ix := (List.range l.length).filter fun i => (l[i]?).any fun x => x.rank == r
  let ps := l.filter fun x => x.rank == r
  let f := ps.headD default
  { pics := ix, pts := f.pts, interlaced := ps.any (·.interlaced), width := f.width, height := f.height, chroma := f.chroma, depth := f.depth
    damaged := ps.any (·.damaged), discontinuity := ps.any (·.discontinuity), grain := ps.any (·.grain) }

/-- The frames of a program, in presentation order. -/
def framesOf (l : List Config.Picture) : List FrameRec := (ranksOf l).map (frameOfRank l)

/-- A break lies between two consecutive frames; a damaged picture breaks on either side (log entry 31). -/
def breakBetween (a b : FrameRec) : Bool :=
  b.discontinuity || a.width != b.width || a.height != b.height || a.chroma != b.chroma || a.depth != b.depth || a.damaged || b.damaged

/-- The frames a break follows. -/
def breaksFrom (i : Nat) : List FrameRec → List Nat
  | a :: b :: t => if breakBetween a b then i :: breaksFrom (i + 1) (b :: t) else breaksFrom (i + 1) (b :: t)
  | _ => []

/-- What ADD_SOURCE finds in a file, or the status and DETAIL it is refused with (R286, R287, R322). -/
def parseSource (kind number : Nat) (file : List Byte) : Except (Nat × Nat) SrcInfo :=
  match acceptedProgram kind number file with
  | none => .error (0x0100, 0)
  | some p =>
    match codecOf kind p with
    | none => .error (0x0101, 1)
    | some c =>
      match codecRefusal c p with
      | some d => .error (0x0101, d)
      | none =>
        let fs := framesOf p.pictures
        .ok { prog := p, codec := c, editsIgnored := editsIgnored kind p, frames := fs, breaks := breaksFrom 0 fs }

/-- The index: 16 bytes per picture, of its offset in the file, PTS, decoding order, type and random-access flag (R289). -/
def indexEntries (kind : Nat) (file : List Byte) (l : List Config.Picture) : List (List Byte) :=
  (List.range l.length).filterMap fun i => (l[i]?).map fun x =>
    fit (Config.indexEntry (fileOffset kind file x.offset) x.pts i x.type x.randomAccess) 16

/-! ### Audio and captions (R288) -/

/-- AUDIO_CODEC of a stream or track (R319): 1 AAC-LC, 2 Layer II, 0 one that R288 does not list. -/
def audioCodecOf (kind : Nat) (a : Config.Audio) : Nat :=
  let c := match kind, a.carriage with
    | 0, 0x0F => 1
    | 0, 0x03 => 2
    | 0, 0x04 => 2
    | 1, 0x40 => 1
    | 1, 0x6B => 2
    | _, _ => 0
  let rateOk := a.rate == 32000 || a.rate == 44100 || a.rate == 48000
  let channelsOk := decide (1 ≤ a.channels) && (c != 1 || decide (a.channels ≤ 8))
  if a.formatOk && rateOk && channelsOk then c else 0

/-- The audio of a source: that of its first stream, if it is accepted. -/
def audioOf (kind : Nat) (p : Config.Program) : Option Config.Audio :=
  match p.audio with
  | [] => none
  | a :: _ => if audioCodecOf kind a = 0 then none else some a

/-- The first two channels interleaved, mono duplicated: `n` sample pairs from a PTS on. -/
def audioBytes (kind number : Nat) (bytes : List Byte) (a : Config.Audio) (pts n : Nat) : List Byte :=
  let right := if a.channels = 1 then 0 else 1
  (List.range n).flatMap fun i =>
    leBytes 2 (Config.pcmSample kind number bytes 0 pts i).toNat ++ leBytes 2 (Config.pcmSample kind number bytes right pts i).toNat

/-- A service comes with a source: CEA captions in H.262, H.264, HEVC and VVC, DVB subtitles in transport streams. -/
def serviceOk (kind codec : Nat) (v : Config.CaptionService) : Bool :=
  match v with
  | .dvb => kind == 0
  | _ => codec != 3

/-- SERVICE of a cue (R310), and its bit of CAPTIONS (R319). -/
def serviceCode (v : Config.CaptionService) : Nat := match v with
  | .cc k => 0x01 + k.val
  | .c708 k => 0x11 + k.val
  | .dvb => 0x20
def serviceBit (v : Config.CaptionService) : Nat := match v with
  | .cc k => k.val
  | .c708 k => 8 + k.val
  | .dvb => 16

/-- CAPTIONS of a source. -/
def captionsOf (kind codec : Nat) (p : Config.Program) : Nat :=
  natSum ((List.range 17).map fun b => if p.captions.any fun v => serviceOk kind codec v && serviceBit v == b then 2 ^ b else 0)

/-- KIND and text of a cue: a bitmap has no text. -/
def cueKind (b : Config.CueBody) : Nat := match b with
  | .text _ => 0
  | .bitmap => 1
def cueText (b : Config.CueBody) : List Byte := match b with
  | .text t => t
  | .bitmap => []

/-- The cues of a source. -/
def sourceCues (kind number codec : Nat) (bytes : List Byte) : List Config.Cue :=
  (Config.cues kind number bytes).filter fun c => serviceOk kind codec c.service

/-! ### Decoding a sample (R299, R301, R317) -/

/-- Pictures that frames `fr` need, directly or indirectly, by decoding order. -/
def picturesNeeded (i : SrcInfo) (fr : List Nat) : List Nat :=
  (List.range i.prog.pictures.length).reverse.foldl (fun need k =>
    if need.contains k then need ++ (((i.prog.pictures[k]?).map (·.refs)).getD []).filter (fun q => decide (q < k) && !need.contains q) else need)
    (fr.flatMap fun n => ((i.frames[n]?).map (·.pics)).getD []).eraseDups

/-- The pictures decoded for frames `fr`: from the last random-access picture from which each of them is decodable, the later ones they need.
None: there is no such picture. -/
def picturesDecoded (i : SrcInfo) (fr : List Nat) : Option (List Nat) :=
  let need := picturesNeeded i fr
  let first := need.foldl min (need.headD 0)
  match (List.range (first + 1)).reverse.find? fun k => (i.prog.pictures[k]?).any (·.randomAccess) with
  | some k => some (if need.contains k then need else k :: need)
  | none => none

/-- A plane of a decoded frame. -/
def planeOf (kind number : Nat) (bytes : List Byte) (grain : Bool) (n plane w h depth : Nat) : List Nat :=
  (List.range (w * h)).map fun k => Config.planeSample kind number bytes grain n plane k % 2 ^ depth

/-- A decoded frame of a source; film grain is AV1's. -/
def decodedFrame (kind number : Nat) (i : SrcInfo) (bytes : List Byte) (grain : Bool) (n : Nat) : Config.Frame :=
  let f := (i.frames[n]?).getD default
  let g := grain && i.codec == 3
  let cw := if f.chroma = 0 then 0 else (f.width + 1) / 2
  let ch := if f.chroma = 1 then (f.height + 1) / 2 else f.height
  { width := f.width, height := f.height, chroma := f.chroma, depth := f.depth
    y := planeOf kind number bytes g n 0 f.width f.height f.depth
    cb := planeOf kind number bytes g n 1 cw ch f.depth, cr := planeOf kind number bytes g n 2 cw ch f.depth }

/-- The chroma sample location of a source (R301): AV1 CSP_COLOCATED is type 2 and its other values type 0; otherwise the stream's, or 0. -/
def chromaLocOf (i : SrcInfo) : Nat :=
  if i.codec = 3 then (if i.prog.colocated then 2 else 0) else i.prog.chromaLoc.getD 0

end Sys2Proof.Machine
end

