-- ==== Sys2Proof/Machine/Dill.lean ====
section
/-! DEFINITION. What Dill computes (R293-R310): the clips of a generation, frame selection, crop, resize, colour conversion, layouts, and
the bytes of a shard. -/

namespace Sys2Proof.Machine

/-! ### Clips (R290, R291) -/

/-- A clip of `n` frames from frame `a` on contains a break. -/
def hasBreak (i : SrcInfo) (a n : Nat) : Bool := i.breaks.any fun b => decide (a ≤ b) && decide (b + 1 < a + n)

/-- First frames of the clips of a source. -/
def srcClips (g : Generation) (x : Source) : List Nat :=
  let n := x.info.frames.length
  if n < g.clipFrames || g.stride = 0 then []
  else
    ((List.range ((n - g.clipFrames) / g.stride + 1)).map (· * g.stride)).filter fun a =>
      !(g.excludeBreaks && hasBreak x.info a g.clipFrames)

/-- Clips of a generation, and the source and first frame of local clip `k`. -/
def clipCount (g : Generation) : Nat := natSum (g.sources.map fun x => (srcClips g x).length)
def clipFrom (g : Generation) : List Source → Nat → Option (Source × Nat)
  | [], _ => none
  | x :: t, k =>
    let l := srcClips g x
    if k < l.length then (l[k]?).map fun a => (x, a) else clipFrom g t (k - l.length)
def clipAt (g : Generation) (k : Nat) : Option (Source × Nat) := clipFrom g g.sources k

/-! ### The run descriptor (R320) -/

def rFlag (d : List Byte) (i : Nat) : Bool := bitAt (fld d 5 1) i
def rEpoch (d : List Byte) : Nat := fld d 0x10 4
def rN (d : List Byte) : Nat := fld d 0x18 8
def rBase (d : List Byte) : Nat := fld d 0x20 8
def rBatch (d : List Byte) : Nat := fld d 0x2C 4
def rRule (d : List Byte) : Nat := fld d 0x54 1
def rDeint (d : List Byte) : Nat := fld d 0x55 1
def rT (d : List Byte) : Nat := fld d 0x56 2
def rStride (d : List Byte) : Nat := fld d 0x58 4
def rOffset (d : List Byte) : Nat := fld d 0x5C 4
def rRateNum (d : List Byte) : Nat := fld d 0x60 4
def rRateDen (d : List Byte) : Nat := fld d 0x64 4
def rCropMode (d : List Byte) : Nat := fld d 0x68 1
def rFilter (d : List Byte) : Nat := fld d 0x69 1
def rOutW (d : List Byte) : Nat := fld d 0x74 2
def rOutH (d : List Byte) : Nat := fld d 0x76 2
def rDtype (d : List Byte) : Nat := fld d 0x78 1
def rLayout (d : List Byte) : Nat := fld d 0x79 1

/-! ### Draws and frame selection (R296, R298) -/

/-- D(n) of an element (R296). -/
def draw (seed : Dword) (e g n : Nat) : Nat :=
  (thyme64 seed (BitVec.ofNat 32 (0xFF000000 + e)) (BitVec.ofNat 64 (2 ^ 63 + g * 4096 + n))).toNat

/-- A draw reduced to [0, m). -/
def pick (d m : Nat) : Nat := d * m / 2 ^ 64

/-- The index of the list element nearest `target / num`, the earlier on a tie (R298: RATE). -/
def nearest (num target : Nat) : List Nat → Nat → Nat × Nat → Nat
  | [], _, best => best.1
  | p :: t, i, best =>
    let d := (p * num - target) + (target - p * num)
    nearest num target t (i + 1) (if d < best.2 then (i, d) else best)

/-- Frames of a clip of `f` frames selected by a run, as offsets in the clip; `pts` are the clip's. -/
def selectFrames (d : List Byte) (f d0 : Nat) (pts : List Nat) : List Nat :=
  let t := rT d
  (List.range t).map fun j =>
    match rRule d with
    | 0 => rOffset d + j * rStride d
    | 1 => if t = 1 then 0 else j * (f - 1) / (t - 1)
    | 2 => pick d0 (f - (t - 1) * rStride d) + j * rStride d
    | _ =>
      let p0 := pts.headD 0
      let target := p0 * rRateNum d + j * 90000 * rRateDen d
      nearest (rRateNum d) target pts 0 (0, (p0 * rRateNum d - target) + (target - p0 * rRateNum d))

/-- A rule whose frames stay in [0, F), as far as the descriptor alone says (R298). -/
def ruleFits (d : List Byte) (f : Nat) : Bool :=
  match rRule d with
  | 0 => decide (rOffset d + (rT d - 1) * rStride d < f)
  | 2 => decide ((rT d - 1) * rStride d < f)
  | _ => true

/-! ### Pictures (R299, R300) -/

/-- Every second row of a plane of width `w`, from row `o` on. -/
def fieldRows (w o : Nat) (l : List Nat) : List Nat :=
  if w = 0 then [] else ((List.range (l.length / w)).filter fun r => r % 2 == o).flatMap fun r => (l.drop (r * w)).take w

/-- Width of a frame's chroma planes. -/
def chromaW (x : Config.Frame) : Nat := if x.chroma = 0 then 0 else (x.width + 1) / 2

/-- The input picture: an interlaced frame woven, or one field of it (R299). -/
def deinterlace (mode : Nat) (interlaced : Bool) (x : Config.Frame) : Config.Frame :=
  if !interlaced || mode = 0 then x
  else
    let o := mode - 1
    { x with height := (x.height + 1 - o) / 2, y := fieldRows x.width o x.y, cb := fieldRows (chromaW x) o x.cb
             cr := fieldRows (chromaW x) o x.cr }

/-- The crop rectangle of a picture; none: it leaves the picture (R300). -/
def cropRect (d : List Byte) (d1 d2 w h : Nat) : Option (Nat × Nat × Nat × Nat) :=
  let cw := fld d 0x70 2
  let ch := fld d 0x72 2
  match rCropMode d with
  | 0 => some (0, 0, w, h)
  | 1 => if w < cw || h < ch then none else some (2 * ((w - cw) / 4), 2 * ((h - ch) / 4), cw, ch)
  | 2 => if w < cw || h < ch then none else some (2 * pick d1 ((w - cw) / 2 + 1), 2 * pick d2 ((h - ch) / 2 + 1), cw, ch)
  | _ =>
    let cx := fld d 0x6C 2
    let cy := fld d 0x6E 2
    if w < cx + cw || h < cy + ch then none else some (cx, cy, cw, ch)

/-! ### Resize (R301-R303) -/

/-- The exact quotient rounded to nearest, ties away from zero. -/
def rndAway (a : Int) (b : Nat) : Int :=
  let m := (2 * a.natAbs + b) / (2 * b)
  if a < 0 then -(m : Int) else (m : Int)

/-- The difference of the weights' sum from 4,096 added to the weight of largest magnitude, the lowest tap on ties (R302). -/
def fixWeights (l : List (Int × Int)) : List (Int × Int) :=
  let diff := 4096 - l.foldl (fun a x => a + x.2) 0
  let top := natMax (l.map fun x => x.2.natAbs)
  if diff = 0 then l else modFirst (fun x => x.2.natAbs == top) (fun x => (x.1, x.2 + diff)) l

/-- Taps of output sample `x` on an axis, as (source sample, weight): filter, L, O, u, q (R301, R302). -/
def tapsAt (filter len out u q x : Nat) : List (Int × Int) :=
  let pos : Int := (((2 * x + 1) * len * 65536 / (2 * out * u) : Nat) : Int) - q
  let base := pos / 65536
  let p : Int := pos / 1024 % 64
  match filter with
  | 0 => [((((2 * x + 1) * len / (2 * out * u) : Nat) : Int), 4096)]
  | 1 => fixWeights [(base, 64 * (64 - p)), (base + 1, 64 * p)]
  | 2 => fixWeights [
      (base - 1, rndAway (-p * p * p + 128 * p * p - 4096 * p) 128), (base, rndAway (3 * p * p * p - 320 * p * p + 524288) 128),
      (base + 1, rndAway (-3 * p * p * p + 256 * p * p + 4096 * p) 128), (base + 2, rndAway (p * p * p - 64 * p * p) 128)]
  | _ =>
    let l := len / u
    let a := x * l
    let b := (x + 1) * l
    fixWeights (((List.range ((b + out - 1) / out - a / out)).map (· + a / out)).map fun j =>
      (((j : Nat) : Int), rndAway (((4096 * (min b ((j + 1) * out) - max a (j * out)) : Nat)) : Int) l))

/-- A sample of a row, clamped to it. -/
def clampAt (row : List Int) (n : Nat) (i : Int) : Int := row.getD (min i.toNat (n - 1)) 0

/-- A row or column filtered: rounding term and shift as given. -/
def filterAxis (filter len out u q : Nat) (round shift : Nat) (row : List Int) : List Int :=
  (List.range out).map fun x =>
    ((tapsAt filter len out u q x).foldl (fun acc t => acc + t.2 * clampAt row (len / u) t.1) (round : Int)) / (2 ^ shift : Nat)

/-- The transpose of a list of rows of `n` entries. -/
def transpose (n : Nat) (rows : List (List Int)) : List (List Int) := (List.range n).map fun x => rows.map fun r => r.getD x 0

/-- Offset q of an axis: luma and unsubsampled axes, or a subsampled chroma axis with 2δ (R301). -/
def axisQ (u delta2 : Nat) : Nat := if u = 1 then 32768 else 16384 + delta2 * 16384

/-- A plane resized (R301-R303): plane and its width, rectangle in luma samples, subsampling and siting of each axis, output size; values
of 10 bits in, of 12 bits out. -/
def resizePlane (filter : Nat) (plane : List Nat) (pw : Nat) (rect : Nat × Nat × Nat × Nat) (ux uy dx dy outW outH depth : Nat) : List (List Int) :=
  let (cx, cy, cw, ch) := rect
  let rows : List (List Int) := (List.range (ch / uy)).map fun y =>
    (((plane.drop ((cy / uy + y) * pw + cx / ux)).take (cw / ux)).map fun v => ((v * 2 ^ (10 - depth) : Nat) : Int))
  let h := rows.map fun r => (filterAxis filter cw outW ux (axisQ ux dx) 128 8 r).map fun v => signed 16 (unsign 16 v)
  let v := (transpose outW h).map fun c => (filterAxis filter ch outH uy (axisQ uy dy) 8192 14 c).map fun v => max 0 (min 4095 v)
  transpose outH v

/-- Twice δ horizontally and vertically of a chroma sample location (R301). -/
def siting (loc : Nat) : Nat × Nat :=
  match loc with
  | 0 => (0, 1)
  | 1 => (1, 1)
  | 2 => (0, 0)
  | 3 => (1, 0)
  | 4 => (0, 2)
  | 5 => (1, 2)
  | _ => (0, 1)

/-! ### Colour (R304-R306) -/

/-- Kr and Kb in ten-thousandths. -/
def lumaK (matrix : Nat) : Nat × Nat := match matrix with
  | 0 => (2990, 1140)
  | 1 => (2126, 722)
  | _ => (2627, 593)

/-- Coefficients of R305. -/
structure ColourK where
  yo : Int
  cY : Int
  cRv : Int
  cBu : Int
  cGu : Int
  cGv : Int
  deriving DecidableEq, Repr

def colourK (matrix : Nat) (full : Bool) : ColourK :=
  let k : Nat := 65535 * 65536
  let sY := if full then 4092 else 3504
  let sC := if full then 4092 else 3584
  let (kr, kb) := lumaK matrix
  let kg := 10000 - kr - kb
  { yo := if full then 0 else 256, cY := rndAway (k : Nat) sY, cRv := rndAway ((k * 2 * (10000 - kr) : Nat) : Int) (10000 * sC)
    cBu := rndAway ((k * 2 * (10000 - kb) : Nat) : Int) (10000 * sC)
    cGu := -rndAway ((k * 2 * kb * (10000 - kb) : Nat) : Int) (kg * 10000 * sC)
    cGv := -rndAway ((k * 2 * kr * (10000 - kr) : Nat) : Int) (kg * 10000 * sC) }

def clamp16 (x : Int) : Nat := (max 0 (min 65535 (x / 65536))).toNat

/-- R16, G16 and B16 of a sample. -/
def toRgb (k : ColourK) (vy vcb vcr : Int) : Nat × Nat × Nat :=
  let y := vy - k.yo
  let u := vcb - 2048
  let v := vcr - 2048
  (clamp16 (k.cY * y + k.cRv * v + 32768), clamp16 (k.cY * y + k.cGu * u + k.cGv * v + 32768), clamp16 (k.cY * y + k.cBu * u + 32768))

/-- Bytes of an element. -/
def dtypeBytes (d : List Byte) : Nat := match rDtype d with
  | 0 => 1
  | 3 => 4
  | _ => 2

/-- A channel value in DTYPE (R306). -/
def dtypeElem (d : List Byte) (c r : Nat) : Nat :=
  let scaled : FVal := (fmaF (.fin false r 0) (fpValue fpFP32 (fld d (0x80 + 4 * c) 4)) (fpValue fpFP32 (fld d (0x8C + 4 * c) 4))).1
  match rDtype d with
  | 0 => (r + 128) / 257
  | 1 => r
  | 2 => (fpWrite fpBF16 false scaled).1
  | _ => f32Bits scaled

/-- The matrix and range of a source under a run (R304); the height that decides between BT.601 and BT.709 is the frame's, before DEINT (log entry
32). -/
def matrixFor (d : List Byte) (i : SrcInfo) (h : Nat) : Nat :=
  if fld d 0x6A 1 != 0 then Config.matrixOf (fld d 0x6A 1) else i.prog.matrix.getD (if h ≤ 576 then 0 else 1)
def rangeFor (d : List Byte) (i : SrcInfo) : Bool :=
  if fld d 0x6B 1 != 0 then Config.rangeFull (fld d 0x6B 1) else i.prog.fullRange.getD false

/-- One input picture, of a frame of height `fh`, as rows of pixels, each its three elements (R300-R306). -/
def dillFrame (d : List Byte) (i : SrcInfo) (fh : Nat) (flip : Bool) (rect : Nat × Nat × Nat × Nat) (x : Config.Frame) : List (List (Nat × Nat × Nat)) :=
  let w := rOutW d
  let h := rOutH d
  let ux := if x.chroma = 0 then 1 else 2
  let uy := if x.chroma = 1 then 2 else 1
  let (dx, dy) := siting (chromaLocOf i)
  let f := rFilter d
  let yy := resizePlane f x.y x.width rect 1 1 0 0 w h x.depth
  let grey : List (List Int) := List.replicate h (List.replicate w 2048)
  let cb := if x.chroma = 0 then grey else resizePlane f x.cb (chromaW x) rect ux uy dx dy w h x.depth
  let cr := if x.chroma = 0 then grey else resizePlane f x.cr (chromaW x) rect ux uy dx dy w h x.depth
  let k := colourK (matrixFor d i fh) (rangeFor d i)
  ((yy.zip cb).zip cr).map fun r =>
    let px := ((r.1.1.zip r.1.2).zip r.2).map fun p =>
      let (a, b, c) := toRgb k p.1.1 p.1.2 p.2
      (dtypeElem d 0 a, dtypeElem d 1 b, dtypeElem d 2 c)
    if flip then px.reverse else px

/-! ### Layout (R307) -/

def chanOf (c : Nat) (p : Nat × Nat × Nat) : Nat := match c with
  | 0 => p.1
  | 1 => p.2.1
  | _ => p.2.2

/-- The elements of a tensor in layout order. -/
def layoutElems (d : List Byte) (fs : List (List (List (Nat × Nat × Nat)))) : List Nat :=
  match rLayout d with
  | 0 => fs.flatMap fun f => f.flatMap fun r => r.flatMap fun p => [p.1, p.2.1, p.2.2]
  | 1 => fs.flatMap fun f => (List.range 3).flatMap fun c => f.flatMap fun r => r.map (chanOf c)
  | _ =>
    let pt := fld d 0x7A 1
    let ph := fld d 0x7B 1
    let pw := fld d 0x7C 1
    (List.range (rT d / pt)).flatMap fun a => (List.range (rOutH d / ph)).flatMap fun b => (List.range (rOutW d / pw)).flatMap fun c =>
      ((fs.drop (a * pt)).take pt).flatMap fun f => ((f.drop (b * ph)).take ph).flatMap fun r =>
        ((r.drop (c * pw)).take pw).flatMap fun p => [p.1, p.2.1, p.2.2]

/-- SAMPLE_BYTES (R308). -/
def sampleBytes (d : List Byte) : Nat := ceilDiv (rT d * rOutH d * rOutW d * 3 * dtypeBytes d) 64 * 64

/-- A tensor's bytes. -/
def tensorBytes (d : List Byte) (fs : List (List (List (Nat × Nat × Nat)))) : List Byte :=
  fit ((layoutElems d fs).flatMap (leBytes (dtypeBytes d))) (sampleBytes d)

/-! ### Samples and shards (R308-R310) -/

/-- What a sample contributes to a shard. -/
structure SampleOut where
  record : List Byte
  tensor : List Byte
  audio : List Byte
  text : List Byte
  deriving DecidableEq, Repr

/-- A cue relative to the sample's first PTS (R310). -/
def cueBytes (p0 : Nat) (c : Config.Cue) : List Byte :=
  let ms (t : Nat) : Nat := unsign 32 (((t : Int) - p0) / 90)
  let text := cueText c.body
  leBytes 4 (ms c.start) ++ leBytes 4 (ms c.stop) ++ leBytes 1 (serviceCode c.service) ++ leBytes 1 (cueKind c.body) ++ leBytes 2 text.length
    ++ fit text (ceilDiv text.length 4 * 4)

/-- Cues inserted by start. -/
def insertCue (c : Config.Cue) : List Config.Cue → List Config.Cue
  | [] => [c]
  | x :: t => if c.start < x.start then c :: x :: t else x :: insertCue c t

/-- The crop rectangle of a sample's frames; none where one of them is left (R300). -/
def sampleRect (d : List Byte) (d1 d2 : Nat) (fs : List Config.Frame) : Option (Nat × Nat × Nat × Nat) :=
  match fs with
  | [] => none
  | f :: t =>
    match cropRect d d1 d2 f.width f.height with
    | none => none
    | some r => if t.all fun x => decide (r.1 + r.2.2.1 ≤ x.width) && decide (r.2.1 + r.2.2.2 ≤ x.height) then some r else none

/-- The source frames a sample selects. -/
def sampleFrames (d : List Byte) (seed : Dword) (g : Generation) (elem start : Nat) (x : Source) : List Nat :=
  (selectFrames d g.clipFrames (draw seed (rEpoch d) elem 0) (((x.info.frames.drop start).take g.clipFrames).map (·.pts))).map (· + start)

/-- The input pictures of a sample (R299). -/
def samplePics (d : List Byte) (x : Source) (file : List Byte) (frames : List Nat) : List Config.Frame :=
  frames.map fun n => deinterlace (rDeint d) ((x.info.frames[n]?).any (·.interlaced))
    (decodedFrame x.container x.program x.info (containerBytes x.container file) (rFlag d 2) n)

/-- A record of 64 bytes (R309). -/
def recordOf (r : SampleRec) (src flags rate first last pts : Nat) (rect : Nat × Nat × Nat × Nat) (aRel aN tRel tLen : Nat) : List Byte :=
  leBytes 8 r.pos ++ leBytes 8 r.elem ++ leBytes 4 src ++ leBytes 1 r.status ++ leBytes 1 flags ++ leBytes 2 rate ++ leBytes 4 first
    ++ leBytes 4 last ++ leBytes 8 pts ++ leBytes 2 rect.1 ++ leBytes 2 rect.2.1 ++ leBytes 2 rect.2.2.1 ++ leBytes 2 rect.2.2.2
    ++ leBytes 4 aRel ++ leBytes 4 aN ++ leBytes 4 tRel ++ leBytes 4 tLen

/-- One sample of a piece, with the lengths of the audio and text before it. -/
def sampleOut (d : List Byte) (seed : Dword) (g : Generation) (file : Source → List Byte) (aOff tOff : Nat) (r : SampleRec) : SampleOut :=
  match r.clip.bind (clipAt g) with
  | none => { record := recordOf r 0 0 0 0 0 0 (0, 0, 0, 0) aOff 0 tOff 0, tensor := zeros (sampleBytes d), audio := [], text := [] }
  | some (x, start) =>
    let e := rEpoch d
    let fr := sampleFrames d seed g r.elem start x
    let bs := file x
    let i := x.info
    let flip := rFlag d 5 && bitAt (draw seed e r.elem 3) 63
    let pics := samplePics d x bs fr
    let rect := sampleRect d (draw seed e r.elem 1) (draw seed e r.elem 2) pics
    let ok := r.status == 0
    let ptsOf (n : Nat) : Nat := ((i.frames[n]?).map (·.pts)).getD 0
    let p0 := ptsOf (fr.headD 0)
    let p1 := ptsOf (fr.getLastD 0)
    let rate := i.prog.rateNum
    let span := (p1 - p0) * rate + 90000 * i.prog.rateDen
    let bytes := containerBytes x.container bs
    let au := if rFlag d 3 then audioOf x.container i.prog else none
    let pairs := match ok && rate != 0, au with
      | true, some a => a.rate * span / (90000 * rate)
      | _, _ => 0
    let audio := match au with
      | some a => audioBytes x.container x.program bytes a p0 pairs
      | none => []
    let cues := (sourceCues x.container x.program i.codec bytes).filter fun c =>
      decide (c.start * rate < p0 * rate + span) && decide (p0 < c.stop)
    let text := if ok && rFlag d 4 then (cues.foldl (fun l c => insertCue c l) []).flatMap (cueBytes p0) else []
    let grain := i.codec == 3 && (fr.any fun n => (i.frames[n]?).any (·.grain)) && !rFlag d 2
    let laced := fr.any fun n => (i.frames[n]?).any (·.interlaced)
    let tensor := match ok, rect with
      | true, some q => tensorBytes d ((fr.zip pics).map fun y => dillFrame d i (((i.frames[y.1]?).map (·.height)).getD 0) flip q y.2)
      | _, _ => zeros (sampleBytes d)
    { record := recordOf r x.id (bnat flip + 2 * bnat laced + 4 * bnat grain) ((au.map (·.rate)).getD 0)
        (fr.headD 0) (fr.getLastD 0) p0 (rect.getD (0, 0, 0, 0)) aOff pairs tOff text.length
      tensor, audio, text }

/-- Samples of a piece in order. -/
def sampleOuts (d : List Byte) (seed : Dword) (g : Generation) (file : Source → List Byte) : Nat → Nat → List SampleRec → List SampleOut
  | _, _, [] => []
  | a, t, r :: rs =>
    let o := sampleOut d seed g file a t r
    o :: sampleOuts d seed g file (a + o.audio.length) (t + o.text.length) rs

/-- The bytes of a shard (R308), before its CRC is set. -/
def shardBody (d : List Byte) (seed : Dword) (gen batch : Nat) (os : List SampleOut) : List Byte :=
  let n := os.length
  let tOff := 256 + 64 * n
  let aOff := tOff + n * sampleBytes d
  let audio := os.flatMap (·.audio)
  let xOff := aOff + ceilDiv audio.length 64 * 64
  let text := os.flatMap (·.text)
  let head := leBytes 4 0x4448535A ++ leBytes 1 1 ++ leBytes 1 (rDtype d) ++ leBytes 1 (rLayout d) ++ leBytes 1 (bnat (rFlag d 3) + 2 * bnat (rFlag d 4))
    ++ leBytes 4 (rEpoch d) ++ slice d 0x40 2 ++ zeros 2 ++ leBytes 8 seed.toNat ++ leBytes 8 batch ++ leBytes 8 (rN d) ++ leBytes 4 (rBatch d)
    ++ leBytes 4 n ++ leBytes 2 (rT d) ++ leBytes 2 (rOutH d) ++ leBytes 2 (rOutW d) ++ leBytes 2 3 ++ slice d 0x7A 3 ++ zeros 1
    ++ leBytes 4 (sampleBytes d) ++ leBytes 4 gen ++ zeros 4 ++ leBytes 4 256 ++ leBytes 4 tOff ++ leBytes 4 aOff ++ leBytes 4 audio.length
    ++ leBytes 4 xOff ++ leBytes 4 text.length ++ leBytes 4 (xOff + text.length) ++ zeros 4 ++ slice d 0x80 24
  fit head 256 ++ os.flatMap (·.record) ++ os.flatMap (·.tensor) ++ fit audio (xOff - aOff) ++ text

end Sys2Proof.Machine
end

