-- ==== Sys2Proof/Machine/Evsel.lean ====
section
/-! DEFINITION. Evsel: frames, trunks, and sending messages (R418, R424-R431, R437). -/

namespace Sys2Proof.Machine

/-! ### Identity -/

/-- PART_NUMBER of the module's grade (R1, R72). -/
def partNumber (i : Ident) : List Byte :=
  ascii (if i.workingArrays = 128 then "MZ9-128-245L-A0" else if i.workingArrays = 120 then "MZ9-120-245L-A0" else "MZ9-112-184L-A0") 32

/-! ### Links and trunks -/

def link (s : State) (l : Nat) : Link := tget linkReset s.lnk.links l
def updLink (s : State) (l : Nat) (f : Link → Link) : State := { s with lnk := { s.lnk with links := tmod linkReset s.lnk.links l f } }
def trunk (s : State) (q : Nat) : Trunk := tget trunkReset s.lnk.trunks q
def updTrunk (s : State) (q : Nat) (f : Trunk → Trunk) : State := { s with lnk := { s.lnk with trunks := tmod trunkReset s.lnk.trunks q f } }
def conn (s : State) (q p : Nat) : Conn := tget connReset s.lnk.conns (q * 16 + p)
def updConn (s : State) (q p : Nat) (f : Conn → Conn) : State :=
  { s with lnk := { s.lnk with conns := tmod connReset s.lnk.conns (q * 16 + p) f } }

/-- The partner a link faces: its position, and the number of the link there (R418). -/
def facing (s : State) (l : Nat) : Option (Nat × Nat) :=
  if l < 84 then some ((s.rst.groupPos + l / 12 + 1) % 8, 12 * (6 - l / 12) + l % 12) else none

/-- A link of a trunk to a position that PRESENT holds (R418, R420, R436). -/
def isTrunk (s : State) (l : Nat) : Bool := (facing s l).any fun x => s.prt.cfg.links.present.getLsbD x.1

/-- The network port a link belongs to (R434). -/
def portOf (s : State) (l : Nat) : Option Nat :=
  findIx (fun q => q.lanes != 0 && decide (q.firstLink.toNat ≤ l) && decide (l < q.firstLink.toNat + q.lanes.toNat)) s.prt.cfg.links.ports

/-- The UP links of the trunk to a position. -/
def upLinks (s : State) (q : Nat) : List Nat :=
  (List.range 84).filter fun l => isTrunk s l && (facing s l).any (·.1 == q) && (link s l).st == 1

/-- MSG_TIMEOUT and RTO in microseconds (R434). -/
def msgTimeout (s : State) : Nat := let v := s.prt.cfg.links.msgTimeoutUs.toNat; if v = 0 then 10000 else v
def rtoUs (s : State) : Nat := let v := s.prt.cfg.links.rtoUs.toNat; if v = 0 then 16 else v

/-- The trunk share of a partition (R431). -/
def shTrunk (s : State) (p : Nat) : Nat := ((s.prt.cfg.links.shTrunk[p]?).getD 0).toNat

/-! ### Frames (R425) -/

/-- A header with CHK 0. -/
def evHeader (type flags part epoch psn ack msn len kind src : Nat) : List Byte :=
  leBytes 1 0x10 ++ leBytes 1 type ++ leBytes 1 flags ++ leBytes 1 part ++ leBytes 4 epoch ++ leBytes 4 psn ++ leBytes 4 ack ++ leBytes 4 msn
    ++ leBytes 2 len ++ leBytes 1 kind ++ zeros 1 ++ leBytes 4 src ++ zeros 4

/-- The CHK of a frame: CRC-32C of the header with CHK zero, and of the payload. -/
def evCheck (h payload : List Byte) : Nat := crc32c (setFld h 0x1C 4 0 ++ payload)

/-- What an Evsel frame with `n` bytes of header and payload is wrapped in (R424): an Ethernet II header of the link's MAC addresses, an IPv6 header
with link-local addresses of the two NODE_IDs, and a UDP header. -/
def evWrap (s : State) (l n : Nat) : List Byte :=
  let k := link s l
  let mac (m : Nat) : List Byte := (leBytes 6 m).reverse
  let addr (node : Nat) : List Byte := [0xFE#8, 0x80#8] ++ zeros 6 ++ (leBytes 8 node).reverse
  let far := ((facing s l).map (·.2)).getD 0
  mac (Config.linkMac k.partnerNode.toNat far) ++ mac (s.ident.macBase.toNat + l) ++ [0x86#8, 0xDD#8]
    ++ [0x60#8, 0#8, 0#8, 0#8] ++ (leBytes 2 (n + 8)).reverse ++ [17#8, 1#8] ++ addr s.ident.nodeId.toNat ++ addr k.partnerNode.toNat
    ++ (leBytes 2 7360).reverse ++ (leBytes 2 7360).reverse ++ (leBytes 2 (n + 8)).reverse ++ zeros 2

/-- Bytes queued on a link: it sends 25 each nanosecond (R415, R426, R432). -/
def queuedBytes (s : State) (l : Nat) : Nat := (link s l).txEnd - now s * 25

/-- A frame queued on a link: 86 bytes around header and payload, with FCS, preamble and gap (R424, R432). -/
def sendFrame (s : State) (l : Nat) (h payload : List Byte) : State :=
  let s := updLink s l fun k => { k with txEnd := max k.txEnd (now s * 25) + (h.length + payload.length + 86) }
  emit s (.frame l (evWrap s l (h.length + payload.length)) (setFld h 0x1C 4 (evCheck h payload)) payload)

/-- The link of a list with the fewest bytes queued, the first of equals. -/
def leastQueued (s : State) : List Nat → Option Nat
  | [] => none
  | l :: t => match leastQueued s t with
    | none => some l
    | some k => if queuedBytes s k < queuedBytes s l then some k else some l

/-- A frame sent to a partner on the UP link with the fewest bytes queued, the lowest of equals (R426). -/
def sendTo (s : State) (q : Nat) (h payload : List Byte) : State :=
  match leastQueued s ((upLinks s q).filter fun l => !blockBusy s 3 l) with
  | none => s
  | some l => sendFrame s l h payload

/-! ### Receiver's position -/

/-- PSNs run modulo 2^32; `a` is at or after `b`. -/
def psnAdd (a n : Nat) : Nat := (a + n) % 2 ^ 32
def psnDist (a b : Nat) : Nat := (a + 2 ^ 32 - b % 2 ^ 32) % 2 ^ 32

/-- The first PSN missing at or after `b`, among packets held; `fuel` bounds the run. -/
def firstMissing (held : Tbl EvPacket) (b : Nat) : Nat → Nat
  | 0 => b
  | n + 1 => if (tfind? held b).isSome then firstMissing held (psnAdd b 1) n else b

/-- ACK_PSN (R426, R428): packets of a message not yet consumed are not acknowledged in full, those of a KLOVA_REQ not at all. -/
def ackPsn (c : Conn) : Nat :=
  match c.inbox with
  | m :: _ => if m.kind = 0 then m.psn else m.lastPsn
  | [] =>
    match tfind? c.held c.rxBase with
    | some k => if k.kind = 0 then c.rxBase else firstMissing c.held c.rxBase c.held.length
    | none => c.rxBase

/-- A control frame of a connection: ACK, NACK_SEQ, NACK_RNR or CANCEL. -/
def sendControl (s : State) (q p type msn : Nat) : State :=
  let c := conn s q p
  sendTo s q (evHeader type 0 p c.txEpoch 0 (ackPsn c) msn 0 0 0) []

/-- ACK: nothing is left unacknowledged. -/
def sendAck (s : State) (q p : Nat) : State := updConn (sendControl s q p 1 0) q p fun c => { c with unacked := 0 }

/-! ### Sending messages (R426, R429) -/

/-- Packets of a message, in PSN order. -/
def msgPackets (m : OutMsg) : Nat := max 1 (ceilDiv m.payload.length 4096)

/-- Packet `i` of a message sent. -/
def sendPacket (q p : Nat) (m : OutMsg) (s : State) (i : Nat) : State :=
  let c := conn s q p
  let n := msgPackets m
  let bs := (m.payload.drop (4096 * i)).take 4096
  sendTo s q (evHeader 0 (bnat (i == 0) + 2 * bnat (i + 1 == n)) p c.txEpoch (psnAdd m.psn i) (ackPsn c) m.msn bs.length m.kind 0) bs

/-- Messages outstanding to a partner (R429). -/
def outstanding (s : State) (q : Nat) : Nat := natSum ((List.range 16).map fun p => (conn s q p).msgs.length)

/-- A message becomes outstanding and its packets are sent. -/
def startMsg (s : State) (q p : Nat) (m : OutMsg) : State :=
  let c := conn s q p
  let m := { m with psn := c.nextPsn, sentAt := now s }
  let s := updConn s q p fun c =>
    { c with msgs := c.msgs ++ [m], nextPsn := psnAdd c.nextPsn (msgPackets m)
             rto := if c.msgs.isEmpty then rtoUs s else c.rto, progressAt := if c.msgs.isEmpty then now s else c.progressAt }
  (List.range (msgPackets m)).foldl (sendPacket q p m) s

/-- Waiting messages of a connection start while the partner's bound permits (R429). -/
def pumpConn (q p : Nat) : Nat → State → State
  | 0, s => s
  | n + 1, s =>
    match (conn s q p).waiting with
    | [] => s
    | m :: t => if 8192 ≤ outstanding s q then s else pumpConn q p n (startMsg (updConn s q p fun c => { c with waiting := t }) q p m)
def pump (s : State) (q : Nat) : State := (List.range 16).foldl (fun s p => pumpConn q p ((conn s q p).waiting.length) s) s

/-- A message given to the connection with a partner. -/
def sendMsg (s : State) (q p kind : Nat) (payload : List Byte) (owner : MsgOwner) : State :=
  let c := conn s q p
  let m : OutMsg := { msn := c.nextMsn, kind, payload, psn := 0, owner, sentAt := 0, paused := 0 }
  pumpConn q p (c.waiting.length + 1) (updConn s q p fun c => { c with waiting := c.waiting ++ [m], nextMsn := (c.nextMsn + 1) % 2 ^ 32 })

/-- Packets of a message not acknowledged. -/
def unackedOf (c : Conn) (m : OutMsg) : List Nat := (List.range (msgPackets m)).filter fun i => psnDist (psnAdd m.psn i) c.acked < 2 ^ 31

/-- Every unacknowledged packet of a connection sent again, and counted (R427). -/
def resend (s : State) (q p : Nat) : State :=
  let c := conn s q p
  let n := natSum (c.msgs.map fun m => (unackedOf c m).length)
  let s := updTrunk s q fun t => { t with retx := satAdd t.retx n }
  c.msgs.foldl (fun s m => (unackedOf c m).foldl (sendPacket q p m) s) s

/-! ### Cancelling remote entries (R251) -/

/-- A message concerns a remote entry of a job's run. -/
def ownedByJob (h : Nat) (epoch : Word) (o : MsgOwner) : Bool := match o with
  | .remote job _ e _ _ => job.toNat == h && e == epoch
  | _ => false

/-- The position of the partner that a HELLO has shown to have a NODE_ID. -/
def nodePos (s : State) (node : Nat) : Option Nat :=
  ((List.range 84).find? fun l => isTrunk s l && (link s l).partnerNode.toNat == node && node != 0).bind fun l => (facing s l).map (·.1)

/-- A job that ends: its messages concern no one any more, and a CANCEL goes out for each outstanding entry of its remote tables. -/
def cancelRemotes (s : State) (p h : Nat) (epoch : Word) (entries : List Remote) : State :=
  let drop (m : OutMsg) : OutMsg := if ownedByJob h epoch m.owner then { m with owner := .nobody } else m
  let s := entries.foldl (fun s e =>
    updConn s e.pos p fun c => { c with msgs := c.msgs.map drop, waiting := c.waiting.filter fun m => !ownedByJob h epoch m.owner }) s
  (entries.filter fun e => !e.landed).foldl (fun s e => sendControl s e.pos p 5 e.msn) s

/-! ### Completions of an Evsel mailbox (R437) -/

/-- A completion of an Evsel mailbox goes back as a KLOVA_CPL message, unless its partner has a new incarnation since (R430). -/
def postEvsel (s : State) (n : Nat) (m : Mailbox) (w : Waiting) (bytes : List Byte) : State :=
  let recs := if w.replay || w.oow then m.recs else
    match tfind? m.recs w.cpl.hseq.toNat with
    | some k => if k.dseq == 0 && k.cpl == some w.cpl then tput m.recs w.cpl.hseq.toNat { k with dseq := m.nextDseq } else m.recs
    | none => m.recs
  let s := updMb s n fun m => { m with recs, waiting := m.waiting.tail, nextDseq := m.nextDseq + 1 }
  match w.evsel with
  | none => s
  | some o =>
    if (trunk s o.pos).incarnation.any fun x => x.toNat == o.incarnation then sendMsg s o.pos o.part 1 (bytes ++ w.outPayload) .nobody else s

end Sys2Proof.Machine
end

