-- ==== Sys2Proof/Machine/Jobs.lean ====
section
/-! DEFINITION. Placing, evicting, restoring and ending jobs (R239-R247, R251-R254) and the JOB opcodes but LOAD (R255). -/

namespace Sys2Proof.Machine

/-! ### Placement (R239, R240) -/

/-- The jobs resident on a cluster, with their slots. -/
def residents (s : State) (c : Nat) : List (Nat × Job) :=
  (List.range 4).filterMap fun i => if (slot s c i).st == .empty then none else (slotJob s c i).map fun j => (i, j)

/-- A context of `j` as rank `r` fits in slot `i` of cluster `c` (R239, R240, R234, R455). -/
def fitsAt (s : State) (j : Job) (r c i : Nat) : Bool :=
  let res := residents s c
  let cache := natMax (jCacheSegs j :: res.map fun x => jCacheSegs x.2)
  let views := natSum (jViewSegs j :: res.map fun x => jViewSegs x.2)
  let conflict := jPinned j && res.any fun x =>
    jPinned x.2 && (jArrayUse x.2 (slot s c x.1).rank) &&& (jArrayUse j r) != 0
  clusterOwner s c == some j.part && (slot s c i).st == .empty && !(cluster s c).katFail && !blockBusy s 0 c && decide (cache + views ≤ 7) &&
    !conflict && (!jPinned j || decide (jArrayUse j r < 2 ^ workingArrays s c))

/-- The clusters of the rectangle at a corner, rank by rank (R239). -/
def rectClusters (j : Job) (x0 y0 : Nat) : List Nat :=
  (List.range (jWidth j)).map fun r => clusterAt (x0 + r % jShapeW j) (y0 + r / jShapeW j)

/-- Every rank of a list of clusters fits in slot `i`. -/
def allFit (s : State) (j : Job) (i : Nat) (cs : List Nat) : Bool := (withIx 0 cs).all fun x => fitsAt s j x.1 x.2 i

/-- The corners of a rectangle of a job's shape, lowest y0 first, then lowest x0. -/
def corners (j : Job) : List (Nat × Nat) :=
  (List.range (5 - jShapeH j)).flatMap fun y => (List.range (9 - jShapeW j)).map fun x => (x, y)

/-- Ranks placed anywhere: rank by rank on the clusters that can take them, in ascending order (R239). -/
def scatterRanks (s : State) (j : Job) (i : Nat) : List Nat :=
  (List.range 32).foldl (fun acc c =>
    if acc.length < jWidth j && fitsAt s j acc.length c i then acc ++ [c] else acc) []

/-- The placement of a job in slot index `i`, if any. -/
def placeIn (s : State) (j : Job) (i : Nat) : Option (List Nat) :=
  if jShapeW j = 0 then
    let cs := scatterRanks s j i
    if cs.length == jWidth j then some cs else none
  else ((corners j).map fun xy => rectClusters j xy.1 xy.2).find? (allFit s j i)

/-- The placement the scheduler chooses: the lowest slot index (R239). -/
def placement (s : State) (j : Job) : Option (Nat × List Nat) :=
  (List.range 4).findSome? fun i => (placeIn s j i).map fun cs => (i, cs)

/-! ### Segments of a slot (R126, R240) -/

/-- Every line of a cluster's cache is given up (R126). -/
def flushCache (s : State) (c : Clu) : State :=
  let s := (tget [] s.coh.caches c.val).foldl (fun s x => evictLine s (cluAgent c) x.1) s
  updClu s c.val fun x => { x with ways := [], trees := [] }

/-- The cache segments the residents of a cluster call for (R240). -/
def cacheWanted (s : State) (c : Nat) : Nat := natMax ((residents s c).map fun x => jCacheSegs x.2)

/-- CLU_SEG_CFG with the use of one segment set. -/
def setSeg (cfg : Word) (g use : Nat) : Word := BitVec.ofNat 32 (setBits cfg.toNat (3 * g + 2) (3 * g) use)

/-- A segment cleared: it reads as zero (R126). -/
def clearSeg (s : State) (c g : Nat) : State := clearRange s (storeBase c + g * 0x01000000) 0x01000000

/-- Cluster cycles a segment's clearing takes: its 1 MiB of valid bits at 64 B in each cycle (R126, R495, log entry 117). -/
def clearCycles : Nat := 16384

/-- Segments given to uses; every segment that changes use is cleared. One that leaves a use takes `clearCycles` from then on; an
unassigned one was cleared when its last use ended. -/
def assignSegs (s : State) (c : Nat) (use : Nat → Nat) : State :=
  (List.range 7).foldl (fun s g =>
    if segUse s c g == use g then s
    else clearSeg (updClu s c fun x => { x with
      segCfg := setSeg x.segCfg g (use g)
      clearing := if segUse s c g == 7 then x.clearing else tput x.clearing g clearCycles }) c g) s

/-- Segments arranged on a cluster after a change of residents: slot `i` gets `v` segments, the cache gets `n`. A change of `n` first
empties the cache (R126). Free segments are taken lowest first (log entry 19). -/
def arrangeSegs (s : State) (c : Clu) (i v n : Nat) : State :=
  let old := cacheSegs s c.val
  let s := if old == n then s else flushCache s c
  let keep (g : Nat) : Bool := segUse s c.val g < 4 && segUse s c.val g != i || (old == n && segUse s c.val g == 4)
  let free := (List.range 7).filter fun g => !keep g
  let mine := free.take v
  let cache := if old == n then [] else (free.drop v).take n
  assignSegs s c.val fun g => if keep g then segUse s c.val g else if mine.contains g then i else if cache.contains g then 4 else 7

/-- CLU_SLOT_XLAT of a slot: its segments in ascending order (R124). -/
def xlatOf (s : State) (c i v : Nat) : Word :=
  let mine := (List.range 7).filter fun g => segUse s c g == i
  BitVec.ofNat 32 (v * 2 ^ 21 + natSum ((withIx 0 mine).map fun x => x.2 * 8 ^ x.1))

/-- The slot's segments arranged and mapped. -/
def mapSlot (s : State) (c : Clu) (i v : Nat) : State :=
  let s := arrangeSegs s c i v (cacheWanted s c.val)
  updClu s c.val fun x => { x with xlat := tput x.xlat i (xlatOf s c.val i v) }

/-- A cluster number as an index. -/
def cluIx (c : Nat) : Clu := ⟨c % 32, by omega⟩

/-- A context is placed in a slot (R241): fresh, or as saved. -/
def placeCtx (s : State) (j : Job) (i r c : Nat) (ctx : Slot) : State :=
  let fc := (slot s c i).faultCode
  let s := updSlot s c i fun _ => { ctx with st := .running, job := BitVec.ofNat 32 (jobHandle j), rank := r, epoch := j.runEpoch, faultCode := fc }
  mapSlot s (cluIx c) i (jViewSegs j)

/-- A slot is released: its segments read as zero before any other use, its arrays are freed (R126, R246, R254). -/
def releaseSlot (s : State) (c i : Nat) : State :=
  let s := updSlot s c i fun sl => { slotReset with faultCode := sl.faultCode }
  let s := (List.finRange 4).foldl (fun s k => arrayBoundary s c k) s
  let s := (List.range 4).foldl (fun s k => updArr s c k fun a =>
    if a.slot.val == i then { a with st := if a.st == 1 then 0 else a.st, held := none, pinned := false, quantum := 0 } else a) s
  let s := updClu s c fun x => { x with xlat := tput x.xlat i 0 }
  arrangeSegs s (cluIx c) i 0 (cacheWanted s c)

/-! ### The rows of the scheduler -/

/-- Saved contexts of a partition (R257: SCH_SAVED). -/
def savedOf (s : State) (p : Nat) : Nat := natSum (s.sch.jobs.map fun x => if x.2.part == p then x.2.saved.length else 0)

/-- Contexts of a job that are saved or being saved (R247). -/
def savedWith (j : Job) : Nat := j.saved.length + (if j.st == .saving then jWidth j else 0)

/-- The next order number of the scheduler. -/
def nextOrder (s : State) : State := { s with sch := { s.sch with order := s.sch.order + 1 } }

/-- A job waits for its placement: QUEUED, or SAVED and eligible. -/
def waitsForSlots (j : Job) : Bool := (j.st == .queued || j.st == .saved && j.eligible) && j.ending.isNone

/-- A victim inserted before those taken after it. -/
def insertVictim (x : Nat × Job) : List (Nat × Job) → List (Nat × Job)
  | [] => [x]
  | y :: t =>
    if jPriority x.2 < jPriority y.2 || (jPriority x.2 == jPriority y.2 && y.2.placedAt < x.2.placedAt) then x :: y :: t
    else y :: insertVictim x t

/-- The running jobs of lower priority than a QUEUED job, in the order the scheduler takes them: the lowest priority first, and among
equals the most recently placed (R246). -/
def victimOrder (s : State) (q : Job) : List (Nat × Job) :=
  let l := s.sch.jobs.filter fun x =>
    x.2.part == q.part && x.2.st == .running && x.2.ending.isNone && decide (jPriority x.2 < jPriority q)
  l.foldr insertVictim []

/-- The jobs of a partition that are leaving their slots: being saved. -/
def leaving (s : State) (p : Nat) : List (Nat × Job) := s.sch.jobs.filter fun x => x.2.part == p && x.2.st == .saving

/-- The state as it would be with the slots of some jobs released. -/
def slotsEmptied (s : State) (l : List (Nat × Job)) : State :=
  l.foldl (fun s x => x.2.clusters.foldl (fun s c => updSlot s c x.2.slotIx fun _ => slotReset) s) s

/-- The job fits once these jobs, and those being saved, have left. -/
def fitsWithout (s : State) (q : Job) (l : List (Nat × Job)) : Bool := (placement (slotsEmptied s (leaving s q.part ++ l)) q).isSome

/-- The jobs to evict for a QUEUED job that cannot be placed: the shortest run of `victimOrder` that makes room, less those that turn
out not to be needed (R246; log entry 70). None where no eviction makes room. -/
def victimsFor (s : State) (q : Job) : Option (List (Nat × Job)) :=
  let all := victimOrder s q
  ((List.range (all.length + 1)).find? fun n => fitsWithout s q (all.take n)).map fun n =>
    (all.take n).foldl (fun l x => let l' := l.filter fun y => y.1 != x.1; if fitsWithout s q l' then l' else l) (all.take n)

/-- Room among saved contexts, those being saved counted, for `n` more of a partition (R247). -/
def savedRoom (s : State) (p n : Nat) : Bool :=
  decide (natSum (s.sch.jobs.map fun x => if x.2.part == p then savedWith x.2 else 0) + n ≤ 256) &&
    decide (natSum (s.sch.jobs.map fun x => savedWith x.2) + n ≤ 4096)

/-- A QUEUED job is having room made for it by eviction: the victims still to be saved, where there are any, have room (R246, R247). -/
def makesRoom (s : State) (q : Job) : Bool :=
  match victimsFor s q with
  | some l => q.st == .queued && savedRoom s q.part (natSum (l.map fun y => jWidth y.2))
  | none => false

/-- Another waiting job of the partition goes first: one of higher priority, or of equal priority and eligible earlier, that can be
placed now or that evictions make room for (R246; log entry 70). -/
def goesAfter (s : State) (key : Nat) (j : Job) : Bool :=
  s.sch.jobs.any fun x =>
    x.1 != key && x.2.part == j.part && waitsForSlots x.2 &&
      (decide (jPriority j < jPriority x.2) || (jPriority x.2 == jPriority j && decide (x.2.queuedAt < j.queuedAt))) &&
      ((placement s x.2).isSome || makesRoom s x.2)

/-- JOB_PLACE: a QUEUED job is placed where all its ranks fit together (R239, R241). -/
def execJobPlace (h : Word) (s : State) : Res :=
  match jobOf s h.toNat with
  | none => .next s
  | some j =>
    if j.st != .queued || j.ending.isSome || goesAfter s (jobKey h.toNat) j then .next s
    else
      match placement s j with
      | none => .next s
      | some (i, cs) =>
        let s := (withIx 0 cs).foldl (fun s x => placeCtx s j i x.1 x.2 slotReset) s
        let key := jobKey h.toNat
        let b := (pst s j.part).budget
        let s := updJob s key fun j =>
          { j with st := .running, slotIx := i, clusters := cs, placedAt := s.sch.order, budget0 := b }
        .next (nextOrder s)

/-- A job's segments copied to its rank's save area, or back (R246). -/
def saveSegs (s : State) (j : Job) (c i r : Nat) : State :=
  (List.range (jViewSegs j)).foldl (fun s v =>
    ncMove s (storeBase c + xlatSeg s c i v * 0x01000000) (jSaveArea j r + v * 0x01000000) 0x01000000) s
def restoreSegs (s : State) (j : Job) (c i r : Nat) : State :=
  (List.range (jViewSegs j)).foldl (fun s v =>
    let a := jSaveArea j r + v * 0x01000000
    let s := ncRead s a 0x01000000
    storeMove s a (storeBase c + xlatSeg s c i v * 0x01000000) 0x01000000) s

/-- The context record of a rank is written: its fields have no layout, so its bytes are free values (R237, R246; log entry 79). -/
def saveRecord (s : State) (j : Job) (r : Nat) : State :=
  drawn (ncWrite s (jSaveArea j r - 0x10000) ((List.range 65536).map (Config.contextByte s.free)))

/-- Every rank of a job being SAVED is written and its slots released (R246). -/
def saveJob (s : State) (key : Nat) (j : Job) : State :=
  let i := j.slotIx
  let saved := (withIx 0 j.clusters).map fun x => (x.1, slot s x.2 i)
  let s := (withIx 0 j.clusters).foldl (fun s x => releaseSlot (saveSegs (saveRecord s j x.1) j x.2 i x.1) x.2 i) s
  let s := updSchPart s j.part fun x => { x with evictions := satInc x.evictions }
  nextOrder (updJob s key fun j => { j with st := .saved, saved, clusters := [], queuedAt := s.sch.order })

/-- Some QUEUED job of higher priority can be placed only in the slots of this job and of others it evicts with it, and their saved
contexts have room (R246, R247). -/
def evictionCalled (s : State) (key : Nat) : Bool :=
  s.sch.jobs.any fun x =>
    x.2.st == .queued && x.2.ending.isNone && (placement s x.2).isNone &&
      makesRoom s x.2 && ((victimsFor s x.2).getD []).any (·.1 == key)

/-- No array command of the job is executing (R164, R246, R254). -/
def arraysDone (s : State) (j : Job) : Bool :=
  (jobContexts s j).all fun x => x.2.fin.all fun y => match y.eng with
    | .arr _ => false
    | _ => true

/-- Eviction begins: every rank's slot is SAVING, and its dispatcher reads no more (R241, R246). -/
def beginSave (s : State) (key : Nat) (j : Job) (eligible : Bool) : State :=
  let s := j.clusters.foldl (fun s c => updSlot s c j.slotIx fun sl => { sl with st := .saving }) s
  updJob s key fun j => { j with st := .saving, eligible }

/-- JOB_EVICT: the victim of a QUEUED job of higher priority stops; a job being SAVED, by this or by SUSPEND, is written to its rank areas
and leaves its slots once its executing array commands have ended (R246, R247). -/
def execJobEvict (h : Word) (s : State) : Res :=
  match jobOf s h.toNat with
  | none => .next s
  | some j =>
    let key := jobKey h.toNat
    if j.ending.isSome then .next s
    else if j.st == .saving then .next (if arraysDone s j then saveJob s key j else s)
    else if j.st == .running && evictionCalled s key then
      let s' := beginSave s key j true
      .next (if arraysDone s j then saveJob s' key j else s')
    else .next s

/-- On restore a LANDED entry is copied from the landing area into its DST rows and posts its ticket (R251). -/
def deliverLanded (s : State) (j : Job) (c i r : Nat) (e : Remote) : State :=
  let w := e.cmd.word
  let n := fld w 0x18 4
  let a := jLandingArea j r + fld w 0x1C 4
  if e.isPut then finishCmd s c i .remote e.cmd
  else
    let s := ncRead s a n
    finishCmd (viewWrite s c i (fld w 0xC 4) (mread s.mem a n)) c i .remote e.cmd

/-- One rank restored to a slot. -/
def restoreRank (s : State) (j : Job) (i r c : Nat) : State :=
  let ctx := tget slotReset j.saved r
  let landed := ctx.remotes.filter (·.landed)
  let s := placeCtx s j i r c { ctx with remotes := ctx.remotes.filter fun e => !e.landed }
  let s := restoreSegs s j c i r
  landed.foldl (fun s e => deliverLanded s j c i r e) s

/-- JOB_RESTORE: a SAVED job that is eligible is read back where all its ranks fit (R246, R251). -/
def execJobRestore (h : Word) (s : State) : Res :=
  match jobOf s h.toNat with
  | none => .next s
  | some j =>
    if j.st != .saved || !j.eligible || j.ending.isSome || goesAfter s (jobKey h.toNat) j then .next s
    else
      match placement s j with
      | none => .next s
      | some (i, cs) =>
        let s := (withIx 0 cs).foldl (fun s x => restoreRank s j i x.1 x.2) s
        let s := updJob s (jobKey h.toNat) fun j =>
          { j with st := .running, slotIx := i, clusters := cs, placedAt := s.sch.order, saved := [], eligible := false }
        .next (nextOrder s)

/-! ### Ending a job -/

/-- The contexts of a job wherever they are: in slots or saved. -/
def contextsOf (s : State) (j : Job) : List Slot := (jobContexts s j).map (·.2) ++ j.saved.map (·.2)

/-- The totals of a job's contexts over those kept from contexts that have left (R255). -/
def jobTotals (s : State) (j : Job) : Job :=
  (contextsOf s j).foldl (fun j sl =>
    { j with path := j.path ||| sl.path, fallbacks := satAdd j.fallbacks sl.fallbacks.toNat, flags := nfOr j.flags sl.flags
             vclip := j.vclip + sl.vclip.toNat, vflush := j.vflush + sl.vflush.toNat, stall := j.stall + sl.stall.toNat }) j

/-- Budget cycles of a run so far, or to its end (R255). -/
def jobBudget (s : State) (j : Job) : Nat :=
  match j.st with
  | .loaded => 0
  | .queued => 0
  | .ended => j.ran
  | _ => (pst s j.part).budget.toNat - j.budget0.toNat

/-- The run record (R255). -/
def runRecord (s : State) (j0 : Job) : List Byte :=
  let j := jobTotals s j0
  let f := j.fault.getD { code := 0, rank := 0, cluster := 0, slot := 0, pos := 0, addr := 0 }
  leBytes 8 j.seed.toNat ++ leBytes 32 j.path.toNat ++ leBytes 4 j.fallbacks.toNat ++ leBytes 4 (nfBits j.flags)
    ++ leBytes 8 j.vclip ++ leBytes 8 j.vflush ++ leBytes 8 (jobBudget s j) ++ leBytes 8 j.stall ++ leBytes 1 f.code ++ leBytes 1 f.rank
    ++ leBytes 1 f.cluster ++ leBytes 1 f.slot ++ leBytes 4 f.pos ++ leBytes 8 f.addr ++ zeros 32

/-- The state code of a job (R241). -/
def jobStateCode : JobState → Nat
  | .queued => 0
  | .running => 1
  | .saving => 2
  | .saved => 3
  | .restoring => 4
  | .ended => 5
  | .loaded => 6

/-- The tile references of a holder are dropped; incomplete copies left without reference or PROMOTE go (R273, R280). -/
def dropHolder (s : State) (holder : Nat) : State :=
  let strip (t : Tbl TileCopy) : Tbl TileCopy :=
    (t.map fun x => (x.1, { x.2 with refs := x.2.refs.filter (· != holder) })).filter fun x =>
      x.2.complete && !x.2.chunks.isEmpty || !x.2.refs.isEmpty
  { s with tie := { s.tie with objs := s.tie.objs.map fun x => (x.1, { x.2 with t1 := strip x.2.t1, root := strip x.2.root }) } }

/-- The schedule of a job whose run ends: references dropped, reading cancelled, progress back to the start (R273). -/
def endSchedule (s : State) (key holder : Nat) : State :=
  let s := dropHolder s holder
  match tfind? s.tie.scheds key with
  | some x => { s with tie := { s.tie with scheds := tput s.tie.scheds key { x with pass := 0, doneIx := [], begun := [], failed := [] } } }
  | none => s

/-- A RUN that launched the job completes with its run record (R255). -/
def completeRun (s : State) (j : Job) (status detail : Nat) : State :=
  match j.run with
  | none => s
  | some r =>
    let t := jobTotals s j
    finish s r { status, detail, result := bnat (t.path != 0), out := runRecord s j }

/-- A job ends: RUN completes, remote entries are cancelled with the slots that hold them, slots are released, saved contexts are
discarded, the schedule ends (R251, R254, R255). A job that did not reach END on every rank gets a new run epoch. -/
def endJob (s : State) (key : Nat) (j : Job) (e : JobEnd) : State :=
  let t := jobTotals s j
  let s := completeRun s j e.status e.detail
  let s := cancelRemotes s j.part (jobHandle j) j.runEpoch ((contextsOf s j).flatMap (·.remotes))
  let s := j.clusters.foldl (fun s c => releaseSlot s c j.slotIx) s
  let s := updJob s key fun j =>
    { t with st := .ended, ran := jobBudget s j, run := none, clusters := [], saved := [], ending := none, eligible := false
             runEpoch := if e.status == 0 then j.runEpoch else j.runEpoch + 1, suspends := [] }
  let s := j.suspends.foldl (fun s r => finish s r (ansErr 0x0103 5)) s
  endSchedule s key (jobHandle j)

/-- JOB_TEARDOWN: a job that is being torn down ends once its executing array commands have ended (R254, R255). -/
def execJobTeardown (h : Word) (s : State) : Res :=
  match jobOf s h.toNat with
  | none => .next s
  | some j =>
    match j.ending with
    | none => .next s
    | some e => if arraysDone s j then .next (endJob s (jobKey h.toNat) j e) else .next s

/-- Every rank of a job has reached END (R255). -/
def allEnded (s : State) (j : Job) : Bool := !j.clusters.isEmpty && (jobContexts s j).all fun x => x.2.ended

/-- END: no further word is read; the rank ends, and END posts, once its earlier commands have finished; the job ends when every rank
has (R248, R249, R255). -/
def execStreamEnd (c : Clu) (i : SlotIx) (s : State) : Res :=
  syncRow c i 0x8F (fun j q s =>
    if (jobContexts s j).any (fun x => x.2.barrier.isSome) then contextFault s c.val i.val 0x24 q.pos 0
    else
      let s := updSlot s c.val i.val fun sl => { sl with ended := true }
      if !allFinished (slot s c.val i.val) then s
      else
        let s := syncDone s c.val i.val q
        if (jobContexts s j).all (fun x => x.2.ended && x.2.cur.isNone) then
          endJob s (jobKey (jobHandle j)) j { status := 0, detail := 0 }
        else s) s

/-- A job is stopped and ended at once, as a reset of its partition does (R246). -/
def abortJob (s : State) (key : Nat) : State :=
  match tfind? s.sch.jobs key with
  | none => s
  | some j => endJob (stopSlots s j) key j { status := 0x0002, detail := 0 }

/-- Every job of a partition ends and its job table is emptied (R246). -/
def resetJobs (s : State) (p : Nat) : State :=
  let keys := (s.sch.jobs.filter fun x => x.2.part == p).map (·.1)
  let s := keys.foldl abortJob s
  { s with
    sch := { s.sch with jobs := s.sch.jobs.filter fun x => x.2.part != p }
    tie := { s.tie with scheds := s.tie.scheds.filter fun x => x.1 / 256 != p } }

/-! ### The JOB class (R255) -/

/-- A JOB request on an existing job of the request's partition (R255); else NOT_FOUND. -/
def withJob (s : State) (r : ReqId) (x : Exec) (f : Nat → Job → State) : State :=
  let h := prm x 0x20 4
  match jobOf s h with
  | some j => if j.part == reqPart r && h != 0 then f (jobKey h) j else finish s r (ansErr 0x0004)
  | none => finish s r (ansErr 0x0004)

/-- JOB_STATE with the current state (R255). -/
def jobStateErr (s : State) (r : ReqId) (j : Job) : State := finish s r (ansErr 0x0103 (jobStateCode j.st))

/-- RUN launches a loaded job and stays executing until the job ends (R242, R255). -/
def execJobRun (r : ReqId) (s : State) : Res :=
  runReq s r 3 2 fun s x =>
    withJob s r x fun key j =>
      if j.run == some r then s
      else if j.st != .loaded && j.st != .ended then jobStateErr s r j
      else
        let seed := if jSeedGiven j then BitVec.ofNat 64 (fld j.header 8 8) else freeVal s
        let s := if jSeedGiven j then s else drawn s
        let s := updJob s key fun j =>
          { j with st := .queued, run := some r, runEpoch := j.runEpoch + 1, seed, forceStrict := bitAt (prm x 0x24 4) 0
                   ending := none, fault := none, ran := 0, path := 0, fallbacks := 0, flags := nf0, vclip := 0, vflush := 0, stall := 0
                   queuedAt := s.sch.order }
        nextOrder s

/-- SUSPEND begins the eviction, or waits for room among saved contexts (R246, R247, R255). -/
def execSuspend (r : ReqId) (s : State) : Res :=
  runReq s r 3 3 fun s x =>
    withJob s r x fun key j =>
      if j.st != .running || j.ending.isSome then jobStateErr s r j
      else if savedRoom s j.part (jWidth j) then
        let s := updJob (beginSave s key j false) key fun j => { j with suspends := j.suspends.filter (· != r) }
        finish (commit s r) r (ansOk 0)
      else if j.suspends.contains r then s
      else updJob s key fun j => { j with suspends := j.suspends ++ [r] }

/-- RESUME makes a SAVED job eligible for placement (R255). -/
def execResume (r : ReqId) (s : State) : Res :=
  runReq s r 3 4 fun s x =>
    withJob s r x fun key j =>
      if j.st != .saved then jobStateErr s r j
      else finish (commit (nextOrder (updJob s key fun j => { j with eligible := true, queuedAt := s.sch.order })) r) r (ansOk 0)

/-- KILL begins the teardown; on a job already ending, or whose ranks have all reached END, it has no effect (R255). -/
def execKill (r : ReqId) (s : State) : Res :=
  runReq s r 3 5 fun s x =>
    withJob s r x fun key j =>
      if j.st == .loaded || j.st == .ended then jobStateErr s r j
      else if j.ending.isSome || allEnded s j then finish s r (ansOk 1)
      else finish (commit (beginEnd s key { status := 0x0105, detail := 0 }) r) r (ansOk 0)

/-- STATUS returns the run record as far as the job has run (R255). -/
def execJobStatus (r : ReqId) (s : State) : Res :=
  runReq s r 3 6 fun s x =>
    withJob s r x fun _ j => finish s r (ansOk (jobStateCode j.st) (runRecord s j))

/-- UNLOAD removes a job that is not launched (R255). -/
def execUnload (r : ReqId) (s : State) : Res :=
  runReq s r 3 7 fun s x =>
    withJob s r x fun key j =>
      if j.st != .loaded && j.st != .ended then jobStateErr s r j
      else
        let s := { s with
          sch := { s.sch with jobs := tdel s.sch.jobs key }
          tie := { s.tie with scheds := tdel s.tie.scheds key } }
        finish (commit s r) r (ansOk 0)

/-- A RUN cancelled by its upper timeout, by ABORT or by a reset. Of a job that already ends, the timeout has no effect: its end completes the
RUN (R254). Else the RUN completes at once, and the job is torn down as by KILL, unless it ends already or every rank has reached END (R255). -/
def cancelRun (s : State) (r : ReqId) (status : Nat) : State :=
  match s.sch.jobs.find? fun x => x.2.run == some r with
  | none => finish s r (ansErr status)
  | some x =>
    if status == 0x0003 && x.2.ending.isSome then s
    else
      let s := completeRun s x.2 status 0
      let s := updJob s x.1 fun j => { j with run := none }
      if allEnded s x.2 then s else beginEnd s x.1 { status, detail := 0 }

/-- A SUSPEND that no longer waits (R247). -/
def cancelSuspend (s : State) (r : ReqId) : State :=
  { s with sch := { s.sch with jobs := s.sch.jobs.map fun x => (x.1, { x.2 with suspends := x.2.suspends.filter (· != r) }) } }

/-! ### The dispatcher (R127-R129, R542) -/

/-- Where the next word of a slot's stream stands in DRAM (R236, R237). -/
def wordPlace (j : Job) (sl : Slot) : Nat := j.imageBase + jStreamOff j sl.rank + sl.pos

/-- The stream runs past STREAM_LEN without END (R249). -/
def streamOver (j : Job) (sl : Slot) : Bool := decide (jStreamLen j sl.rank < sl.pos + 32)

/-- The dispatcher can take the slot's next word: it may read, and the word's queue has room (R129, R158). -/
def takesWord (s : State) (c i : Nat) : Bool :=
  match slotJob s c i with
  | none => false
  | some j =>
    let a := wordPlace j (slot s c i)
    mayDispatch s c i j &&
      (streamOver j (slot s c i) || !rangeBusy s a 32 && (poisoned s a 32 || hasRoom (slot s c i) (mread (ncRead s a 32).mem a 32)))

/-- The fault of a word whose header has reserved bits set or whose opcode is not assigned (R127, R128). The faults of THY_FILL have an order of
their own (R229); a fault of an array command is shown by its array (R171). -/
def wordFault (s : State) (c : Clu) (i : SlotIx) (w : List Byte) (pos : Nat) : Option State :=
  if !opAssigned (wOp w) then some (contextFault s c.val i.val 0x01 pos 0)
  else if headerReserved w then
    some (if wOp w == 0x9F then contextFault s c.val i.val ((tfFault s c.val i.val w).getD 0x02) pos 0
      else if wOp w == 0x20 || wOp w == 0x21 then arrFault s c i (wArr w) 0x02 pos
      else contextFault s c.val i.val 0x02 pos 0)
  else none

/-- A synchronisation command that does not wait is carried out in the cycle in which it is read (R542). -/
def carryOut (c : Clu) (i : SlotIx) (s : State) : Res :=
  match (slot s c.val i.val).cur with
  | none => .next s
  | some q =>
    match wOp q.word with
    | 0x80 => execSyncNop c i s
    | 0x81 => execBarrier c i s
    | 0x84 => execRwait c i s
    | 0x85 => execDlArm c i s
    | 0x86 => execDlCheck c i s
    | 0x87 => execDlEnd c i s
    | 0x88 => execPathStore c i s
    | 0x89 => execJump c i s
    | 0x8A => execLoop c i s
    | 0x8B => execYield c i s
    | 0x8F => execStreamEnd c i s
    | _ => .next s

/-- The dispatcher reads the next word of slot `i`, checks its opcode and header, and hands it on (R127, R128). -/
def readWord (c : Clu) (i : SlotIx) (j : Job) (s : State) : Res :=
  let sl := slot s c.val i.val
  let a := wordPlace j sl
  if streamOver j sl then .next (contextFault s c.val i.val 0x20 sl.pos 0)
  else if poisoned s a 32 then .next (mediaFault s c.val i.val sl.pos a)
  else
    let s := ncRead s a 32
    let w := mread s.mem a 32
    match wordFault s c i w sl.pos with
    | some t => .next t
    | none => carryOut c i (routeWord s c.val i.val { word := w, pos := sl.pos, seq := sl.nextSeq })

/-- The slot whose word the dispatcher reads: the first in rotating order that has its word ready and can take it (R542). -/
def dispatchTurn (s : State) (c : Nat) (ready : BitVec 4) : Option Nat :=
  (rotated (cluster s c).dispSlot.val).find? fun i => ready.getLsbD i && takesWord s c i

/-- DISPATCH_WORD: the dispatcher, which has read no word in this cluster cycle, reads one; `ready` names the slots whose next word has
come from DRAM (R542). -/
def execDispatchWord (c : Clu) (ready : BitVec 4) (s : State) : Res :=
  if (cluster s c.val).dispatched then .next s
  else
    match dispatchTurn s c.val ready with
    | none => .next s
    | some n =>
      let i : SlotIx := ⟨n % 4, by omega⟩
      match slotJob s c.val i.val with
      | none => .next s
      | some j => readWord c i j (updClu s c.val fun k => { k with dispatched := true, dispSlot := i })

end Sys2Proof.Machine
end

