-- ==== Sys2Proof/Machine/Health.lean ====
section
/-! DEFINITION. Health (R71, R374, R409): the partitions a controller covers, temperatures and their thresholds, spares and wear, the Critical
Warning and the events its changes raise, and what a read of flash counts (R406, R408). -/

namespace Sys2Proof.Machine

/-! ### Partitions a controller covers -/

/-- Partitions a controller covers: its own, or every active one that is not sealed (R372, R378). -/
def coveredParts (s : State) (f : Nat) : List Nat :=
  match ctrlPart s f with
  | some p => [p]
  | none => if f = 0 then (List.range 16).filter fun p => isActive s p && !isSealed s p else []

/-- Die groups of a partition. -/
def partGroups (s : State) (p : Nat) : List Nat := (List.range 32).filter fun g => (prec s p).dieGroups.getLsbD g && groupPopulated s g

/-! ### Temperatures (R464, R535) -/

/-- Tenths of a degree Celsius as kelvin, to nearest. -/
def kelvin (t : Int) : Nat := ((2 * t + 5473) / 20).toNat
def tjOf (s : State) (d : Nat) : Int := tget 0 s.pwr.tj d
/-- The NVMe sensors: 0 the composite, 1-7 as R535. -/
def sensorK (s : State) (i : Nat) : Nat :=
  if i = 0 then natMax ((List.range 5).map fun d => kelvin (tjOf s d))
  else if i ≤ 5 then kelvin (tjOf s (i - 1))
  else if i = 6 then kelvin s.pwr.inlet else kelvin s.pwr.outlet

/-- Threshold of a sensor, over or under (Feature 04h, R535). -/
def tempThresh (s : State) (sensor : Nat) (under : Bool) : Nat :=
  match tfind? (ctrl s 0).feats (0x400 + 16 * bnat under + sensor) with
  | some w => w.toNat
  | none => if under then 273 else if 6 ≤ sensor then 318 else 373

/-! ### The health logs (R407-R409) -/

/-- Lowest available spare of some groups as a percentage (R407), rounded up: 0 % says that no spare is left (log entry 132). -/
def spareMin (s : State) (gs : List Nat) : Nat := gs.foldl (fun a g => min a (((grp s g).spare * 100 + 1727) / 1728)) 100

/-- Highest percentage used: mean QLC-equivalent erases, counted in twentieths over 1,130 superblocks, of 1,500 (R405, R409). -/
def pctUsed (s : State) (gs : List Nat) : Nat :=
  min 255 (natMax (gs.map fun g => natSum ((grp s g).sbs.map fun x => x.2.erases) * 100 / (1130 * 20 * 1500)))

/-- Uncorrectable reads of some groups in the last 24 h. -/
def recentUncorr (s : State) (gs : List Nat) : Nat :=
  natSum (gs.map fun g => ((grp s g).uncorrTimes.filter fun t => now s < t + 86400000000000).length)

/-- A temperature outside its thresholds (R535). -/
def tempWarning (s : State) : Bool :=
  !s.pwr.tj.isEmpty && (List.range 8).any fun i => decide (tempThresh s i false ≤ sensorK s i) || decide (sensorK s i ≤ tempThresh s i true)

/-- Critical Warning (R409); the hold-up bit speaks of a measurement made since the last reset (R403). -/
def criticalWarning (s : State) (gs : List Nat) : Nat :=
  bnat (decide (spareMin s gs < 10)) + 2 * bnat (tempWarning s) + 4 * bnat (decide (16 < recentUncorr s gs) || s.ras.critDram)
    + 8 * bnat (gs.any fun g => (grp s g).st == 2) + 16 * bnat (s.ftl.measured && decide (s.ftl.energy.toNat < 600))

/-- What the health logs say of a partition: Critical Warning, Available Spare, Percentage Used, Media and Data Integrity Errors. -/
def healthOf (s : State) (p : Nat) : List Nat :=
  let gs := partGroups s p
  [criticalWarning s gs, spareMin s gs, pctUsed s gs, tget 0 s.ftl.mediaErrors p]

/-- The part of it that the Endurance Group Information log holds (R410). -/
def enduranceOf (h : List Nat) : List Nat := (h.headD 0 &&& 0xD) :: h.tail

/-- HEALTH events of a partition whose health logs have changed since they last told, 02h and 09h (R71; log entry 52). -/
def tellPart (s : State) (p : Nat) : State :=
  let h := healthOf s p
  let old := tget [0, 100, 0, 0] s.ftl.healthTold p
  if !isActive s p || h == old then s
  else
    let s := eventFor { s with ftl := { s.ftl with healthTold := tput s.ftl.healthTold p h } } p 0x0005 0x02
    if enduranceOf h == enduranceOf old then s else eventFor s p 0x0005 0x09

/-- Critical warnings that a controller sees newly set raise an asynchronous event if its Feature 0Bh enables them (R374; log entry 52). -/
def tellCtrl (s : State) (f : Nat) : State :=
  let w := criticalWarning s ((coveredParts s f).flatMap (partGroups s))
  let old := tget 0 s.ftl.warnTold f
  if !ctrlExists s f || w == old then s
  else
    let s := { s with ftl := { s.ftl with warnTold := tput s.ftl.warnTold f w } }
    let new := w &&& (255 ^^^ old) &&& (tget 0 (ctrl s f).feats 0x0B).toNat % 256
    if new = 0 then s else nEvent s f (1 + (if bitAt new 1 then 1 else if bitAt new 0 then 2 else 0) * 256 + 0x020000)

/-- The events that a change of health raises. -/
def healthWatch (s : State) : State := (List.range 17).foldl tellCtrl ((List.range 16).foldl tellPart s)

/-- The entry of a DRAM line found uncorrectable or poisoned by DX's DMA, with the critical warning it raises (R496, R505). -/
def logDram (s : State) (part : Option Nat) (a job : Nat) : State :=
  healthWatch (logErr s { source := 1, severity := 1, part, address := a / 64 * 64, job, requester := 33 })

/-! ### Reads of flash (R406, R408, R409) -/

/-- The superblock of a page that holds a unit: its base, else its first fragment; none where it holds no page. -/
def unitSb (r : FragRec) : Option Nat :=
  if bits r.base 39 38 != 0 then some (aBlock r.base)
  else ((List.range 4).find? fun j => bitAt r.mask j && (r.frags[j]?).getD 0 != 0).map fun j => aBlock (fragPage ((r.frags[j]?).getD 0))

/-- The superblock that holds a unit is scheduled for rewrite (R406). -/
def schedUnit (s : State) (g : Nat) (r : FragRec) : State := ((unitSb r).map fun k => schedRewrite s g k).getD s

/-- What a read of a unit counts and schedules, and whether its data is good. -/
def noteRead (s : State) (ns u : Nat) (ecc : EccResult) : State × Bool :=
  let r := unitRec s ns u
  let g := if entryOf s ns u = 0 then unitGroup s ns u else aGroup (entryOf s ns u)
  match ecc with
  | .hard b => if (grp s g).thresh.toNat < b then (schedUnit s g r, true) else (s, true)
  | .soft n =>
    if n.val = 0 then (s, true)
    else (schedUnit (updGrp s g fun x => { x with soft := satInc x.soft }) g r, true)
  | .parity => (schedUnit (updGrp s g fun x => { x with soft := satInc x.soft, recov := satInc x.recov }) g r, true)
  | .uncorrectable =>
    let s := updGrp s g fun x => { x with uncorr := satInc x.uncorr, uncorrTimes := x.uncorrTimes ++ [now s] }
    let s := { s with ftl := { s.ftl with mediaErrors := tmod 0 s.ftl.mediaErrors (nsPart ns) (· + 1) } }
    (healthWatch (logErr s { source := 0x0E, severity := 1, part := some (nsPart ns), unit := g }), false)

end Sys2Proof.Machine
end

