-- ==== Sys2Proof/Machine/NvmeIo.lean ====
section
/-! DEFINITION. NVMe I/O commands (R366-R371, R393, R394, R402, R408) and the completion of die operations (R389, R407). -/

namespace Sys2Proof.Machine

/-- Starting block and count of a Read, Write or Write Zeroes. -/
def ioLba (e : List Byte) : Nat := fld e 40 8
def ioCount (e : List Byte) : Nat := bits (cdw e 12) 15 0 + 1

/-- The namespace is attached to the controller and visible to it (R360, R371). -/
def nsAttached (s : State) (f ns : Nat) : Bool :=
  nsVisible s f ns && (match nsOf s ns with
    | some x => x.attached.getLsbD f
    | none => false)

/-- The status that refuses an I/O command before it acts, with its DNR: namespace, readiness, range, transfer size (R371). -/
def ioCheck (s : State) (k : CmdKey) (e : List Byte) (ranged data : Bool) : Option ((Nat × Nat) × Bool) :=
  let ns := sqNsid e
  if fieldsBad false e then some (stField, true)
  else if !nsAttached s k.ctrl.val ns then some (stNs, true)
  else if !nsReady s ns then some (stNotReady, false)
  else if data && 64 < ioCount e then some (stField, true)
  else if ranged && ((nsOf s ns).map (·.blocks)).getD 0 < ioLba e + ioCount e then some (stLba, true)
  else none

/-- The status that refuses a write to a range: read-only groups, a claimed extent (R371). -/
def writeRefused (s : State) (ns lba n : Nat) : Option (Nat × Nat) :=
  if (nsReadOnly s ns).isSome then some stProtected
  else if claimed s ns lba n then some stDenied
  else none

/-- Deallocated ranges of a Dataset Management command: (lba, blocks). -/
def dsmRanges (bs : List Byte) (n : Nat) : List (Nat × Nat) :=
  (List.range n).map fun i => (fld bs (16 * i + 8) 8, fld bs (16 * i + 4) 4)

/-- An earlier write-type command still outstanding may touch the same blocks (R366). -/
def earlierOverlap (s : State) (x : NCmd) : Bool :=
  s.nvm.ctrls.any fun c => c.2.cmds.any fun y =>
    writeType y && y.done.isNone && decide (y.order < x.order) && sqNsid y.sqe == sqNsid x.sqe &&
      (sqOpc y.sqe == 9 || sqOpc x.sqe == 9 || overlaps (ioLba y.sqe) (ioCount y.sqe) (ioLba x.sqe) (ioCount x.sqe))

/-- In an ordered queue an earlier write-type command is not journalled yet (R367). -/
def orderedWait (s : State) (x : NCmd) : Bool :=
  x.ordered && (ctrl s x.key.ctrl.val).cmds.any fun y =>
    y.key.sq == x.key.sq && writeType y && y.done.isNone && !y.journalled && decide (y.order < x.order)

/-- The volatile write cache takes a write (R402, R403): legacy flush mode, the cache enabled by Feature 06h of its controller, and the last
measurement of the bank at least 6.00 J. A write of an ordered queue is journalled before it completes (R367; log entry 131). -/
def cacheTakes (s : State) (x : NCmd) : Bool :=
  ((nsOf s (sqNsid x.sqe)).any (·.legacy)) && (tget 1 (ctrl s x.key.ctrl.val).feats 6).getLsbD 0 && decide (600 ≤ s.ftl.energy.toNat) && !x.ordered

/-- Host counters of a partition (R409). -/
def countWrite (s : State) (ns n : Nat) : State :=
  let p := nsPart ns
  { s with ftl := { s.ftl with writtenBlocks := tmod 0 s.ftl.writtenBlocks p (· + n), writeCmds := tmod 0 s.ftl.writeCmds p (· + 1) } }
def countRead (s : State) (ns n : Nat) : State :=
  let p := nsPart ns
  { s with ftl := { s.ftl with readBlocks := tmod 0 s.ftl.readBlocks p (· + n), readCmds := tmod 0 s.ftl.readCmds p (· + 1) } }

/-- A die may take another operation (R256). -/
def dieFree (s : State) (a : Nat) : Bool := decide (((grp s (aGroup a)).ops.filter fun o => o.die == aDie a).length < 32)

/-- The program of a page goes into flight for a command. -/
def issueOp (k : Option CmdKey) (s : State) (a : Nat) : State :=
  updGrp s (aGroup a) fun g =>
    { g with ops := g.ops ++ [{ kind := .program, die := aDie a, plane := aPlane a, sb := aBlock a, page := a, owner := k }] }

/-- A native write: its pages are programmed, which passes the commit point (R386); it takes effect and completes when every program has
(NAND_OP_DONE). It waits while a die's queue has no place (R256). -/
def startWrite (s : State) (k : CmdKey) (x : NCmd) (bs : List Byte) : State :=
  let ns := sqNsid x.sqe
  let lba := ioLba x.sqe
  let n := ioCount x.sqe
  let (s', q) := writeSeq s ((unitsOf lba n).map fun u => unitGroup s ns u.1)
  match progPages s' (writePages ns lba q bs) with
  | none => s
  | some (s', l) =>
    if !(l.all fun p => dieFree s p.2) then s
    else
      let s' := (l.map (·.2)).foldl (issueOp (some k)) s'
      updCmd s' k fun c => { c with committed := true, journalled := true, pend := l.map (·.2) }

/-- A cached write: it is acknowledged once it is in the cache (R402). -/
def cachedWrite (s : State) (k : CmdKey) (x : NCmd) (bs : List Byte) : State :=
  let ns := sqNsid x.sqe
  let n := ioCount x.sqe
  let s := (List.range n).foldl (fun s i => cachePut s ns (ioLba x.sqe + i) (slice bs (4096 * i) 4096)) s
  nDone (countWrite s ns n) k stOk

/-- The state in which a write is done once there is room for it: the cache is programmed first where it is full; none while it must wait
(R395, R402, R404). -/
def writeRoom (s : State) (x : NCmd) : Option State :=
  let ns := sqNsid x.sqe
  let p := nsPart ns
  let n := ioCount x.sqe
  if cacheTakes s x then
    let s := if cacheCap s p < cacheBytes s p + n * 4096 then drainCache s fun m => nsPart m == p else s
    if cacheCap s p < cacheBytes s p + n * 4096 || !drainRoom s p n then none else some s
  else if hostWritable s ns (ioLba x.sqe) n then some s else none

/-- WRITE (R366, R370, R371, R393, R402). -/
def execWrite (k : CmdKey) (s : State) : Res :=
  nRow s k false 0x01 fun s x =>
    let ns := sqNsid x.sqe
    let lba := ioLba x.sqe
    let n := ioCount x.sqe
    if x.committed || earlierOverlap s x || orderedWait s x then s
    else
      match ioCheck s k x.sqe true true with
      | some (st, d) => nDone s k st 0 d
      | none =>
        match writeRefused s ns lba n with
        | some st => nDone s k st
        | none =>
          match writeRoom s x with
          | none => s
          | some s =>
            match hostGet s k x.sqe (n * 4096) with
            | .error st => nDone s k st
            | .ok (s, bs) => if cacheTakes s x then cachedWrite s k x bs else startWrite s k x bs

/-- The shares that R384 asks of the partition. -/
def sharesBound (s : State) (p : Nat) : Bool :=
  let r := prec s p
  decide (16 ≤ r.shPcieOut.toNat) && decide (4 ≤ r.shPcieIn.toNat) && decide (4 ≤ r.shDram.toNat) && decide (4 ≤ r.shFabric.toNat)

/-- READ bound of R384 and R385 in ns: by where the unit lies and the retries it took; none: no bound holds. -/
def urgentBound (slc : Bool) : EccResult → Option Nat
  | .hard _ => some (if slc then 95000 else 300000)
  | .soft n => some ((if slc then 95000 else 300000) + n.val * (if slc then 42000 else 152000))
  | .parity => none
  | .uncorrectable => none

/-- An urgent Read counted in the latency log and registers (R375, R388). -/
def logUrgent (s : State) (f p lat : Nat) (slc : Bool) (ecc : EccResult) : State :=
  let late := sharesBound s p && match urgentBound slc ecc with
    | some b => decide (b < lat)
    | none => false
  let retried := match ecc with
    | .hard _ => false
    | .soft n => n.val != 0
    | .parity => true
    | .uncorrectable => true
  updCtrl s f fun x =>
    { x with
      urgReads := x.urgReads + 1, urgRetried := x.urgRetried + bnat retried, urgMax := max x.urgMax lat, urgOver := x.urgOver + bnat late
      buckets := tmod 0 x.buckets (min 15 (lat / 25000)) (· + 1)
      regUrgMax := BitVec.ofNat 32 (max x.regUrgMax.toNat (min lat 0xFFFFFFFF))
      regUrgOver := if late then satInc x.regUrgOver else x.regUrgOver }

/-- The unit of a read whose sensing `ecc` tells of: the first one of the range that flash holds; none where no unit is mapped (R391). -/
def sensedUnit (s : State) (ns lba n : Nat) : Option Nat := ((unitsOf lba n).map (·.1)).find? fun u => entryOf s ns u != 0

/-- READ (R366, R367, R375, R408): the newest data, or Unrecovered Read Error; an urgent Read's latency runs from its doorbell. A die that
programs or erases suspends that operation for an urgent Read and resumes it after (R383), both within this row. -/
def execRead (k : CmdKey) (ecc : EccResult) (latency : Nat) (s : State) : Res :=
  nRow s k false 0x02 fun s x =>
    let f := k.ctrl.val
    let ns := sqNsid x.sqe
    let lba := ioLba x.sqe
    let n := ioCount x.sqe
    if x.ordered && (ctrl s f).cmds.any (fun y => y.key.sq == x.key.sq && writeType y && y.done.isNone && decide (y.order < x.order)) then s
    else
      match ioCheck s k x.sqe true true with
      | some (st, d) => nDone s k st 0 d
      | none =>
        let u := sensedUnit s ns lba n
        let slc := (u.bind fun u => unitSb (unitRec s ns u)).any isSlcSb
        let (s, good) := (u.map fun u => noteRead s ns u ecc).getD (s, true)
        let s := updCmd s k fun c => { c with committed := true }
        let s := if x.urgent then
            let s := reach s (x.dbTs + latency)
            logUrgent s f (nsPart ns) (now s - x.dbTs) slc ecc
          else s
        if !good then nDone s k stUnrecovered
        else
          match hostPut s k x.sqe (ftlRead s ns lba n) with
          | .error st => nDone s k st
          | .ok s => nDone (countRead s ns n) k stOk

/-- A zeroing or deallocation of some ranges, journalled; none while one must wait. -/
def journalRanges (kind : PageKind) (ns : Nat) : List (Nat × Nat) → State → Option State
  | [], s => some s
  | (a, n) :: t, s =>
    match ftlJournal s kind ns a n with
    | none => none
    | some s => journalRanges kind ns t s

/-- A journalled command completes, or waits for a free page. -/
def journalled (s : State) (k : CmdKey) (kind : PageKind) (ns : Nat) (rs : List (Nat × Nat)) : State :=
  match journalRanges kind ns rs s with
  | some s' => nDone (updCmd s' k fun c => { c with committed := true, journalled := true }) k stOk
  | none => s

/-- WRITE_ZEROES (R394). -/
def execWriteZeroes (k : CmdKey) (s : State) : Res :=
  nRow s k false 0x08 fun s x =>
    let ns := sqNsid x.sqe
    if earlierOverlap s x || orderedWait s x then s
    else
      match ioCheck s k x.sqe true false with
      | some (st, d) => nDone s k st 0 d
      | none =>
        match writeRefused s ns (ioLba x.sqe) (ioCount x.sqe) with
        | some st => nDone s k st
        | none => journalled s k .zeroes ns [(ioLba x.sqe, ioCount x.sqe)]

/-- DATASET_MANAGEMENT: the deallocate attribute only; others are ignored (R369, R394). -/
def execDatasetManagement (k : CmdKey) (s : State) : Res :=
  nRow s k false 0x09 fun s x =>
    let ns := sqNsid x.sqe
    let n := bits (cdw x.sqe 10) 7 0 + 1
    if earlierOverlap s x || orderedWait s x then s
    else
      match ioCheck s k x.sqe false false with
      | some (st, d) => nDone s k st 0 d
      | none =>
        if !bitAt (cdw x.sqe 11) 2 then nDone s k stOk
        else
          match hostGet s k x.sqe (16 * n) with
          | .error st => nDone s k st
          | .ok (s, bs) =>
            let rs := (dsmRanges bs n).filter fun r => r.2 != 0
            let size := ((nsOf s ns).map (·.blocks)).getD 0
            if rs.any (fun r => size < r.1 + r.2) then nDone s k stLba
            else
              match rs.findSome? fun r => writeRefused s ns r.1 r.2 with
              | some st => nDone s k st
              | none => journalled s k .dealloc ns rs

/-- The cached writes of some namespaces are programmed, and then `g` follows; until they all are, it waits (R402). -/
def flushed (s : State) (which : Nat → Bool) (g : State → State) : State :=
  let s := drainCache s which
  if s.ftl.cache.any fun x => which x.1 then s else g s

/-- NVME_FLUSH: at once in a native namespace; a legacy one first programs its cached writes (R369, R402). -/
def execNvmeFlush (k : CmdKey) (s : State) : Res :=
  nRow s k false 0x00 fun s x =>
    let ns := sqNsid x.sqe
    if ns == 0xFFFFFFFF then flushed s (nsAttached s k.ctrl.val) fun s => nDone s k stOk
    else
      match ioCheck s k x.sqe false false with
      | some (st, d) => nDone s k st 0 d
      | none => flushed s (· == ns) fun s => nDone s k stOk

/-! ### Die operations (R389, R407) -/

/-- An operation of a command is in flight somewhere. -/
def opsOf (s : State) (k : CmdKey) : Bool := s.ftl.groups.any fun g => g.2.ops.any fun o => o.owner == some k

/-- The last program of a write is done: its pages take effect together and it completes (R370, R393). -/
def finishWrite (s : State) (k : CmdKey) : State :=
  match findCmd s k with
  | none => s
  | some x =>
    if opsOf s k then s
    else
      let s := x.pend.foldl (fun s a => match pageAt s a with
        | some p => updGrp (applyPage s p a) (aGroup a) fun g => { g with hostUnits := g.hostUnits + 1 }
        | none => s) s
      let s := dropCached s (sqNsid x.sqe) (ioLba x.sqe) (ioCount x.sqe) false
      nDone (countWrite s (sqNsid x.sqe) (ioCount x.sqe)) k stOk

/-- The operation finished on a die leaves the group's list. -/
def dropOp (s : State) (g : Nat) (die : Nat) (kind : NandKind) : State :=
  updGrp s g fun x => { x with ops := dropFirst (fun o => o.die == die && o.kind == kind) x.ops }

/-- A superblock whose erases are all done is free again; an SLC erase counts as 1/20 of a QLC erase (R405). -/
def eraseDone (s : State) (g k : Nat) : State :=
  if (grp s g).ops.any fun o => o.kind == .erase && o.sb == k then s
  else updSb s g k fun b => { b with st := .free, next := 0, stripe := [], erases := b.erases + if isSlcSb k then 1 else 20 }

/-- A write whose data finds no page within the retry budget fails: its pages count for nothing, and it completes with Internal Error (R371,
R407, R408). -/
def failWrite (s : State) (g : Nat) (k : CmdKey) : State :=
  let l := ((findCmd s k).map (·.pend)).getD []
  let s := { s with ftl := { s.ftl with pages := l.foldl (fun t a => tdel t (a % 2 ^ 38)) s.ftl.pages } }
  let s := updCmd s k fun c => { c with pend := [] }
  nDone (logErr s { source := 0x0E, severity := 1, part := groupOwner s g, unit := g }) k stInternal 0 false

/-- A unit whose program failed is programmed again elsewhere (R407). -/
def reprogram (s : State) (g : Nat) (o : DieOp) : State :=
  match pageAt s o.page with
  | none => s
  | some p =>
    let s0 := { s with ftl := { s.ftl with pages := tdel s.ftl.pages (o.page % 2 ^ 38) } }
    match progPage s0 g (isSlcSb o.sb) p with
    | none => (o.owner.map fun k => failWrite s g k).getD s
    | some (s, a) =>
      let s := issueOp o.owner s a
      match o.owner with
      | none => s
      | some k => updCmd s k fun c => { c with pend := c.pend.map fun b => if b == o.page then a else b }

/-- NAND_OP_DONE: the oldest operation of the kind on the die ends; a failed program or erase retires its plane-block (R407). -/
def nandDone (g : GroupIx) (die : Fin 36) (kind : NandKind) (ok : Bool) (s : State) : State :=
  match (grp s g.val).ops.find? fun o => o.die == die.val && o.kind == kind with
  | none => s
  | some o =>
    let s := dropOp s g.val die.val kind
    match kind with
    | .read => s
    | .erase =>
      let s := if ok then s else retireBlock s g.val o.sb (o.die * 6 + o.plane)
      eraseDone s g.val o.sb
    | .program =>
      let s := if ok then s else reprogram (retireBlock s g.val o.sb (o.die * 6 + o.plane)) g.val o
      match o.owner with
      | some k => finishWrite s k
      | none => s

end Sys2Proof.Machine
end

