-- ==== Sys2Proof/Machine/NvmeAdmin.lean ====
section
/-! DEFINITION. NVMe admin commands (R360, R372-R381, R409-R411): Identify, logs, features, namespaces, formatting and self-test. -/

namespace Sys2Proof.Machine

/-! ### Capacity -/

/-- Bytes of user capacity of a partition (R75, R359), and those its namespaces take. -/
def partCap (s : State) (p : Nat) : Nat := (partGroups s p).length * 7680000000000
def partUsed (s : State) (p : Nat) : Nat := natSum (s.ftl.nss.map fun x => if nsPart x.1 == p then x.2.blocks * 4096 else 0)

/-! ### Features (R376) -/

def featIds : List Nat := [1, 2, 4, 6, 7, 8, 9, 0x0A, 0x0B, 0x0E, 0xC0, 0xC1]

/-- Default of a feature that is a plain value (log entry 26). -/
def featDefault (f id : Nat) : Nat :=
  match id with
  | 6 => 1
  | 7 => (maxQueue f - 1) * 0x10001
  | 0xC0 => 1800
  | _ => 0

/-- A compute context is resident, an INGEST RUN executes, or a SEARCH or TIER request executes (R381). -/
def workInProgress (s : State) : Bool :=
  (s.slots.any fun x => x.2.st != .empty) || (s.klv.mbs.any fun m => m.2.execs.any fun x =>
    x.begun && (entCls x.entry == 4 || entCls x.entry == 6 || (entCls x.entry == 5 && entOp x.entry == 6)))

/-- SET_FEATURES. A cache that Feature 06h disables is flushed first, so that its namespaces behave as native (R402). -/
def execSetFeatures (k : CmdKey) (s : State) : Res :=
  nRow s k true 0x09 fun s x =>
    let f := k.ctrl.val
    let id := bits (cdw x.sqe 10) 7 0
    let v := cdw x.sqe 11
    let put (key v : Nat) : State := updCtrl s f fun c => { c with feats := tput c.feats key (BitVec.ofNat 32 v) }
    if bitAt (cdw x.sqe 10) 31 then nDone s k (1, 0x0D)
    else if !featIds.contains id then nDone s k stField
    else if f != 0 && (id == 2 || id == 4 || id == 0xC0) then nDone s k (1, 0x0E)
    else
      match id with
      | 2 =>
        let p := bits v 4 0
        if h : p < 5 then
          (if 3 ≤ p && workInProgress s then nDone s k stSequence
           else nDone { s with nvm := { s.nvm with ps := ⟨p, h⟩, lastOp := if p < 3 then ⟨p, h⟩ else s.nvm.lastOp } } k stOk)
        else nDone s k stField
      | 4 =>
        let sel := bits v 19 16
        if 7 < sel || 1 < bits v 21 20 then nDone s k stField
        else nDone (healthWatch (put (0x400 + 16 * bits v 21 20 + sel) (bits v 15 0))) k stOk
      | 6 =>
        if bitAt v 0 then nDone (put 6 v) k stOk
        else flushed s (nsAttached s f) fun s => nDone (updCtrl s f fun c => { c with feats := tput c.feats 6 (BitVec.ofNat 32 v) }) k stOk
      | 7 =>
        if (ctrl s f).queued then nDone s k stSequence
        else if bits v 15 0 = 0xFFFF || bits v 31 16 = 0xFFFF then nDone s k stField
        else nDone s k stOk (featDefault f 7)
      | 9 => nDone (updCtrl s f fun c => { c with ivc := tput c.ivc (bits v 15 0) (bitAt v 16) }) k stOk
      | 0x0E =>
        match hostGet s k x.sqe 8 with
        | .error st => nDone s k st
        | .ok (s, bs) => nDone (updCtrl s f fun c => { c with tstamp := (fld bs 0 6, now s) }) k stOk
      | 0xC0 =>
        let w := bits v 10 0
        if w < 800 || 1800 < w || bits v 31 11 != 0 then nDone s k stField
        else nDone { s with nvm := { s.nvm with cap := w } } k stOk
      | 0xC1 =>
        let q := bits v 15 0
        if q = 0 || bits v 31 17 != 0 then nDone s k stField
        else
          match tfind? (ctrl s f).sqs q with
          | none => nDone s k stField
          | some sq => nDone (updCtrl s f fun c => { c with sqs := tput c.sqs q { sq with ordered := bitAt v 16 } }) k stOk
      | _ => nDone (put id v) k stOk

/-- The Timestamp feature's 8 bytes: its value now, set by the host if it has been (R376). -/
def timestampBytes (s : State) (f : Nat) : List Byte :=
  let t := (ctrl s f).tstamp
  leBytes 6 (t.1 + (now s - t.2) / 1000000) ++ leBytes 1 (if t.1 = 0 then 0 else 2) ++ zeros 1

/-- What GET_FEATURES answers: DW0 and data, the current value, or the default for SEL 001b and 010b. -/
def featureAns (s : State) (f : Nat) (e : List Byte) : Except (Nat × Nat) (Nat × List Byte) :=
  let id := bits (cdw e 10) 7 0
  let sel := bits (cdw e 10) 10 8
  let v := cdw e 11
  let cur := sel = 0
  let dw0 (n : Nat) : Except (Nat × Nat) (Nat × List Byte) := .ok (n, [])
  if !featIds.contains id then .error stField
  else if sel = 3 then dw0 (if f != 0 && (id == 2 || id == 4 || id == 0xC0) then 0 else 4)
  else if 3 < sel then .error stField
  else
    match id with
    | 2 => dw0 (if cur then s.nvm.ps.val else 0)
    | 4 =>
      let sensor := bits v 19 16
      let under := bits v 21 20 == 1
      if 7 < sensor || 1 < bits v 21 20 then .error stField
      else dw0 (if cur then tempThresh s sensor under else if under then 273 else if 6 ≤ sensor then 318 else 373)
    | 9 => dw0 (bits v 15 0 + (if cur then bnat (tget false (ctrl s f).ivc (bits v 15 0)) else 0) * 2 ^ 16)
    | 0x0E => .ok (0, timestampBytes s f)
    | 0xC0 => dw0 (if cur then s.nvm.cap else 1800)
    | 0xC1 =>
      match tfind? (ctrl s f).sqs (bits v 15 0) with
      | some sq => if bits v 15 0 = 0 then .error stField else dw0 (if cur then bnat sq.ordered * 2 ^ 16 else 0)
      | none => .error stField
    | _ =>
      let d := featDefault f id
      dw0 (if cur then (tget (BitVec.ofNat 32 d) (ctrl s f).feats id).toNat else d)

/-- GET_FEATURES. -/
def execGetFeatures (k : CmdKey) (s : State) : Res :=
  nRow s k true 0x0A fun s x =>
    match featureAns s k.ctrl.val x.sqe with
    | .error st => nDone s k st
    | .ok (dw0, []) => nDone s k stOk dw0
    | .ok (dw0, bs) => nReturn s k x.sqe bs dw0

/-! ### Identify (R372, R373, R380) -/

/-- A list of bytes built from (offset, bytes) fields over zeroes. -/
def layFields (n : Nat) (l : List (Nat × List Byte)) : List Byte := l.foldl (fun b x => overlay b x.1 x.2) (zeros n)

/-- A power state descriptor (R380). -/
def psdBytes (i : Nat) : List Byte :=
  let mp := [0xFFFF, 0xFFFF, 0xFFFF, 15000, 4000][i]?.getD 0
  let en := [1000, 1000, 1000, 5000, 100000][i]?.getD 0
  let ex := [1000, 1000, 1000, 10000, 300000][i]?.getD 0
  leBytes 2 mp ++ zeros 1 ++ leBytes 1 (if 3 ≤ i then 2 else 0) ++ leBytes 4 en ++ leBytes 4 ex ++ leBytes 1 i ++ leBytes 1 i
    ++ leBytes 1 i ++ leBytes 1 i ++ zeros 16

/-- Input power limit of a state in watts (R26). -/
def psWatts (s : State) (i : Nat) : Nat := if i = 0 then s.nvm.cap else [1800, 1200, 800, 150, 40][i]?.getD 0

/-- Identify Controller (R372, R535). -/
def identifyCtrl (s : State) (f : Nat) : List Byte :=
  let ps := coveredParts s f
  let cap := natSum (ps.map (partCap s))
  let used := natSum (ps.map (partUsed s))
  let pf := f = 0
  let part := if s.ident.workingArrays = 128 then "MZ9-128-245L-A0" else if s.ident.workingArrays = 120 then "MZ9-120-245L-A0"
    else "MZ9-112-184L-A0"
  layFields 4096 [
    (0x004, fit s.ident.serial 20), (0x018, ascii part 40), (0x040, (runningVersion s).take 8), (0x04D, leBytes 1 6), (0x04E, leBytes 2 f),
    (0x050, leBytes 4 0x00020000), (0x06F, leBytes 1 1), (0x100, leBytes 2 (if pf then 0x1E else 0x1A)), (0x102, leBytes 1 3),
    (0x103, leBytes 1 3), (0x104, leBytes 1 (if pf then 4 else 0)), (0x105, leBytes 1 6), (0x106, leBytes 1 63), (0x107, leBytes 1 4),
    (0x10A, leBytes 2 373), (0x10C, leBytes 2 388), (0x118, leBytes 16 cap), (0x128, leBytes 16 (cap - used)), (0x13C, leBytes 2 15),
    (0x13F, leBytes 1 (bnat pf)), (0x200, leBytes 1 0x66), (0x201, leBytes 1 0x44), (0x204, leBytes 4 1024), (0x208, leBytes 2 0x4C),
    (0x20C, leBytes 1 7), (0x20E, leBytes 2 63), (0x210, leBytes 2 63), (0x218, leBytes 4 1),
    (0x800, (List.range 5).flatMap psdBytes), (0xC00, (List.range 5).flatMap fun i => leBytes 2 (psWatts s i))]

/-- Identify Namespace (R373). -/
def identifyNs (n : Nat) (x : Ns) : List Byte :=
  layFields 4096 [
    (0, leBytes 8 x.blocks), (8, leBytes 8 x.blocks), (16, leBytes 8 x.blocks), (24, leBytes 1 0x12),
    (30, leBytes 1 (bnat (decide (2 ≤ ((List.range 17).filter fun i => x.attached.getLsbD i).length)))),
    (34, leBytes 2 63), (36, leBytes 2 63), (40, leBytes 2 63), (44, leBytes 2 63), (46, leBytes 2 64), (48, leBytes 16 (x.blocks * 4096)),
    (64, leBytes 2 3), (66, leBytes 2 3), (68, leBytes 2 3), (70, leBytes 2 3), (72, leBytes 2 63), (100, leBytes 2 (nsPart n + 1)),
    (102, leBytes 2 (nsPart n + 1)), (128, leBytes 4 0x000C0000)]

/-- A list of NSIDs above a bound that satisfy a predicate, as 4,096 bytes. -/
def nsList (s : State) (above : Nat) (p : Nat → Bool) : List Byte :=
  fit (((s.ftl.nss.map (·.1)).filter fun n => above < n && p n).flatMap (leBytes 4)) 4096

/-- A controller list of those that satisfy a predicate, from an identifier on. -/
def ctrlList (above : Nat) (p : Nat → Bool) : List Byte :=
  let l := (List.range 17).filter fun c => above ≤ c && p c
  fit (leBytes 2 l.length ++ l.flatMap (leBytes 2)) 4096

/-- The data Identify returns (R369, R360). -/
def identifyAns (s : State) (f : Nat) (e : List Byte) : Except (Nat × Nat) (List Byte) :=
  let cns := bits (cdw e 10) 7 0
  let cntid := bits (cdw e 10) 31 16
  let ns := sqNsid e
  match cns with
  | 0x00 =>
    if ns == 0xFFFFFFFF then .ok (layFields 4096 [(128, leBytes 4 0x000C0000)])
    else if nsAttached s f ns then .ok (identifyNs ns ((nsOf s ns).getD { blocks := 0, attached := 0, shared := false, epoch := 0, legacy := false }))
    else if nsVisible s f ns then .ok (zeros 4096)
    else .error stNs
  | 0x01 => .ok (identifyCtrl s f)
  | 0x02 => .ok (nsList s ns fun n => nsAttached s f n)
  | 0x03 => if nsAttached s f ns then .ok (fit (leBytes 1 4 ++ leBytes 1 1 ++ zeros 3) 4096) else .error stNs
  | 0x10 => .ok (nsList s ns fun n => nsVisible s f n)
  | 0x11 =>
    match nsVisible s f ns, nsOf s ns with
    | true, some y => .ok (identifyNs ns y)
    | _, _ => .error stNs
  | 0x12 =>
    match nsVisible s f ns, nsOf s ns with
    | true, some y => .ok (ctrlList cntid fun c => y.attached.getLsbD c)
    | _, _ => .error stNs
  | 0x13 => .ok (ctrlList cntid fun c => c == f || (f == 0 && ctrlExists s c))
  | 0x18 => .ok (zeros 4096)
  | _ => .error stField

/-- NVME_IDENTIFY. -/
def execNvmeIdentify (k : CmdKey) (s : State) : Res :=
  nRow s k true 0x06 fun s x =>
    match identifyAns s k.ctrl.val x.sqe with
    | .error st => nDone s k st
    | .ok bs => nReturn s k x.sqe bs

/-! ### Logs (R374, R375, R409-R411) -/

/-- SMART / Health Information (R409). -/
def smartLog (s : State) (f : Nat) : List Byte :=
  let ps := coveredParts s f
  let gs := ps.flatMap (partGroups s)
  let sum (t : Tbl Nat) : Nat := natSum (ps.map fun p => tget 0 t p)
  let units (n : Nat) : Nat := (n * 8 + 999) / 1000
  let samples (lo : Nat) : Nat := natSum ((s.ftl.lifetime.filter fun x => lo ≤ x.1).map (·.2))
  layFields 512 [
    (0, leBytes 1 (criticalWarning s gs)), (1, leBytes 2 (sensorK s 0)), (3, leBytes 1 (spareMin s gs)), (4, leBytes 1 10),
    (5, leBytes 1 (pctUsed s gs)), (32, leBytes 16 (units (sum s.ftl.readBlocks))), (48, leBytes 16 (units (sum s.ftl.writtenBlocks))),
    (64, leBytes 16 (sum s.ftl.readCmds)), (80, leBytes 16 (sum s.ftl.writeCmds)), (112, leBytes 16 s.ftl.powerCycles), (128, leBytes 16 (samples 0 / 36000000)),
    (144, leBytes 16 s.ftl.unsafeShutdowns),
    (160, leBytes 16 (sum s.ftl.mediaErrors)), (176, leBytes 16 (ctrl s f).errCount), (192, leBytes 4 (samples 50 / 600000)),
    (196, leBytes 4 (s.ftl.critSamples / 600000)),
    (200, (List.range 7).flatMap fun i => leBytes 2 (sensorK s (i + 1)))]

/-- Endurance Group Information (R410). -/
def enduranceLog (s : State) (p : Nat) : List Byte :=
  let gs := partGroups s p
  let units (n : Nat) : Nat := (n * 4096 + 999999999) / 1000000000
  layFields 512 [
    (0, leBytes 1 (criticalWarning s gs % 16 &&& 0xD)), (3, leBytes 1 (spareMin s gs)), (4, leBytes 1 10), (5, leBytes 1 (pctUsed s gs)),
    (32, leBytes 16 3840000), (48, leBytes 16 (units (tget 0 s.ftl.readBlocks p))), (64, leBytes 16 (units (tget 0 s.ftl.writtenBlocks p))),
    (80, leBytes 16 ((natSum (gs.map fun g => (grp s g).mediaUnits) * 16384 + 999999999) / 1000000000)),
    (96, leBytes 16 (tget 0 s.ftl.readCmds p)), (112, leBytes 16 (tget 0 s.ftl.writeCmds p)), (128, leBytes 16 (tget 0 s.ftl.mediaErrors p)),
    (160, leBytes 16 (partCap s p)), (176, leBytes 16 (partCap s p - partUsed s p))]

/-- Firmware Slot Information: running slot, selected slot, each slot's version (R377). -/
def fwSlotLog (s : State) : List Byte :=
  let run := s.fw.running.val + 1
  let sel := fld (selection s) 0 1 + 1
  layFields 512 [
    (0, leBytes 1 ((if 2 < run then 0 else run) + (if sel = run then 0 else sel * 16))),
    (8, if (fwBlock s 0).ok then (blockVersion s 0).take 8 else zeros 8), (16, if (fwBlock s 1).ok then (blockVersion s 1).take 8 else zeros 8)]

/-- Commands Supported and Effects (R369): exactly the accepted opcodes. -/
def effectsLog (f : Nat) : List Byte :=
  layFields 4096
    (((List.range 256).filter fun o => opcodeAccepted f 0 o).map (fun o => (4 * o, leBytes 4 1)) ++
      ((List.range 256).filter fun o => opcodeAccepted f 1 o).map fun o =>
        (1024 + 4 * o, leBytes 4 (if o == 1 || o == 8 || o == 9 then 3 else 1)))

/-- Device Self-test log (R378): the current operation and the last twenty results. -/
def selfTestLog (s : State) (f : Nat) : List Byte :=
  let x := ctrl s f
  let head := match x.selfTest with
    | some t => leBytes 1 (if t.ext then 2 else 1) ++ leBytes 1 ((t.segment - 1) * 20)
    | none => zeros 2
  fit (head ++ zeros 2 ++ ((List.range 20).flatMap fun i => (x.stResults[i]?).getD (leBytes 1 0x0F ++ zeros 27))) 564

/-- Urgent Read Latency (R375). -/
def urgentLog (x : Ctrl) : List Byte :=
  fit (leBytes 8 x.urgReads ++ leBytes 8 x.urgRetried ++ leBytes 4 (min x.urgMax 0xFFFFFFFF) ++ leBytes 4 (min x.urgOver 0xFFFFFFFF) ++ zeros 8
    ++ ((List.range 16).flatMap fun b => leBytes 8 (tget 0 x.buckets b))) 512

/-- Temperature History (R411). -/
def tempLog (s : State) : List Byte :=
  layFields 2048 [
    (0, leBytes 8 s.ftl.tempAt.toNat), (8, leBytes 2 (min 168 s.ftl.temps.length)), (0xA, leBytes 2 60),
    (0x10, (s.ftl.temps.take 168).flatMap fun t => leBytes 2 t.min ++ leBytes 2 t.max ++ leBytes 2 t.mean ++ leBytes 1 t.flags ++ zeros 1),
    (0x600, (List.range 64).flatMap fun b => leBytes 4 (tget 0 s.ftl.lifetime b / 600000))]

/-- The bytes of a log page, if the identifier is accepted. -/
def logPage (s : State) (f lid lsi : Nat) : Option (List Byte) :=
  let x := ctrl s f
  match lid with
  | 0x01 => some (fit (x.errLog.flatMap id) 4096)
  | 0x02 => some (smartLog s f)
  | 0x03 => some (fwSlotLog s)
  | 0x04 => some (fit (x.changedNs.flatMap (leBytes 4)) 4096)
  | 0x05 => some (effectsLog f)
  | 0x06 => some (selfTestLog s f)
  | 0x09 => if (coveredParts s f).contains (lsi - 1) && lsi != 0 then some (enduranceLog s (lsi - 1)) else none
  | 0xC0 => some (urgentLog x)
  | 0xC1 => some (tempLog s)
  | _ => none

/-- What Get Log Page returns: NUMD dwords from the offset. -/
def logAns (s : State) (f : Nat) (e : List Byte) : Except (Nat × Nat) (List Byte) :=
  let lid := bits (cdw e 10) 7 0
  let n := (bits (cdw e 10) 31 16 + bits (cdw e 11) 15 0 * 65536 + 1) * 4
  let off := cdw e 12 + cdw e 13 * 2 ^ 32
  match logPage s f lid (bits (cdw e 11) 31 16) with
  | none => .error (if lid = 9 then stField else (1, 0x09))
  | some bs => if bs.length < off || 0x40000 < n then .error stField else .ok (slice bs off n)

/-- Reading the Changed Namespace List clears it, unless asynchronous events are retained (R374). -/
def logRead (s : State) (f : Nat) (e : List Byte) : State :=
  if bits (cdw e 10) 7 0 = 4 && !bitAt (cdw e 10) 15 then updCtrl s f fun c => { c with changedNs := [] } else s

/-- GET_LOG_PAGE. -/
def execGetLogPage (k : CmdKey) (s : State) : Res :=
  nRow s k true 0x02 fun s x =>
    match logAns s k.ctrl.val x.sqe with
    | .error st => nDone s k st
    | .ok bs => logRead (nReturn s k x.sqe bs) k.ctrl.val x.sqe

/-! ### Namespaces (R359, R360) -/

/-- A namespace of a controller was created, deleted or detached: the Changed Namespace List, and a Notice if Feature 0Bh enables it and none
is due already (R374). -/
def nsChanged (ns : Nat) (s : State) (f : Nat) : State :=
  let x := ctrl s f
  let first := x.changedNs.isEmpty
  let l :=
    if x.changedNs.contains ns || x.changedNs == [0xFFFFFFFF] then x.changedNs
    else if 1024 ≤ x.changedNs.length then [0xFFFFFFFF] else x.changedNs ++ [ns]
  let s := updCtrl s f fun x => { x with changedNs := l }
  if first && (tget 0 x.feats 0x0B).getLsbD 8 then nEvent s f 0x040002 else s

/-- Controllers a namespace is attached to. -/
def attachedTo (s : State) (ns : Nat) : List Nat := (List.range 17).filter fun c => ((nsOf s ns).map fun y => y.attached.getLsbD c).getD false

/-- The deletion of a namespace is journalled, so that no data of it comes back; none while it must wait, for room or for writes in flight. -/
def journalDelete (s : State) (ns : Nat) : Option State :=
  if s.nvm.ctrls.any fun c => c.2.cmds.any fun y => writeType y && y.committed && y.done.isNone && sqNsid y.sqe == ns then none
  else ftlJournal s .dealloc ns 0 (((nsOf s ns).map (·.blocks)).getD 0)

/-- A namespace, its map, its cached writes and its claims are gone; the checkpoints of its groups no longer hold it. -/
def deleteNs (s : State) (ns : Nat) : State :=
  let s := (journalDelete s ns).getD s
  let s := (attachedTo s ns).foldl (nsChanged ns) s
  let s := (s.ftl.map.filter fun x => x.1 / 2 ^ 34 == ns).foldl (fun s x => setEntry s ns (x.1 % 2 ^ 34) 0) s
  let s := (nsGroups s ns).foldl checkpointGrp s
  { s with ftl := { s.ftl with
      nss := tdel s.ftl.nss ns, claims := s.ftl.claims.filter fun c => c.nsid != ns, pins := s.ftl.pins.filter fun p => p.nsid != ns
      cache := s.ftl.cache.filter fun c => c.1 != ns } }

/-- NAMESPACE_MANAGEMENT: create or delete; a deletion waits until it can be journalled. -/
def execNamespaceManagement (k : CmdKey) (s : State) : Res :=
  nRow s k true 0x0D fun s x =>
    let f := k.ctrl.val
    match bits (cdw x.sqe 10) 3 0 with
    | 0 =>
      match hostGet s k x.sqe 4096 with
      | .error st => nDone s k st
      | .ok (s, d) =>
        let size := fld d 0 8
        let endg := fld d 102 2
        let part : Option Nat := match ctrlPart s f with
          | some p => if endg = 0 || endg = p + 1 then some p else none
          | none => if f = 0 && endg != 0 && isActive s (endg - 1) && !isSealed s (endg - 1) then some (endg - 1) else none
        match part with
        | none => nDone s k stField
        | some p =>
          if fld d 26 1 != 0 then nDone s k (1, 0x0A)
          else if fld d 29 1 != 0 || size = 0 then nDone s k stField
          else if fld d 8 8 != size then nDone s k (1, 0x1B)
          else if partCap s p < partUsed s p + size * 4096 then nDone s k (1, 0x15)
          else
            match ((List.range 64).map (· + 64 * p + 1)).find? fun n => (nsOf s n).isNone with
            | none => nDone s k (1, 0x16)
            | some n =>
              let y : Ns := { blocks := size, attached := 0, shared := bitAt (fld d 30 1) 0, epoch := 1, legacy := false }
              nDone { s with ftl := { s.ftl with nss := tput s.ftl.nss n y } } k stOk n
    | 1 =>
      let ns := sqNsid x.sqe
      let l := if ns = 0xFFFFFFFF then (s.ftl.nss.map (·.1)).filter (nsVisible s f) else [ns]
      if ns != 0xFFFFFFFF && !nsVisible s f ns then nDone s k stNs
      else if l.any fun n => (journalDelete s n).isNone then s
      else nDone (l.foldl deleteNs s) k stOk
    | _ => nDone s k stField

/-- A namespace may be attached to its partition's VF controller, and to controller 0 unless the partition is sealed (R360). -/
def mayAttach (s : State) (ns c : Nat) : Bool :=
  (c == 0 && !isSealed s (nsPart ns)) || (c != 0 && ctrlPart s c == some (nsPart ns) && ctrlExists s c)

/-- NAMESPACE_ATTACHMENT: attach or detach a list of controllers. -/
def execNamespaceAttachment (k : CmdKey) (s : State) : Res :=
  nRow s k true 0x15 fun s x =>
    let ns := sqNsid x.sqe
    let sel := bits (cdw x.sqe 10) 3 0
    match hostGet s k x.sqe 4096 with
    | .error st => nDone s k st
    | .ok (s, d) =>
      let n := fld d 0 2
      let l := (List.range (min n 2047)).map fun i => fld d (2 + 2 * i) 2
      match nsVisible s k.ctrl.val ns, nsOf s ns with
      | true, some y =>
        if 1 < sel then nDone s k stField
        else if n = 0 || 2047 < n || l.any (fun c => 16 < c || !mayAttach s ns c) then nDone s k (1, 0x1C)
        else if sel = 0 && l.any (fun c => y.attached.getLsbD c) then nDone s k (1, 0x18)
        else if sel = 1 && l.any (fun c => !y.attached.getLsbD c) then nDone s k (1, 0x1A)
        else
          let att := l.foldl (fun (a : BitVec 17) c => if sel = 0 then a ||| BitVec.twoPow 17 c else a &&& ~~~ (BitVec.twoPow 17 c)) y.attached
          nDone (l.foldl (nsChanged ns) (updNs s ns fun y => { y with attached := att })) k stOk
      | _, _ => nDone s k stNs

/-- The namespaces a Format names: one it can see, or with NSID FFFFFFFFh every one attached to its controller (log entry 23). -/
def formatted (s : State) (f ns : Nat) : List Nat :=
  if ns = 0xFFFFFFFF then (s.ftl.nss.map (·.1)).filter (nsAttached s f) else if nsVisible s f ns then [ns] else []

/-- An earlier write-type command to one of some namespaces is outstanding. -/
def writesBefore (s : State) (x : NCmd) (l : List Nat) : Bool :=
  s.nvm.ctrls.any fun c => c.2.cmds.any fun y => writeType y && y.done.isNone && decide (y.order < x.order) && l.contains (sqNsid y.sqe)

/-- Every block of a namespace reads as zero; none while it must wait. -/
def formatNs (s : Option State) (ns : Nat) : Option State :=
  s.bind fun s => ftlJournal s .zeroes ns 0 (((nsOf s ns).map (·.blocks)).getD 0)

/-- FORMAT_NVM: SES 0h or 1h; every block reads as zero afterwards (R369; SES 0h: log entry 27). It follows the writes fetched before it. -/
def execFormatNvm (k : CmdKey) (s : State) : Res :=
  nRow s k true 0x80 fun s x =>
    let ns := sqNsid x.sqe
    let v := cdw x.sqe 10
    let l := formatted s k.ctrl.val ns
    if l.isEmpty && ns != 0xFFFFFFFF then nDone s k stNs
    else if 1 < bits v 11 9 || bits v 3 0 != 0 || bits v 8 4 != 0 || bits v 31 12 != 0 then nDone s k stField
    else if l.any fun n => !nsReady s n then nDone s k stNotReady 0 false
    else if writesBefore s x l then s
    else
      match l.findSome? fun n => writeRefused s n 0 (((nsOf s n).map (·.blocks)).getD 0) with
      | some st => nDone s k st
      | none =>
        match l.foldl formatNs (some s) with
        | some s => nDone s k stOk
        | none => s

/-! ### Device self-test (R378, R379) -/

/-- Die groups a test covers: those the controller can see, or those that hold its namespace; NSID 0 names no namespace (log entry 23). -/
def testGroups (s : State) (f ns : Nat) : List Nat :=
  if ns = 0 then [] else if ns = 0xFFFFFFFF then (coveredParts s f).flatMap (partGroups s) else partGroups s (nsPart ns)

/-- Steps of a segment (log entry 28). -/
def segSteps (s : State) (f : Nat) (t : SelfTest) : Nat :=
  let gs := testGroups s f t.nsid
  match t.segment with
  | 1 => 1
  | 2 => if t.ext then natSum ((coveredParts s f).map fun p => ((List.range 32).filter fun k => (prec s p).dramSlices.getLsbD k).length) else 1
  | 3 => gs.length
  | 4 => 36 * gs.length
  | _ => natMax (gs.map fun g => ((s.ftl.map.filter fun x => aGroup x.2 == g).length + 35) / 36)

/-- The segments of a test. -/
def lastSegment (t : SelfTest) : Nat := if t.ext then 5 else 4

/-- The next step that exists, skipping empty segments. -/
def normTest (s : State) (f : Nat) : Nat → SelfTest → Option SelfTest
  | 0, _ => none
  | n + 1, t =>
    if lastSegment t < t.segment then none
    else if t.step < segSteps s f t then some t
    else normTest s f n { t with segment := t.segment + 1, step := 0 }

/-- A test that has no step left ends without error. -/
def setTest (s : State) (f : Nat) (t : SelfTest) : State :=
  match normTest s f 6 t with
  | some t => updCtrl s f fun x => { x with selfTest := some t }
  | none => endSelfTest s f 0 0

/-- DEVICE_SELF_TEST: start a short or extended test, or abort the running one (R378). -/
def execDeviceSelfTest (k : CmdKey) (s : State) : Res :=
  nRow s k true 0x14 fun s x =>
    let f := k.ctrl.val
    let stc := bits (cdw x.sqe 10) 3 0
    let ns := sqNsid x.sqe
    if stc = 0xF then nDone (endSelfTest s f 1 0) k stOk
    else if stc != 1 && stc != 2 then nDone s k stField
    else if (ctrl s f).selfTest.isSome then nDone s k (1, 0x1D)
    else if ns != 0 && ns != 0xFFFFFFFF && !nsVisible s f ns then nDone s k stNs
    else
      let t : SelfTest := { ext := stc == 2, nsid := ns, segment := 1, step := 0, stopped := false }
      let s := updCtrl s f fun c => { c with suspends := 0, selfTest := some t }
      nDone (setTest s f t) k stOk

/-- SELF_TEST_STEP: the step of the running test ends; a failure ends the test with code 7h and its segment. -/
def execSelfTestStep (fn : Fn) (o : StepOutcome) (s : State) : Res :=
  match (ctrl s fn.val).selfTest with
  | none => .next s
  | some t =>
    if t.stopped then .next s
    else
      match o with
      | .fail => .next (endSelfTest s fn.val 7 0)
      | .pass => .next (setTest s fn.val { t with step := t.step + 1 })

/-- SELF_TEST_RESUME: no host command of the controller has been outstanding for 1 ms; Asynchronous Event Requests, which wait without limit, are
not counted (R379, log entry 29). -/
def execSelfTestResume (fn : Fn) (s : State) : Res :=
  match (ctrl s fn.val).selfTest with
  | none => .next s
  | some t =>
    if t.stopped && !(ctrl s fn.val).cmds.any (fun c => busyCommand c.sqe c.key.sq) then
      .next (updCtrl (reach s ((ctrl s fn.val).hostAt + 1000000)) fn.val fun x => { x with selfTest := some { t with stopped := false } })
    else .next s

end Sys2Proof.Machine
end

