-- ==== Sys2Proof/Machine/Media.lean ====
section
/-! DEFINITION. Flash media at work (chapter 13): the slots of a channel (R382, R383), folding, reclamation, rewrite and patrol, checkpoints,
the hold-up bank, the temperature history, and the MEDIA class (R412, R413). -/

namespace Sys2Proof.Machine

/-! ### Channels (R382, R383) -/

def chan (s : State) (c : Nat) : Chan := tget chanReset s.ftl.chans c

/-- The class a slot is granted to: 1 URGENT, 2 HOST, 3 SERVICE, 4 BACKGROUND, 0 none. URGENT for up to 16 slots of a frame, then BACKGROUND
for its 8 (log entry 30), then HOST (with URGENT beyond 16) and SERVICE in alternation, then whichever waits. -/
def slotGrant (x : Chan) (w : ChannelWaits) : Fin 5 :=
  if w.urgent && decide (x.urgent < 16) then 1
  else if w.background && decide (x.background < 8) then 4
  else
    let host := w.host || w.urgent
    let hostClass : Fin 5 := if w.urgent then 1 else 2
    if host && w.service then (if x.lastHost then 3 else hostClass)
    else if host then hostClass
    else if w.service then 3
    else if w.background then 4
    else 0

/-- CHANNEL_FRAME_SLOT: one slot is granted, and the frame moves on; its counts start afresh every 64 slots. -/
def execChannelFrameSlot (ch : Fin 128) (w : ChannelWaits) (s : State) : Res :=
  let x := chan s ch.val
  let g := slotGrant x w
  let competes := !(w.urgent && decide (x.urgent < 16)) && !(w.background && decide (x.background < 8))
  let lastHost := if competes && g == 3 then false else if competes && (g == 1 || g == 2) then true else x.lastHost
  let last := x.slot.val == 63
  .next { s with ftl := { s.ftl with chans := tput s.ftl.chans ch.val <|
    { slot := x.slot + 1, urgent := if last then 0 else x.urgent + bnat (g == 1)
      background := if last then 0 else x.background + bnat (g == 4), lastHost, grant := g } } }

/-! ### Background work -/

/-- SLC slots of a group's buffer. -/
def slcSlots : Nat := 16 * 124416

/-- The SLC buffer of a group is more than half full (R395). -/
def slcOverHalf (g : Group) : Bool := decide (slcSlots < 2 * slcFill g)

/-- The superblock of a list closed earliest that satisfies `p`. -/
def oldestSb (g : Group) (l : List Nat) (p : Nat → Bool) : Option Nat :=
  (l.filter p).foldl (fun a k =>
    match a with
    | none => some k
    | some j => if (sbOf g k).closedAt < (sbOf g j).closedAt then some k else a) none

/-- FOLD (R395): over half full, the oldest closed SLC superblock is folded into QLC. -/
def execFold (g : GroupIx) (s : State) : Res :=
  if !slcOverHalf (grp s g.val) then .next (updGrp s g.val fun x => { x with folding := false })
  else
    let s := match oldestSb (grp s g.val) slcSbs fun k => (sbOf (grp s g.val) k).st == .closed with
      | some k => reclaimSb s g.val k
      | none => s
    .next (settleShutdowns (updGrp s g.val fun x => { x with folding := slcOverHalf x }))

/-- The victim of reclamation: the closed QLC superblock with the fewest valid units, the earliest closed of those (R404). -/
def victim (s : State) (g : Nat) : Option Nat :=
  let x := grp s g
  let l := (qlcSbs.filter fun k => (sbOf x k).st == .closed).map fun k => (k, validUnits s g k)
  (l.foldl (fun (a : Option (Nat × Nat)) k =>
    match a with
    | none => some k
    | some j => if k.2 < j.2 || (k.2 == j.2 && decide ((sbOf x k.1).closedAt < (sbOf x j.1).closedAt)) then some k else a) none).map (·.1)

/-- GARBAGE_COLLECT (R404): with fewer than 16 free QLC superblocks, the victim is reclaimed. -/
def execGarbageCollect (g : GroupIx) (s : State) : Res :=
  if 16 ≤ freeQlc (grp s g.val) then .next (updGrp s g.val fun x => { x with reclaiming := false })
  else
    let s := match victim s g.val with
      | some k => reclaimSb s g.val k
      | none => s
    .next (settleShutdowns (updGrp s g.val fun x => { x with reclaiming := decide (freeQlc x < 16) }))

/-- REWRITE (R406): the superblock scheduled first is moved and erased, and counted. -/
def execRewrite (g : GroupIx) (s : State) : Res :=
  match (grp s g.val).toRewrite with
  | [] => .next s
  | k :: _ =>
    let s := reclaimSb s g.val k
    .next (if (grp s g.val).toRewrite.contains k then s
      else updGrp s g.val fun x => { x with rewrites := satInc x.rewrites })

/-- PATROL_READ (R406): a valid unit of the group is read under the thresholds of R406 and the recovery of R408. -/
def execPatrolRead (g : GroupIx) (nsid : Word) (unit : Nat) (ecc : EccResult) (s : State) : Res :=
  let e := entryOf s nsid.toNat unit
  if e != 0 && aGroup e == g.val then .next (noteRead s nsid.toNat unit ecc).1 else .next s

/-- CHECKPOINT (R399): after 4 GiB of journal, or 30 s after the last while the group is written. -/
def execCheckpoint (g : GroupIx) (s : State) : Res :=
  let x := grp s g.val
  if 0x100000000 ≤ x.journal then .next (checkpointGrp s g.val)
  else if x.journal = 0 then .next s
  else .next (checkpointGrp (reach s (x.ckptAt + 30000000000)) g.val)

/-! ### Hold-up bank (R403) -/

/-- A measurement of the bank; below 6.00 J every legacy cache is flushed, and R402's caches stay disabled until one passes. -/
def measured (s : State) (energy : Nat) : State :=
  let s := { s with ftl := { s.ftl with energy := BitVec.ofNat 16 (min energy 0xFFFF), measured := true } }
  if s.ftl.energy.toNat < 600 then drainCache s fun _ => true else s

def execHoldupMeasure (energy : Nat) (s : State) : Res := .next (healthWatch (measured s energy))

/-- NAND_OP_DONE: a die operation completes (R389); what waited for a page goes on. -/
def execNandOpDone (g : GroupIx) (die : Fin 36) (kind : NandKind) (ok : Bool) (s : State) : Res :=
  .next (healthWatch (settleShutdowns (nandDone g die kind ok s)))

/-! ### Temperature history (R411) -/

/-- The interval of the hour that ends: least, greatest and mean of its samples, or the present temperature where it had none. -/
def hourInterval (s : State) : TempInterval :=
  let (sum, count, lo, hi, flags) := s.ftl.hour
  if count = 0 then { min := sensorK s 0, max := sensorK s 0, mean := sensorK s 0, flags := 0 }
  else { min := lo, max := hi, mean := sum / count, flags }

def execTempHistoryInterval (s : State) : Res :=
  let s := reach s (s.ftl.tempAt.toNat + 3600000000000)
  .next (eventAll { s with ftl := { s.ftl with
    temps := (hourInterval s :: s.ftl.temps).take 168, tempAt := s.ts, hour := (0, 0, 0, 0, 0) } } 0x0005 0xC1)

/-! ### The MEDIA class (R412, R413) -/

def mediaOps : List OpSpec := [
  { cls := 8, op := 1, used := [(0x20, 4)], b := fun _ _ => 5000 },
  { cls := 8, op := 2, used := [(0x20, 8)], range := rngs [(0x24, 4, 0, 1)], b := fun _ _ => 5000 },
  { cls := 8, op := 3, used := [(0x20, 4)], pay := .outOnly, lenOk := fun _ _ _ o => decide (64 ≤ o) },
  { cls := 8, op := 4, used := [(0x20, 4)], pay := .outOnly, range := rngs [(0x20, 4, 0, 31)], lenOk := fun _ _ _ o => decide (96 ≤ o) },
  { cls := 8, op := 5, pfOnly := true } ]

/-- A record of a namespace can be journalled in the group that keeps its records. -/
def recordRoom (s : State) (ns : Nat) : Bool := (writeSb (grp s (unitGroup s ns 0)) true).isSome

/-- NS_COMMIT: cached writes are programmed, the epoch advances, its record is journalled; it waits while there is no page for them. -/
def execNsCommit (r : ReqId) (s : State) : Res :=
  runReq s r 8 1 fun s x =>
    let ns := prm x 0x20 4
    match nsIn s (reqPart r) ns with
    | none => finish s r (ansErr 0x0004)
    | some _ =>
      match nsReadOnly s ns with
      | some g => finish s r (ansErr 0x0102 g)
      | none =>
        flushed s (· == ns) fun s =>
          if !recordRoom s ns then s
          else
            let s := advanceEpoch (commit s r) ns
            finish s r (ansOk (((nsOf s ns).map fun k => k.epoch.toNat).getD 0))

/-- NVMe commands of a namespace are in flight. -/
def nsBusy (s : State) (ns : Nat) : Bool :=
  s.nvm.ctrls.any fun c => c.2.cmds.any fun y => y.key.sq != 0 && y.done.isNone && sqNsid y.sqe == ns

/-- NS_MODE: a change is journalled; legacy to native flushes the cache first (R402, R403). -/
def execNsMode (r : ReqId) (s : State) : Res :=
  runReq s r 8 2 fun s x =>
    let ns := prm x 0x20 4
    let legacy := prm x 0x24 4 == 1
    match nsIn s (reqPart r) ns with
    | none => finish s r (ansErr 0x0004)
    | some k =>
      match nsReadOnly s ns with
      | some g => finish s r (ansErr 0x0102 g)
      | none =>
        if nsBusy s ns then finish s r (ansErr 0x0101)
        else if legacy && decide (s.ftl.energy.toNat < 600) then finish s r (ansErr 0x0100 s.ftl.energy.toNat)
        else if k.legacy == legacy then finish (commit s r) r (ansOk 0)
        else
          flushed s (· == ns) fun s =>
            let g := unitGroup s ns 0
            let (s', q) := nextSeq s g
            match progPage s' g true { kind := .mode, data := [], nsid := ns, unit := 0, mask := 0, seq := q, lba := 0, count := bnat legacy } with
            | some (s', _) => finish (commit (updNs s' ns fun k => { k with legacy := legacy }) r) r (ansOk 0)
            | none => s

/-- The map entries of a namespace. -/
def nsEntries (s : State) (ns : Nat) : List Nat := (s.ftl.map.filter fun x => x.1 / 2 ^ 34 == ns).map (·.2)

/-- Pinned epochs of a namespace. -/
def pinnedEpochs (s : State) (ns : Nat) : Nat :=
  ((s.ftl.pins.filter fun p => p.nsid == ns && (findExec s p.req).isSome).map (·.epoch)).eraseDups.length

def execNsInfo (r : ReqId) (s : State) : Res :=
  answer s r 8 3 fun s x =>
    let ns := prm x 0x20 4
    match nsIn s (reqPart r) ns with
    | none => ansErr 0x0004
    | some k =>
      let l := nsEntries s ns
      let slc := fun (e : Nat) => bits e 39 38 == 2
      let frag := fun (e : Nat) => bits e 39 38 == 3
      ansOk 64 (fit (leBytes 4 ns ++ leBytes 4 k.epoch.toNat ++ leBytes 1 (bnat k.legacy) ++ zeros 7 ++ leBytes 8 l.length
        ++ leBytes 8 (l.filter slc).length ++ leBytes 8 (l.filter frag).length ++ leBytes 8 (pinnedEpochs s ns)) 64)

/-- SLC pages of a group that hold data (R414). -/
def slcUsed (s : State) (g : Nat) : Nat :=
  (s.ftl.pages.filter fun p => aGroup p.1 == g && isSlcSb (aBlock p.1) && p.2.kind == .data).length

/-- The eleven counts of FTL_FREE_SB to FTL_REWRITES (R414). -/
def groupCounts (s : State) (g : Nat) : List Nat :=
  let x := grp s g
  [freeQlc x, slcUsed s g, x.frags.length, natSum (x.sbs.map fun b => b.2.erases) * 16 / 1130 / 20, natMax (x.sbs.map fun b => b.2.erases) / 20,
    x.spare, x.retired, x.soft.toNat, x.recov.toNat, x.uncorr.toNat, x.rewrites.toNat]

def execGroupInfo (r : ReqId) (s : State) : Res :=
  answer s r 8 4 fun s x =>
    let g := prm x 0x20 4
    if (prec s (reqPart r)).active && (prec s (reqPart r)).dieGroups.getLsbD g && decide (g < 32) then
      ansOk 96 (leBytes 4 g ++ zeros 4 ++ (groupCounts s g).flatMap (leBytes 8))
    else ansErr 0x0004

/-- HOLDUP_TEST measures the bank (R403). -/
def execHoldupTest (r : ReqId) (energy : Nat) (s : State) : Res :=
  runReq s r 8 5 fun s _ =>
    let s := healthWatch (measured s energy)
    finish s r (ansOk s.ftl.energy.toNat)

end Sys2Proof.Machine
end

