-- ==== Sys2Proof/Machine/TierCopy.lean ====
section
/-! DEFINITION. Tiles as the tier manager holds them (R258-R270, R276, R277): handles, chunk entries and ROWCODE frames, tile copies in T1
and in the root tile cache, space, and the write-back of chunks. -/

namespace Sys2Proof.Machine

/-! ### Objects (R259-R263) -/

/-- An object's table key, partition * 65536 + index, from its handle, and its handle. -/
def objKey (h : Nat) : Nat := bits h 19 0
def objHandle (key : Nat) (o : Obj) : Nat := key + o.gen * 2 ^ 20

/-- The object a handle names, with its key. -/
def objOf (s : State) (h : Nat) : Option Obj :=
  match tfind? s.tie.objs (objKey h) with
  | some o => if objHandle (objKey h) o == h then some o else none
  | none => none

def updObj (s : State) (key : Nat) (f : Obj → Obj) : State :=
  match tfind? s.tie.objs key with
  | some o => { s with tie := { s.tie with objs := tput s.tie.objs key (f o) } }
  | none => s

/-- Chunks of a tile, of the object, blocks of its chunk table region (R261, R262). -/
def tileChunks (o : Obj) : Nat := 2 ^ o.tileLog2
def objChunks (o : Obj) : Nat := o.tiles * tileChunks o
def tableBlocks (chunks : Nat) : Nat := 4 * ceilDiv (chunks * 8) 16384

/-- The chunks of tile `t`. -/
def tileChunkIxs (o : Obj) (t : Nat) : List Nat := (List.range (tileChunks o)).map (· + t * tileChunks o)

/-- First block of the slot of chunk `c`. -/
def slotLba (o : Obj) (c : Nat) : Nat := o.slba + tableBlocks (objChunks o) + 16 * c

/-! ### Entries and frames (R264-R266) -/

def eMethod (e : Nat) : Nat := bits e 1 0
def eLen (e : Nat) : Nat := bits e 9 2 + 1
def eCrcValid (e : Nat) : Bool := bitAt e 10
def eCrc (e : Nat) : Nat := bits e 63 32

/-- Granules of 256 bytes a frame takes in T1. -/
def eGranules (e : Nat) : Nat := if eMethod e = 0 then 0 else eLen e

/-- The entry of a chunk in the table region of the object's extent (R262, R264); a VOLATILE object has none. -/
def chunkEntry (s : State) (o : Obj) (c : Nat) : Nat :=
  if oVolatile o then 0 else fld (ftlRead s o.nsid.toNat (o.slba + c * 8 / 4096) 1) (c * 8 % 4096) 8

/-- The entry of a chunk written to the table region; none while flash has no page free. -/
def writeEntry (s : State) (o : Obj) (c e : Nat) : Option State :=
  let b := o.slba + c * 8 / 4096
  ftlWrite s o.nsid.toNat b (overlay (ftlRead s o.nsid.toNat b 1) (c * 8 % 4096) (leBytes 8 e))

/-- Row code of a row, given the row before it (R266). -/
def rowCode (prev : Option (List Byte)) (row : List Byte) : Nat :=
  let n := (row.filter (· != 0)).length
  if n = 0 then 0 else if prev == some row then 1 else if n ≤ 55 then 2 else 3

/-- The 8-byte mask of a row: a bit for each nonzero byte. -/
def rowMask (row : List Byte) : Nat := natSum ((enumFrom 0 row).map fun x => if x.2 == 0 then 0 else 2 ^ x.1)

/-- The payload of a row (R265). -/
def rowPayload (code : Nat) (row : List Byte) : List Byte :=
  match code with
  | 2 => leBytes 8 (rowMask row) ++ row.filter (· != 0)
  | 3 => row
  | _ => []

/-- Rows of 64 bytes. -/
def rowsOf : Nat → List Byte → List (List Byte)
  | 0, _ => []
  | n + 1, bs => bs.take 64 :: rowsOf n (bs.drop 64)

/-- Codes and payloads of rows in order. -/
def encodeRows (prev : Option (List Byte)) : List (List Byte) → List (Nat × List Byte)
  | [] => []
  | r :: t => let c := rowCode prev r; (c, rowPayload c r) :: encodeRows (some r) t

/-- The row map: four codes a byte. -/
def rowMap : Nat → List Nat → List Byte
  | 0, _ => []
  | n + 1, l => BitVec.ofNat 8 (l.getD 0 0 + 4 * l.getD 1 0 + 16 * l.getD 2 0 + 64 * l.getD 3 0) :: rowMap n (l.drop 4)

/-- The stored form of a chunk: its entry, with its check value, and its frame (R264, R266). -/
def encodeChunk (compress : Bool) (chunk : List Byte) : Nat × List Byte :=
  let crc := 2 ^ 10 + crc32c chunk * 2 ^ 32
  if allZero chunk then (crc, [])
  else
    let rows := encodeRows none (rowsOf 1024 chunk)
    let payload := rows.flatMap (·.2)
    let g := ceilDiv (256 + payload.length) 256
    if !compress || 256 ≤ g then (1 + 255 * 4 + crc, chunk)
    else (2 + (g - 1) * 4 + crc, fit (rowMap 256 (rows.map (·.1)) ++ payload) (g * 256))

/-- Bytes laid where a mask has ones, zero elsewhere; the bytes left over. -/
def spread (mask : Nat) : Nat → Nat → List Byte → Option (List Byte × List Byte)
  | 0, _, bs => some ([], bs)
  | n + 1, j, bs =>
    if bitAt mask j then
      match bs with
      | [] => none
      | b :: t => (spread mask n (j + 1) t).map fun x => (b :: x.1, x.2)
    else (spread mask n (j + 1) bs).map fun x => (0 :: x.1, x.2)

/-- One row decoded from its code, the row before it and the payload left. -/
def decodeRow (code : Nat) (prev : Option (List Byte)) (bs : List Byte) : Option (List Byte × List Byte) :=
  match code with
  | 0 => some (zeros 64, bs)
  | 1 => prev.map fun p => (p, bs)
  | 2 => if bs.length < 8 then none else spread (fld bs 0 8) 64 0 (bs.drop 8)
  | _ => if bs.length < 64 then none else some (bs.take 64, bs.drop 64)

/-- Rows decoded in order by the codes of the map, from row `r` on. -/
def decodeRows (map : List Byte) : Nat → Nat → Option (List Byte) → List Byte → Option (List Byte)
  | 0, _, _, _ => some []
  | n + 1, r, prev, bs =>
    match decodeRow (bits (fld map (r / 4) 1) (2 * (r % 4) + 1) (2 * (r % 4))) prev bs with
    | none => none
    | some (row, rest) => (decodeRows map n (r + 1) (some row) rest).map (row ++ ·)

/-- A chunk decoded from its entry and frame; none: the frame is faulty (R266). -/
def decodeChunk (e : Nat) (frame : List Byte) : Option (List Byte) :=
  let d := match eMethod e with
    | 0 => some (zeros 65536)
    | 1 => some (fit frame 65536)
    | 2 => let f := fit frame (eLen e * 256); decodeRows (f.take 256) 1024 0 none (f.drop 256)
    | _ => none
  match d with
  | none => none
  | some x => if eCrcValid e && crc32c x != eCrc e then none else some x

/-- An entry with its check value set by a first read (R283). -/
def withCrc (e : Nat) (chunk : List Byte) : Nat := if eCrcValid e then e else e % 2 ^ 10 + 2 ^ 10 + crc32c chunk * 2 ^ 32

/-! ### Flash copies (R262, R267) -/

/-- The frame of a chunk as flash holds it. -/
def flashFrame (s : State) (o : Obj) (c : Nat) : List Byte :=
  let n := eGranules (chunkEntry s o c)
  (ftlRead s o.nsid.toNat (slotLba o c) (ceilDiv (n * 256) 4096)).take (n * 256)

/-- A chunk read from flash: decoded, or none where its frame is faulty. -/
def flashChunk (s : State) (o : Obj) (c : Nat) : Option (List Byte) := decodeChunk (chunkEntry s o c) (flashFrame s o c)

/-- The first read of a chunk sets the check value of its entry (R283); where flash has no page free for the entry, a later read does. -/
def noteCrc (s : State) (o : Obj) (c : Nat) (chunk : List Byte) : State :=
  let e := chunkEntry s o c
  if eCrcValid e then s else (writeEntry s o c (withCrc e chunk)).getD s

/-- Chunks read from flash in order; none: one is faulty. -/
def flashChunks (s : State) (o : Obj) : List Nat → Option (State × List (Nat × List Byte))
  | [] => some (s, [])
  | c :: t =>
    match flashChunk s o c with
    | none => none
    | some x =>
      match flashChunks (noteCrc s o c x) o t with
      | none => none
      | some (s, l) => some (s, (c, x) :: l)

/-- A chunk's frame and its table entry written as one update (R277); none while flash has no page free. -/
def writeFrame (s : State) (o : Obj) (c e : Nat) (frame : List Byte) : Option State :=
  let ns := o.nsid.toNat
  let units := ceilDiv (eGranules e) 64
  let step1 := if units = 0 then some s else ftlWrite s ns (slotLba o c) (fit frame (units * 16384))
  match step1 with
  | none => none
  | some s1 =>
    match (if units = 4 then some s1 else ftlJournal s1 .dealloc ns (slotLba o c + 4 * units) (16 - 4 * units)) with
    | none => none
    | some s2 => writeEntry s2 o c e

/-! ### Tile copies (R269, R270, R280) -/

/-- The number of the copy of tile `t` that partition `p` has in T1 or in its root tile cache. -/
def copyIx (p : Nat) (root : Bool) (t : Nat) : Nat := if root then p * 2 ^ 32 + t else t

/-- A copy of a tile, in T1 or in the root tile cache, by its number. -/
def copyOf (o : Obj) (root : Bool) (t : Nat) : Option TileCopy := tfind? (if root then o.root else o.t1) t

def updCopies (s : State) (key : Nat) (root : Bool) (f : Tbl TileCopy → Tbl TileCopy) : State :=
  updObj s key fun o => if root then { o with root := f o.root } else { o with t1 := f o.t1 }
def putCopy (s : State) (key : Nat) (root : Bool) (t : Nat) (x : TileCopy) : State := updCopies s key root fun l => tput l t x
def updCopy (s : State) (key : Nat) (root : Bool) (t : Nat) (f : TileCopy → TileCopy) : State :=
  updCopies s key root fun l => match tfind? l t with
    | some x => tput l t (f x)
    | none => l
def delCopy (s : State) (key : Nat) (root : Bool) (t : Nat) : State := updCopies s key root fun l => tdel l t

/-- The T1 entry of a stored chunk, its frame, its decoded bytes. -/
def storedEntry (x : List Byte) : Nat := fld x 0 8
def storedChunk (x : List Byte) : Option (List Byte) := decodeChunk (storedEntry x) (x.drop 8)
def storedOf (e : Nat) (frame : List Byte) : List Byte := leBytes 8 e ++ frame

/-- Granules a T1 copy takes, or those kept for it while it is in progress. -/
def copyGranules (x : TileCopy) : Nat := if x.complete then natSum (x.chunks.map fun c => eGranules (storedEntry c.2)) else x.room

/-- Granules of an object's chunk table in the pool; a MAPPED object's is not there. -/
def tableGranules (o : Obj) : Nat := if oMapped o then 0 else ceilDiv (objChunks o * 8) 256

/-- Objects of a partition. -/
def objsOf (s : State) (p : Nat) : List (Nat × Obj) := s.tie.objs.filter fun x => oPart x.1 == p

/-- Granules that copies of index lists take (R337); granules in use and in the pool (R285); chunks in use and in the root tile cache (R269). -/
def listGranules (s : State) (p : Nat) : Nat :=
  natSum (s.srch.indexes.map fun x => if oPart x.1 == p then natSum (x.2.held.map fun l => l.2.granules) else 0)
def poolUsed (s : State) (p : Nat) : Nat :=
  natSum ((objsOf s p).map fun x => tableGranules x.2 + natSum (x.2.t1.map fun t => copyGranules t.2)) + listGranules s p
def poolCap (s : State) (p : Nat) : Nat := (tiePart s p).poolLen * 256
def rootUsed (s : State) (p : Nat) : Nat :=
  natSum (s.tie.objs.map fun x => (x.2.root.filter fun t => t.1 / 2 ^ 32 == p).length * tileChunks x.2)
def rootCap (s : State) (p : Nat) : Nat :=
  256 * ((List.range 32).filter fun g => (prec s p).rootSegs.getLsbD g && !(tiePart s p).rootPin.getLsbD g).length

/-- A partition's copies that may be freed: complete and unreferenced, with object key and number (R270). -/
def freeable (s : State) (p : Nat) (root : Bool) : List (Nat × Nat × TileCopy) :=
  s.tie.objs.flatMap fun x =>
    ((if root then x.2.root.filter fun t => t.1 / 2 ^ 32 == p else if oPart x.1 == p then x.2.t1 else []).filter fun t =>
      t.2.complete && t.2.refs.isEmpty).map fun t => (x.1, t.1, t.2)

/-- The least recently used of them; clean copies before dirty ones (R270). -/
def lruCopy (l : List (Nat × Nat × TileCopy)) : Option (Nat × Nat × TileCopy) :=
  l.foldl (fun a x =>
    match a with
    | none => some x
    | some y =>
      let key (z : Nat × Nat × TileCopy) : Nat × Nat := (bnat (!z.2.2.dirty.isEmpty), z.2.2.used)
      if (key x).1 < (key y).1 || ((key x).1 == (key y).1 && decide ((key x).2 < (key y).2)) then some x else a) none

/-- A copy is used now. -/
def touchCopy (s : State) (key : Nat) (root : Bool) (t : Nat) : State :=
  let n := s.tie.stamp + 1
  updCopy { s with tie := { s.tie with stamp := n } } key root t fun x => { x with used := n }

/-! ### Write-back (R276, R277) -/

/-- A chunk written back is counted (R285). -/
def countWb (s : State) (p : Nat) : State := updTiePart s p fun x => { x with wb := x.wb + 1 }

/-- Tile of a chunk. -/
def tileOf (o : Obj) (c : Nat) : Nat := c / tileChunks o

/-- The first-dirty time of a chunk, if it is dirty. -/
def dirtySince (o : Obj) (c : Nat) : Option Nat :=
  if oMapped o then tfind? o.mdirty c
  else match tfind? o.t1 (tileOf o c) with
    | some x => tfind? x.dirty c
    | none => none

/-- One dirty chunk written to flash; a chunk that is not dirty is left; none while flash has no page free. -/
def writeBack (s : State) (key c : Nat) : Option State :=
  match tfind? s.tie.objs key with
  | none => some s
  | some o =>
    if (dirtySince o c).isNone then some s
    else if oMapped o then
      let (e, frame) := encodeChunk (oCompress o) (mread s.mem (o.daddr + c * 65536) 65536)
      (writeFrame s o c e frame).map fun s => countWb (updObj s key fun o => { o with mdirty := tdel o.mdirty c }) (oPart key)
    else
      let x := ((copyOf o false (tileOf o c)).map fun t => tget [] t.chunks c).getD []
      (writeFrame s o c (storedEntry x) (x.drop 8)).map fun s =>
        countWb (updCopy s key false (tileOf o c) fun t => { t with dirty := tdel t.dirty c }) (oPart key)

/-- Several chunks written back. -/
def writeBacks (key : Nat) : List Nat → State → Option State
  | [], s => some s
  | c :: t, s => match writeBack s key c with
    | none => none
    | some s => writeBacks key t s

/-- Dirty chunks of an object. -/
def dirtyChunks (o : Obj) : List Nat := if oMapped o then o.mdirty.map (·.1) else o.t1.flatMap fun t => t.2.dirty.map (·.1)

/-- A copy freed, its dirty chunks written back first (R270); none while they cannot be. -/
def freeCopy (s : State) (key : Nat) (root : Bool) (t : Nat) : Option State :=
  let dirty := match tfind? s.tie.objs key with
    | some o => if root then [] else ((copyOf o false t).map fun x => x.dirty.map (·.1)).getD []
    | none => []
  (writeBacks key dirty s).map fun s => delCopy s key root t

/-- The least recently used copy of an index list in a partition's pool, as index key, list and use stamp; that copy freed (R270, R337). -/
def lruList (s : State) (p : Nat) : Option (Nat × Nat × Nat) :=
  ((s.srch.indexes.filter fun x => oPart x.1 == p).flatMap fun x => x.2.held.map fun l => (x.1, l.1, l.2.used)).foldl (fun a x =>
    match a with
    | none => some x
    | some y => if x.2.2 < y.2.2 then some x else a) none
def freeList (s : State) (key l : Nat) : State :=
  { s with srch := { s.srch with indexes := s.srch.indexes.map fun x => (x.1, if x.1 == key then { x.2 with held := tdel x.2.held l } else x.2) } }

/-- The next copy freed: an unreferenced one of a tile, or one of a list, which is always clean; clean ones first, then least recently used. -/
def freeNext (s : State) (p : Nat) (root : Bool) : Option State :=
  match lruCopy (freeable s p root), if root then none else lruList s p with
  | none, none => none
  | none, some y => some (freeList s y.1 y.2.1)
  | some x, none => freeCopy s x.1 root x.2.1
  | some x, some y =>
    if !x.2.2.dirty.isEmpty || decide (y.2.2 < x.2.2.used) then some (freeList s y.1 y.2.1) else freeCopy s x.1 root x.2.1

/-- Copies freed, least recently used first, until `need` more granules or chunks fit (R270); none: they cannot. -/
def makeSpace : Nat → State → Nat → Bool → Nat → Option State
  | 0, _, _, _, _ => none
  | fuel + 1, s, p, root, need =>
    if (if root then rootUsed s p else poolUsed s p) + need ≤ (if root then rootCap s p else poolCap s p) then some s
    else
      match freeNext s p root with
      | none => none
      | some s => makeSpace fuel s p root need

/-- Space for `need` more granules of T1, or chunks of the root tile cache. -/
def spaceFor (s : State) (p : Nat) (root : Bool) (need : Nat) : Option State :=
  makeSpace ((freeable s p root).length + natSum (s.srch.indexes.map fun x => x.2.held.length) + 1) s p root need

/-- What a copy of a tile will take: granules of its frames, or chunks. -/
def copyNeed (s : State) (o : Obj) (root : Bool) (t : Nat) : Nat :=
  if root then tileChunks o else natSum ((tileChunkIxs o t).map fun c => eGranules (chunkEntry s o c))

/-! ### Contents of a tile -/

/-- Bytes of a list of optional pieces; none if one is missing. -/
def joinAll : List (Option (List Byte)) → Option (List Byte)
  | [] => some []
  | none :: _ => none
  | some x :: t => (joinAll t).map (x ++ ·)

/-- A tile's bytes from its root copy, from T1 or MAPPED memory; none: a frame is faulty. -/
def rootTile (o : Obj) (t : Nat) (x : TileCopy) : List Byte := (tileChunkIxs o t).flatMap fun c => tget (zeros 65536) x.chunks c
def t1Tile (o : Obj) (t : Nat) (x : TileCopy) : Option (List Byte) :=
  joinAll ((tileChunkIxs o t).map fun c => storedChunk (tget [] x.chunks c))

/-- A complete copy. -/
def heldCopy (o : Obj) (root : Bool) (t : Nat) : Option TileCopy := (copyOf o root t).filter (·.complete)

/-- A reference of a holder taken on a copy; a holder has at most one (R280). -/
def addRef (holder : Nat) (x : TileCopy) : TileCopy := if x.refs.contains holder then x else { x with refs := x.refs ++ [holder] }

/-- A copy that has been started and holds nothing yet, with the room kept for it. -/
def copyStarted (holder room : Nat) : TileCopy := { chunks := [], dirty := [], refs := [holder], used := 0, complete := false, room }

/-- Chunks in the form a copy holds them, with the entries the object's table gives. -/
def copyChunks (o : Obj) (root : Bool) (l : List (Nat × List Byte)) (s : State) : Tbl (List Byte) :=
  l.foldl (fun m x => tput m x.1 (if root then x.2 else storedOf (withCrc (chunkEntry s o x.1) x.2) (flashFrame s o x.1))) []

end Sys2Proof.Machine
end

