-- ==== Sys2Proof/Machine/Tier.lean ====
section
/-! DEFINITION. The TIER class (R283, R284), prefetch schedules (R271-R279) and tile copies in progress (R281). -/

namespace Sys2Proof.Machine

/-- The offset at which OFLAGS, TILE_LOG2 or TILES break R260 or R261. -/
def badObject (fl log2 tiles : Nat) : Option Nat :=
  if (bitAt fl 0 && bitAt fl 1) || (bitAt fl 3 && !bitAt fl 1) || (bitAt fl 3 && (bitAt fl 4 || bitAt fl 2)) then some 0x24
  else if 6 < log2 then some 0x25
  else if tiles = 0 || 2 ^ 32 ≤ tiles * 2 ^ log2 then some 0x28 else none

/-- Opcodes of class TIER (R283). The checks of R260 and R261 are range checks, made in the order of the bytes (R57). -/
def tierOps : List OpSpec := [
  { cls := 4, op := 1, used := [(0x20, 6), (0x28, 4), (0x30, 16)], bitsRes := [(0x24, 0xE0)], b := fun _ _ => 5000
    range := fun _ e =>
      let fl := fld e 0x24 1
      if bitAt fl 3 && fld e 0x20 4 != 0 then some (0x0018, 0x20)
      else match badObject fl (fld e 0x25 1) (fld e 0x28 4) with
        | some d => some (0x0100, d)
        | none =>
          if bitAt fl 3 && fld e 0x30 8 != 0 then some (0x0018, 0x30)
          else if !bitAt fl 1 && fld e 0x38 8 != 0 then some (0x0018, 0x38) else none },
  { cls := 4, op := 2, used := [(0x20, 4)] },
  { cls := 4, op := 3, used := [(0x20, 20)], b := fun _ _ => 5000, range := tileRange },
  { cls := 4, op := 4, used := [(0x20, 20)], b := fun _ _ => 5000, range := tileRange },
  { cls := 4, op := 5, used := [(0x20, 4)], b := fun _ _ => 5000 },
  { cls := 4, op := 6, used := [(0x20, 6)] },
  { cls := 4, op := 7, used := [(0x20, 6)] },
  { cls := 4, op := 8, used := [(0x20, 4)], pay := .inOnly },
  { cls := 4, op := 9, used := [(0x20, 4)], pay := .outOnly, lenOk := fun _ _ _ o => decide (64 ≤ o) },
  { cls := 4, op := 0x0A, used := [(0x20, 16)], bitsRes := [] } ]
where
  /-- TARGET 0 or 1, and a host holder (R280). -/
  tileRange (_ : State) (e : List Byte) : Option (Nat × Nat) :=
    if 1 < fld e 0x2C 4 then some (0x0018, 0x2C)
    else if bits (fld e 0x30 4) 11 8 != 0xF then some (0x0018, 0x30) else none

/-- The object of a request, of its own partition (R259), once the requests on it accepted earlier have begun (R281); else NOT_FOUND. -/
def withObj (s : State) (r : ReqId) (x : Exec) (f : Nat → Obj → State) : State :=
  let h := prm x 0x20 4
  if earlierWaiting s r x fun y => entCls y.entry == 4 && entOp y.entry != 1 && entOp y.entry != 8 && entOp y.entry != 0x0A && prm y 0x20 4 == h then
    notYet s r
  else match objOf s h with
  | some o => if oPart (objKey h) == reqPart r then f (objKey h) o else finish s r (ansErr 0x0004)
  | none => finish s r (ansErr 0x0004)

/-! ### DRAM already taken (R238, R263, R270) -/

/-- DRAM ranges of the loaded jobs of a partition: images and rank areas (R237). -/
def jobRanges (s : State) (p : Nat) : List (Nat × Nat) :=
  (s.sch.jobs.filter fun x => x.2.part == p).flatMap fun x =>
    [(x.2.imageBase, jImageLen x.2), (x.2.rankBase, jWidth x.2 * jRankSize x.2)]

/-- DRAM ranges of MAPPED objects. -/
def mappedRanges (s : State) : List (Nat × Nat) :=
  (s.tie.objs.filter fun x => oMapped x.2).map fun x => (x.2.daddr, objChunks x.2 * 65536)

/-- The pool's range. -/
def poolRange (s : State) (p : Nat) : Nat × Nat := ((tiePart s p).poolBase, (tiePart s p).poolLen * 65536)

/-- A range meets one of a list. -/
def hitsAny (a n : Nat) (l : List (Nat × Nat)) : Bool := l.any fun x => overlaps x.1 x.2 a n

/-! ### CREATE and DELETE (R259-R263, R282) -/

/-- The offset at which the extent or DADDR of a new object breaks R262 or R263. -/
def badExtent (s : State) (p : Nat) (o : Obj) : Option Nat :=
  let chunks := objChunks o
  let len := tableBlocks chunks + 16 * chunks
  let ext : Option Nat :=
    if oVolatile o then none
    else
      match nsIn s p o.nsid.toNat with
      | none => some 0x20
      | some k => if o.slba % 4 != 0 || decide (k.blocks < o.slba + len) || claimed s o.nsid.toNat o.slba len then some 0x30 else none
  match ext with
  | some d => some d
  | none =>
    if oMapped o && (o.daddr % 65536 != 0 || !slicesOwned s p o.daddr (chunks * 65536) || hitsAny o.daddr (chunks * 65536)
        (poolRange s p :: mappedRanges s ++ jobRanges s p)) then some 0x38 else none

/-- The lowest free index of a partition's objects. -/
def freeObj (s : State) (p : Nat) : Option Nat :=
  let n := (objsOf s p).length
  if 65536 ≤ n then none else (List.range (n + 1)).find? fun i => (tfind? s.tie.objs (p * 65536 + i)).isNone

/-- The chunk table of a new object written (R283): RAW entries for ADOPT; else every chunk ZERO, the extent deallocated. -/
def writeTable (s : State) (o : Obj) : Option State :=
  let chunks := objChunks o
  let ns := o.nsid.toNat
  if oVolatile o then some s
  else if oAdopt o then
    ftlWrite s ns o.slba (fit ((List.replicate chunks (leBytes 8 0x3FD)).flatten) (tableBlocks chunks * 4096))
  else ftlJournal s .dealloc ns o.slba (tableBlocks chunks + 16 * chunks)

/-- A MAPPED object's content loaded from its extent, or zero (R263); none: a frame is faulty. -/
def loadMapped (s : State) (o : Obj) : Option State :=
  if !oMapped o then some s
  else if oAdopt o then
    match flashChunks s o (List.range (objChunks o)) with
    | none => none
    | some (s, l) => some (l.foldl (fun s x => ncWrite s (o.daddr + x.1 * 65536) x.2) s)
  else some (clearRange ((trackedLines s o.daddr (objChunks o * 65536)).foldl ncDropLine s) o.daddr (objChunks o * 65536))

/-- An address fault of a tile mover or of Sage is logged (R23, R498). -/
def logAddr (s : State) (p a job : Nat) : State :=
  logErr s { source := 9, severity := 1, part := some p, eflags := 2, address := a, job, requester := 33 }

/-- A request that met an address fault completes with DEVICE_ERROR and the number of the log entry (R64, R498). -/
def addrError (s : State) (r : ReqId) (a : Nat) : State := finish (logAddr s (reqPart r) a 0) r (ansErr 0x0009 (nextSeqLow s))

/-- Poisoned data read by the DMA of DX is logged with requester 33 (R136, R496). -/
def logPoison (s : State) (p a : Nat) : State :=
  logErr s { source := 1, severity := 1, part := some p, address := a, requester := 33 }

/-- A request that met poisoned data at `a` completes with MEDIA_ERROR and the number of the log entry (R496). -/
def mediaError (s : State) (r : ReqId) (a : Nat) : State := finish (logPoison s (reqPart r) a) r (ansErr 0x000A (nextSeqLow s))

/-- The address at which an access to a MAPPED object faults, its DRAM having left its owner's slices (R79). -/
def lostMapped (s : State) (h : Nat) : Option Nat :=
  match objOf s h with
  | some o => if oMapped o && !mappedHeld s (objKey h) o then some o.daddr else none
  | none => none

/-- A faulty frame is logged (R266, R279). -/
def logFrame (s : State) (p job : Nat) : State := logErr s { source := 0x0B, severity := 1, part := some p, job, requester := 33 }

/-- CREATE. -/
def execTierCreate (r : ReqId) (s : State) : Res :=
  runReq s r 4 1 fun s x =>
    let p := reqPart r
    let fl := prm x 0x24 1
    match badObject fl (prm x 0x25 1) (prm x 0x28 4) with
    | some d => finish s r (ansErr 0x0100 d)
    | none =>
      match freeObj s p with
      | none => finish s r (ansErr 0x0005)
      | some i =>
        let key := p * 65536 + i
        let g := tget 0 s.tie.gens key
        let gen := if g = 4095 then 1 else g + 1
        let o : Obj :=
          { gen, oflags := BitVec.ofNat 8 fl, tileLog2 := prm x 0x25 1, tiles := prm x 0x28 4, nsid := BitVec.ofNat 32 (prm x 0x20 4)
            slba := prm x 0x30 8, daddr := prm x 0x38 8, shareMask := 0, t1 := [], root := []
           , mdirty := [], promotes := [] }
        match badExtent s p o with
        | some d => finish s r (ansErr 0x0101 d)
        | none =>
          match spaceFor s p false (tableGranules o) with
          | none => finish s r (ansErr 0x0005)
          | some s =>
            match writeTable s o with
            | none => s
            | some s =>
              let s := { s with tie := { s.tie with objs := tput s.tie.objs key { o with oflags := o.oflags &&& ~~~ 2#8 }, gens := tput s.tie.gens key gen } }
              match loadMapped s o with
              | none =>
                let d := nextSeqLow s
                let s := { s with tie := { s.tie with objs := tdel s.tie.objs key } }
                finish (logFrame s p 0) r (ansErr 0x000A d)
              | some s =>
                let s := updObj s key fun k => { k with oflags := o.oflags }
                let s := if oVolatile o then s else
                  addClaim s { nsid := o.nsid.toNat, lba := o.slba, len := tableBlocks (objChunks o) + 16 * objChunks o, kind := 1, key }
                finish (commit s r) r (ansOk (objHandle key o))

/-- A reference on any copy of an object. -/
def referenced (o : Obj) : Bool := (o.t1 ++ o.root).any fun t => !t.2.refs.isEmpty

/-- DELETE: shared or referenced objects stay; dirty chunks are written back before their copies go, and until they can be, the object's lock is
held (R281). -/
def execTierDelete (r : ReqId) (s : State) : Res :=
  runReq s r 4 2 fun s x =>
    withObj s r x fun key o =>
      if o.shareMask != 0 || referenced o then finish s r (ansErr 0x0102)
      else
        match (if oVolatile o then some s else writeBacks key (dirtyChunks o) s) with
        | none => notYet s r
        | some s =>
          let s := { s with tie := { s.tie with objs := tdel s.tie.objs key } }
          finish (commit (dropClaims s 1 key) r) r (ansOk 0)

/-! ### PROMOTE and EVICT (R280, R281) -/

/-- A tile of a MAPPED object is always in T1 (R260). -/
def alwaysHeld (o : Obj) (root : Bool) : Bool := oMapped o && !root

/-- References taken and copies started by partition `p` for tiles of an object, with the numbers of the copies referenced anew; none: no
space. -/
def takeTiles (p key holder : Nat) (root : Bool) : List Nat → State → Option (State × List Nat)
  | [], s => some (s, [])
  | t :: ts, s =>
    match tfind? s.tie.objs key with
    | none => none
    | some o =>
      let k := copyIx p root t
      let here : Option (State × List Nat) :=
        match copyOf o root k with
        | some c => some (updCopy s key root k (addRef holder), if c.refs.contains holder then [] else [k])
        | none =>
          if alwaysHeld o root then some (putCopy s key root k { copyStarted holder 0 with complete := true }, [k])
          else
            let need := copyNeed s o root t
            (spaceFor s p root need).map fun s => (putCopy s key root k (copyStarted holder need), [k])
      match here with
      | none => none
      | some (s, l) => (takeTiles p key holder root ts s).map fun y => (y.1, l ++ y.2)

/-- A copy is incomplete. -/
def pendingCopy (o : Obj) (root : Bool) (t : Nat) : Bool :=
  match copyOf o root t with
  | some c => !c.complete
  | none => false

/-- Tiles FIRST_TILE to FIRST_TILE + COUNT - 1. -/
def tileList (x : Exec) : List Nat := (List.range (prm x 0x28 4)).map (· + prm x 0x24 4)

/-- The numbers of their copies in the request's TARGET. -/
def copyList (r : ReqId) (x : Exec) : List Nat := (tileList x).map (copyIx (reqPart r) (prm x 0x2C 4 == 1))

/-- PROMOTE: references at the lock, copies started or joined; it completes when every copy is complete. -/
def execPromote (r : ReqId) (s : State) : Res :=
  runReq s r 4 3 fun s x =>
    withObj s r x fun key o =>
      let n := prm x 0x28 4
      let root := prm x 0x2C 4 == 1
      if o.promotes.any fun q => q.req == r then s
      else if o.tiles < prm x 0x24 4 + n then finish s r (ansErr 0x0018 (if o.tiles ≤ prm x 0x24 4 then 0x24 else 0x28))
      else
        match takeTiles (reqPart r) key (prm x 0x30 4) root (tileList x) s with
        | none => finish s r (ansErr 0x0005)
        | some (s, took) =>
          let o := (tfind? s.tie.objs key).getD o
          let waiting := (copyList r x).filter (pendingCopy o root)
          if waiting.isEmpty then finish (commit s r) r (ansOk n)
          else updObj s key fun o => { o with promotes := o.promotes ++ [{ req := r, holder := prm x 0x30 4, root, count := n, took, waiting }] }

/-- A holder's reference dropped; a copy in progress left without reference is cancelled (R281); of a tile of a MAPPED object, which stays in
T1, no more is kept. -/
def dropRef (key holder : Nat) (root : Bool) (s : State) (t : Nat) : State :=
  let s := updCopy s key root t fun c => { c with refs := c.refs.filter (· != holder) }
  match (tfind? s.tie.objs key).bind fun o => copyOf o root t with
  | some c =>
    if c.complete && c.chunks.isEmpty && c.refs.isEmpty then delCopy s key root t
    else if !c.complete && c.refs.isEmpty then updTiePart (delCopy s key root t) (oPart key) fun x => { x with cancelled := satInc x.cancelled }
    else s
  | none => s

/-- Unreferenced copies of some tiles freed, dirty ones after a write-back; the count freed; none while flash has no page free. -/
def freeTiles (key : Nat) (root : Bool) : List Nat → State → Option (State × Nat)
  | [], s => some (s, 0)
  | t :: ts, s =>
    match (tfind? s.tie.objs key).bind fun o => heldCopy o root t with
    | some c =>
      if c.refs.isEmpty then
        match freeCopy s key root t with
        | none => none
        | some s => (freeTiles key root ts s).map fun y => (y.1, y.2 + 1)
      else freeTiles key root ts s
    | none => freeTiles key root ts s

/-- A PROMOTE that ends before its commit point leaves no reference behind. -/
def giveBack (key : Nat) (q : Promote) (s : State) : State := q.took.foldl (dropRef key q.holder q.root) s

/-- PROMOTEs of a holder before their commit points, with a reference on one of some copies, complete with TIER_EVICTED (R281). -/
def evictPromotes (s : State) (key holder : Nat) (root : Bool) (ts : List Nat) : State :=
  match tfind? s.tie.objs key with
  | none => s
  | some o =>
    let hit (q : Promote) : Bool := q.holder == holder && q.root == root && (q.took ++ q.waiting).any ts.contains
    let s := updObj s key fun o => { o with promotes := o.promotes.filter fun q => !hit q }
    (o.promotes.filter hit).foldl (fun s q => finish (giveBack key q s) q.req (ansErr 0x0107)) s

/-- EVICT. -/
def execEvict (r : ReqId) (s : State) : Res :=
  runReq s r 4 4 fun s x =>
    withObj s r x fun key o =>
      let root := prm x 0x2C 4 == 1
      let holder := prm x 0x30 4
      if o.tiles < prm x 0x24 4 + prm x 0x28 4 then finish s r (ansErr 0x0018 (if o.tiles ≤ prm x 0x24 4 then 0x24 else 0x28))
      else
        let s := evictPromotes s key holder root (copyList r x)
        let s := commit ((copyList r x).foldl (dropRef key holder root) s) r
        match freeTiles key root (copyList r x) s with
        | none => s
        | some (s, n) => finish s r (ansOk n)

/-- A PROMOTE cancelled before its commit point gives back the references it took (R66, R69). -/
def cancelPromote (s : State) (r : ReqId) : State :=
  s.tie.objs.foldl (fun s x =>
    match x.2.promotes.find? fun q => q.req == r with
    | none => s
    | some q =>
      let s := updObj s x.1 fun o => { o with promotes := o.promotes.filter fun q => q.req != r }
      giveBack x.1 q s) s

/-! ### FLUSH, SHARE, INFO, POOL -/

/-- FLUSH: every dirty chunk is written; it waits while flash has no page free (R277). -/
def execTierFlush (r : ReqId) (s : State) : Res :=
  runReq s r 4 5 fun s x =>
    withObj s r x fun key o =>
      if oVolatile o then finish s r (ansOk 0)
      else
        match (dirtyChunks o).find? fun c => oMapped o && poisoned s (o.daddr + c * 65536) 65536 with
        | some c =>
          let d := nextSeqLow s
          finish (logDram s (some (oPart key)) (o.daddr + c * 65536) 0) r (ansErr 0x000A d)
        | none =>
          match writeBacks key (dirtyChunks o) s with
          | none => notYet s r
          | some s => finish (commit s r) r (ansOk (dirtyChunks o).length)

/-- SHARE (R282). -/
def execShare (r : ReqId) (s : State) : Res :=
  runReq s r 4 6 fun s x =>
    withObj s r x fun key o =>
      let m : Half := BitVec.ofNat 16 (prm x 0x24 2)
      if isSealed s (reqPart r) || (List.range 16).any (fun q => m.getLsbD q && isSealed s q) || !oReadOnly o || !oMapped o then
        finish s r (ansErr 0x0105)
      else finish (commit (updObj s key fun o => { o with shareMask := o.shareMask ||| m }) r) r (ansOk 0)

/-- UNSHARE. -/
def execUnshare (r : ReqId) (s : State) : Res :=
  runReq s r 4 7 fun s x =>
    withObj s r x fun key _ =>
      let m : Half := BitVec.ofNat 16 (prm x 0x24 2)
      finish (commit (updObj s key fun o => { o with shareMask := o.shareMask &&& ~~~ m }) r) r (ansOk 0)

/-- The entry of a chunk as it stands: that of its T1 copy if it has one. -/
def entryNow (s : State) (o : Obj) (c : Nat) : Nat :=
  match (heldCopy o false (tileOf o c)).bind fun t => tfind? t.chunks c with
  | some x => storedEntry x
  | none => chunkEntry s o c

/-- INFO. -/
def execTierInfo (r : ReqId) (s : State) : Res :=
  runReq s r 4 9 fun s x =>
    withObj s r x fun key o =>
      let cs := List.range (objChunks o)
      let held := if oMapped o then objChunks o else natSum (o.t1.map fun t => if t.2.complete then t.2.chunks.length else 0)
      let digest := crc32c (cs.flatMap fun c => leBytes 4 (eCrc (entryNow s o c)))
      let body := leBytes 4 (objHandle key o) ++ leBytes 1 o.oflags.toNat ++ leBytes 1 o.tileLog2 ++ leBytes 2 o.shareMask.toNat ++ leBytes 4 o.tiles
        ++ leBytes 4 o.nsid.toNat ++ leBytes 8 o.slba ++ leBytes 8 o.daddr ++ leBytes 8 held ++ leBytes 8 (dirtyChunks o).length
        ++ leBytes 4 digest ++ leBytes 1 (bnat (cs.all fun c => eCrcValid (entryNow s o c)))
      finish s r (ansOk 64 (fit body 64))

/-- The copies of index lists in a partition's pool are gone; they are clean (R337). -/
def dropLists (s : State) (p : Nat) : State :=
  { s with srch := { s.srch with indexes := s.srch.indexes.map fun x => (x.1, if oPart x.1 == p then { x.2 with held := [] } else x.2) } }

/-- The pool holds a tile copy or a chunk table (R283); after a reset that took the pool there is none to hold any. -/
def poolBusy (s : State) (p : Nat) : Bool := (tiePart s p).poolLen != 0 && (objsOf s p).any fun x => !oMapped x.2

/-- POOL (R270). -/
def execPool (r : ReqId) (s : State) : Res :=
  runReq s r 4 0x0A fun s x =>
    let p := reqPart r
    let base := prm x 0x20 8
    let len := prm x 0x28 4
    let pin : Word := BitVec.ofNat 32 (prm x 0x2C 4)
    if poolBusy s p then finish s r (ansErr 0x0106)
    else if len != 0 && (!slicesOwned s p base (len * 65536) || hitsAny base (len * 65536) (mappedRanges s ++ jobRanges s p)) then
      finish s r (ansErr 0x0104 0x20)
    else if pin &&& ~~~ (prec s p).rootSegs != 0 then finish s r (ansErr 0x0104 0x2C)
    else finish (commit (updTiePart (dropLists s p) p fun t => { t with poolBase := base, poolLen := len, rootPin := pin }) r) r (ansOk 0)

/-! ### Schedules (R271, R274) -/

def sObj (e : List Byte) : Nat := fld e 0 4
def sTile (e : List Byte) : Nat := fld e 4 4
def sRank (e : List Byte) : Nat := fld e 8 1
def sKind (e : List Byte) : Nat := fld e 9 1
def sGateEn (e : List Byte) : Bool := bitAt (fld e 0xA 1) 0
def sPostEn (e : List Byte) : Bool := bitAt (fld e 0xA 1) 1
def sBypass (e : List Byte) : Bool := bitAt (fld e 0xA 1) 2
def sRoot (e : List Byte) : Bool := bitAt (fld e 0xA 1) 3
def sView (e : List Byte) : Nat := bits (fld e 0x10 4) 26 0

/-- An object a partition can reach: its own, or one shared with it while neither partition is sealed (R96, R282); one that is MAPPED only while
its DRAM is its owner's (R79). -/
def reachObj (s : State) (p h : Nat) : Option Obj :=
  match objOf s h with
  | some o =>
    if oMapped o && !mappedHeld s (objKey h) o then none
    else if oPart (objKey h) == p || (o.shareMask.getLsbD p && !isSealed s p && !isSealed s (oPart (objKey h))) then some o else none
  | none => none

/-- An entry breaks R271 or R274. -/
def badEntry (s : State) (j : Job) (e : List Byte) : Bool :=
  let k := sKind e
  match reachObj s j.part (sObj e) with
  | none => true
  | some o =>
    decide (o.tiles ≤ sTile e) || decide (jWidth j ≤ sRank e) || decide (3 < k) || (k == 2 && (oReadOnly o || oMapped o)) ||
      (sBypass e && k != 0) || (sRoot e && k != 1) || bits (fld e 0xA 1) 7 4 != 0 || fld e 0xB 1 != 0 || decide (63 < fld e 0xC 1) ||
      decide (63 < fld e 0xD 1) || bits (fld e 0x10 4) 31 27 != 0 || !allZero (slice e 0x14 12)

/-- The header of a schedule is well formed, with its length. -/
def goodHeader (bs : List Byte) : Bool :=
  fld bs 0 4 == 0x48435354 && fld bs 4 1 == 1 && fld bs 5 3 == 0 && decide (1 ≤ fld bs 8 4) && decide (fld bs 8 4 ≤ 1048576) &&
    fld bs 0x10 8 % 65536 == 0 && allZero (slice bs 0x18 40) && bs.length == 64 + 32 * fld bs 8 4

/-- The entries of a schedule. -/
def schedEntries : Nat → List Byte → List (List Byte)
  | 0, _ => []
  | n + 1, bs => bs.take 32 :: schedEntries n (bs.drop 32)

/-- SCHEDULE attaches a schedule to a job that is loaded and not launched. -/
def execSchedule (r : ReqId) (s : State) : Res :=
  runReq s r 4 8 fun s x =>
    withJob s r x fun key j =>
      if j.st != .loaded && j.st != .ended then finish s r (ansErr 0x0106)
      else
        withIn s r x fun s bs =>
          if !goodHeader bs then finish s r (ansErr 0x0103 0xFFFF)
          else
            let es := schedEntries (fld bs 8 4) (bs.drop 64)
            match findIx (badEntry s j) es with
            | some i => finish s r (ansErr 0x0103 (i % 65536))
            | none =>
              let y : Schedule := { entries := es, repeatN := fld bs 0xC 4, lookahead := fld bs 0x10 8, pass := 0, doneIx := [], begun := [], failed := [] }
              finish (commit { s with tie := { s.tie with scheds := tput s.tie.scheds key y } } r) r (ansOk es.length)

/-! ### Performing entries (R272, R273, R279) -/

/-- The rank of a running job: its cluster. -/
def rankCluster (j : Job) (r : Nat) : Option Nat := if j.st == .running then j.clusters[r]? else none

/-- The gate of an entry is ready on its rank's cluster (R273). -/
def gateReady (s : State) (j : Job) (e : List Byte) : Bool :=
  match rankCluster j (sRank e) with
  | none => false
  | some c => !sGateEn e || tktReady (tget 0 (slot s c j.slotIx).tkt (fld e 0xC 1)).toNat (fld e 0xE 2)

/-- An unfinished earlier entry must come first: it is of the same rank or touches the same tile (R273). -/
def holdsBack (e f : List Byte) : Bool := sRank f == sRank e || (sObj f == sObj e && sTile f == sTile e)

/-- The first entry of a kind that may be performed, given the unfinished entries before it. -/
def nextEntry (s : State) (j : Job) (kind : Nat) (done : List Nat) : Nat → List (List Byte) → List (List Byte) → Option (Nat × List Byte)
  | _, _, [] => none
  | i, before, e :: t =>
    if done.contains i then nextEntry s j kind done (i + 1) before t
    else if sKind e == kind && !before.any (holdsBack e) && (kind == 1 || kind == 3 || gateReady s j e) then some (i, e)
    else nextEntry s j kind done (i + 1) (e :: before) t

/-- A schedule changed. -/
def updSched (s : State) (key : Nat) (f : Schedule → Schedule) : State :=
  match tfind? s.tie.scheds key with
  | none => s
  | some x => { s with tie := { s.tie with scheds := tput s.tie.scheds key (f x) } }

/-- An entry is finished; after the last the list restarts, until REPEAT passes have run (R273). -/
def entryDone (s : State) (key i : Nat) : State :=
  updSched s key fun x =>
    let d := i :: x.doneIx
    let b := x.begun.filter (· != i)
    if x.entries.length ≤ d.length then { x with pass := x.pass + 1, doneIx := [], begun := [] } else { x with doneIx := d, begun := b }

/-- An entry is begun. -/
def entryBegun (s : State) (key i : Nat) : State :=
  updSched s key fun x => if x.begun.contains i then x else { x with begun := x.begun ++ [i] }

/-- Bytes of an entry's tile. -/
def entryBytes (s : State) (e : List Byte) : Nat := ((objOf s (sObj e)).map fun o => tileChunks o * 65536).getD 0

/-- The first entry not yet finished. -/
def firstOpen (x : Schedule) : Nat := ((List.range x.entries.length).find? fun i => !x.doneIx.contains i).getD 0

/-- Reading of entry `i` from flash is within LOOKAHEAD: it is the first entry not yet finished, or the bytes read ahead of that and not yet
delivered leave room for it (R273 rule 4). -/
def mayRead (s : State) (x : Schedule) (i : Nat) (e : List Byte) : Bool :=
  let ahead := natSum ((x.begun.filter (· != firstOpen x)).map fun k => entryBytes s ((x.entries[k]?).getD []))
  i == firstOpen x || x.begun.contains i || decide (ahead + entryBytes s e ≤ x.lookahead)

/-- The first entry of a kind that may be begun ahead of its turn: not begun, wanted, and with no unfinished entry for the same tile before
it (R273 rules 1 and 4). -/
def aheadEntry (kind : Nat) (want : List Byte → Bool) (x : Schedule) :
    Nat → List (List Byte) → List (List Byte) → Option (Nat × List Byte)
  | _, _, [] => none
  | i, before, e :: t =>
    if x.doneIx.contains i then aheadEntry kind want x (i + 1) before t
    else if sKind e == kind && !x.begun.contains i && want e && !before.any (fun f => sObj f == sObj e && sTile f == sTile e) then some (i, e)
    else aheadEntry kind want x (i + 1) (e :: before) t

/-- A rank's deadline monitor is armed (R279). -/
def rankArmed (s : State) (j : Job) (r : Nat) : Bool :=
  match rankCluster j r with
  | some c => (slot s c j.slotIx).armed
  | none => (tget slotReset j.saved r).armed

/-- A fault raised on a rank, resident or saved. -/
def rankFault (s : State) (j : Job) (r code pos : Nat) : State :=
  let key := jobKey (jobHandle j)
  match j.clusters[r]? with
  | some c => contextFault s c j.slotIx code pos 0
  | none =>
    let s := if j.ending.isSome then s else updJob s key fun j => { j with fault := some { code, rank := r, cluster := 0, slot := 0, pos, addr := 0 } }
    beginEnd s key (if code == 0x26 then { status := 0x000A, detail := nextSeqLow s } else { status := 0x0104, detail := code })

/-- An entry of a job has failed (R279): counted; held for the next DL_CHECK of an armed timely job, else the rank's MEDIA fault. The
log entry is made by the caller, next. -/
def failEntry (s : State) (j : Job) (r : Nat) (tkt : Option Nat) : State :=
  let key := jobKey (jobHandle j)
  let s := updTiePart s j.part fun x => { x with fail := satInc x.fail }
  if runsTimely j && rankArmed s j r then
    match tfind? s.tie.scheds key, tkt with
    | some x, some t => { s with tie := { s.tie with scheds := tput s.tie.scheds key { x with failed := x.failed ++ [(r, t)] } } }
    | _, _ => s
  else rankFault s j r 0x26 0

/-- The ticket an entry posts. -/
def postOf (e : List Byte) : Option Nat := if sPostEn e then some (fld e 0xD 1) else none

/-- A STORE or WRITEBACK has done its accesses: it posts its ticket and is finished. -/
def entryPost (s : State) (key : Nat) (j : Job) (c i : Nat) (e : List Byte) : State :=
  let s := match postOf e with
    | some t => postTkt s c j.slotIx t
    | none => s
  entryDone s key i

/-- The view range of an entry: ALIGN or SEGMENT on the rank if it breaks R274. -/
def entryView (s : State) (j : Job) (c : Nat) (e : List Byte) (n : Nat) : Except Nat (List (Nat × Nat)) :=
  if sView e % 64 != 0 then .error 0x03
  else match viewRange s c j.slotIx (sView e) n with
    | some ps => .ok ps
    | none => .error 0x05

/-- The job of a schedule row while its entries may be performed (R273): launched, not ending, passes left. -/
def schedRow (h : Word) (s : State) (f : Nat → Job → Schedule → State) : Res :=
  match jobOf s h.toNat with
  | none => .next s
  | some j =>
    match tfind? s.tie.scheds (jobKey h.toNat) with
    | none => .next s
    | some x =>
      if j.st == .loaded || j.st == .ended || j.st == .queued || j.ending.isSome || (x.repeatN != 0 && decide (x.repeatN ≤ x.pass)) then .next s
      else .next (f (jobKey h.toNat) j x)

/-- The flash tier a tile is read from: T2 where its first chunk lies in SLC (R272). -/
def fromSlc (s : State) (o : Obj) (t : Nat) : Bool :=
  2 ≤ bits (entryOf s o.nsid.toNat (slotLba o (t * tileChunks o) / 4)) 39 38

/-- Where a STORE finds its tile. -/
inductive TileSrc where
  | root | t1 | flash
  deriving DecidableEq, Repr

/-- The first source that holds a tile for partition `p` (R272). -/
def tileSrc (p : Nat) (o : Obj) (t : Nat) : TileSrc :=
  if (heldCopy o true (copyIx p true t)).isSome then .root else if oMapped o || (heldCopy o false t).isSome then .t1 else .flash

/-- PROMOTEs that waited for a copy; those that wait for nothing more pass their commit point and complete (R281). -/
def promotesDone (s : State) (key : Nat) (root : Bool) (t : Nat) : State :=
  match tfind? s.tie.objs key with
  | none => s
  | some o =>
    let upd (q : Promote) : Promote := if q.root == root then { q with waiting := q.waiting.filter (· != t) } else q
    let l := o.promotes.map upd
    let s := updObj s key fun o => { o with promotes := l.filter fun q => !q.waiting.isEmpty }
    (l.filter fun q => q.waiting.isEmpty).foldl (fun s q => finish (commit s q.req) q.req (ansOk q.count)) s

/-- A copy in progress has got its chunks. -/
def copyDone (s : State) (key : Nat) (root : Bool) (t : Nat) (chunks : Tbl (List Byte)) : State :=
  promotesDone (touchCopy (updCopy s key root t fun c => { c with chunks, complete := true, room := 0 }) key root t) key root t

/-- A tile read from flash kept in T1: as a new copy, or as the one in progress; none: there is no room (R272). -/
def keepInT1 (s : State) (key : Nat) (o : Obj) (t : Nat) (l : List (Nat × List Byte)) : Option State :=
  if (copyOf o false t).isSome then some (copyDone s key false t (copyChunks o false l s))
  else
    (spaceFor s (oPart key) false (copyNeed s o false t)).map fun s =>
      touchCopy (putCopy s key false t { copyStarted 0 0 with refs := [], chunks := copyChunks o false l s, complete := true }) key false t

/-- Why a tile cannot be had: an uncorrectable page of flash, a poisoned line at an address, a faulty frame (R279). -/
inductive TileFault where
  | flash | line (a : Nat) | frame
  deriving DecidableEq, Repr

/-- The log entry of a fault of a tile (R279, R408, R496). -/
def logTile (s : State) (p job : Nat) (o : Obj) (t : Nat) (f : TileFault) : State :=
  match f with
  | .flash => (noteRead s o.nsid.toNat (slotLba o (t * tileChunks o) / 4) .uncorrectable).1
  | .line a => logDram s (some p) a job
  | .frame => logFrame s p job

/-- A STORE is counted by the flash tier that served it (R285). -/
def countFlash (s : State) (p : Nat) (o : Obj) (t : Nat) : State :=
  if fromSlc s o t then updTiePart s p fun x => { x with srcT2 := satInc x.srcT2 }
  else updTiePart s p fun x => { x with srcT3 := satInc x.srcT3 }

/-- A tile's chunks read from flash. -/
def readTile (s : State) (o : Obj) (t : Nat) (ecc : EccResult) : Except TileFault (State × List (Nat × List Byte)) :=
  if ecc == .uncorrectable then .error .flash
  else
    let s := (noteRead s o.nsid.toNat (slotLba o (t * tileChunks o) / 4) ecc).1
    match flashChunks s o (tileChunkIxs o t) with
    | none => .error .frame
    | some x => .ok x

/-- The bytes of a tile for a STORE of partition `p`, and the state after its source was used and, unless it was read ahead and counted then,
counted (R272, R285). -/
def fetchTile (s : State) (p key : Nat) (o : Obj) (e : List Byte) (ahead : Bool) (ecc : EccResult) : Except TileFault (State × List Byte) :=
  let t := sTile e
  let t1Served (s : State) : State :=
    let s := touchCopy s key false t
    if ahead then s else updTiePart s p fun x => { x with srcT1 := satInc x.srcT1 }
  match tileSrc p o t with
  | .root =>
    let k := copyIx p true t
    .ok (updTiePart (touchCopy s key true k) p fun x => { x with srcRoot := satInc x.srcRoot }, rootTile o t ((heldCopy o true k).getD (copyStarted 0 0)))
  | .t1 =>
    if oMapped o then
      let a := o.daddr + t * tileChunks o * 65536
      if poisoned s a (tileChunks o * 65536) then .error (.line a)
      else let s := ncRead (t1Served s) a (tileChunks o * 65536); .ok (s, mread s.mem a (tileChunks o * 65536))
    else match t1Tile o t ((heldCopy o false t).getD (copyStarted 0 0)) with
      | some bs => .ok (t1Served s, bs)
      | none => .error .frame
  | .flash =>
    match readTile s o t ecc with
    | .error f => .error f
    | .ok (s, l) =>
      let s := match (if sBypass e then none else keepInT1 s key o t l) with
        | some s => s
        | none => updTiePart s p fun x => { x with bypass := satInc x.bypass }
      .ok (countFlash s p o t, l.flatMap (·.2))

/-- An entry fails for its tile: it is finished, and the fault is logged (R279). -/
def tileFails (s : State) (key : Nat) (j : Job) (i : Nat) (e : List Byte) (o : Obj) (f : TileFault) : State :=
  logTile (entryDone (failEntry s j (sRank e) (postOf e)) key i) j.part (jobHandle j) o (sTile e) f

/-- An entry fails with an address fault: its object can be reached no longer (R79, R279, R498). -/
def addrFails (s : State) (key : Nat) (j : Job) (i : Nat) (e : List Byte) : State :=
  logAddr (entryDone (failEntry s j (sRank e) (postOf e)) key i) j.part (((objOf s (sObj e)).map (·.daddr)).getD 0) (jobHandle j)

/-- A STORE's tile read from flash into T1 ahead of the STORE's turn, while LOOKAHEAD and the pool have room for it (R273 rule 4; log entry 122). -/
def storeAhead (s : State) (key : Nat) (j : Job) (x : Schedule) (ecc : EccResult) : State :=
  let want (e : List Byte) : Bool := !sBypass e && (reachObj s j.part (sObj e)).any fun o => tileSrc j.part o (sTile e) == .flash
  match aheadEntry 0 want x 0 [] x.entries with
  | none => s
  | some (i, e) =>
    match objOf s (sObj e) with
    | none => s
    | some o =>
      if !mayRead s x i e then s
      else match readTile s o (sTile e) ecc with
        | .error f => tileFails s key j i e o f
        | .ok (s', l) =>
          match keepInT1 s' (objKey (sObj e)) o (sTile e) l with
          | none => s
          | some s' => entryBegun (countFlash s' j.part o (sTile e)) key i

/-- STORE: the first whose turn has come and whose gate is ready delivers its tile; where there is none, one is read ahead (R272, R273, R279). -/
def execStore (h : Word) (ecc : EccResult) (s : State) : Res :=
  schedRow h s fun key j x =>
    match nextEntry s j 0 x.doneIx 0 [] x.entries with
    | none => storeAhead s key j x ecc
    | some (i, e) =>
      match rankCluster j (sRank e), reachObj s j.part (sObj e) with
      | some c, some o =>
        match entryView s j c e (tileChunks o * 65536) with
        | .error code => contextFault s c j.slotIx code 0 0
        | .ok ps =>
          if tileSrc j.part o (sTile e) == .flash && !mayRead s x i e then s
          else
            match fetchTile s j.part (objKey (sObj e)) o e (x.begun.contains i) ecc with
            | .error f => tileFails s key j i e o f
            | .ok (s, bs) => entryPost (storeWritePieces s ps bs) key j c i e
      | _, _ => addrFails s key j i e

/-- A STAGE takes the schedule's reference and starts or joins the copy; it waits while there is no room, or while LOOKAHEAD has none (R272,
R273). -/
def stageStart (s : State) (key : Nat) (j : Job) (x : Schedule) (i : Nat) (e : List Byte) (o : Obj) : State :=
  if tileSrc j.part o (sTile e) == .flash && !mayRead s x i e then s
  else
    match takeTiles j.part (objKey (sObj e)) (jobHandle j) (sRoot e) [sTile e] s with
    | none => s
    | some (s, _) => entryBegun s key i

/-- STAGE: the first whose turn has come takes its reference and starts or joins the copy, and is finished once the copy is complete; while it
waits for that, one is begun ahead of its turn (R272, R273). -/
def execStage (h : Word) (s : State) : Res :=
  schedRow h s fun key j x =>
    let ahead : State :=
      match aheadEntry 1 (fun e => (reachObj s j.part (sObj e)).isSome) x 0 [] x.entries with
      | none => s
      | some (i, e) =>
        match objOf s (sObj e) with
        | none => s
        | some o => stageStart s key j x i e o
    match nextEntry s j 1 x.doneIx 0 [] x.entries with
    | none => ahead
    | some (i, e) =>
      match reachObj s j.part (sObj e) with
      | none => addrFails s key j i e
      | some o =>
        let held := alwaysHeld o (sRoot e) || (heldCopy o (sRoot e) (copyIx j.part (sRoot e) (sTile e))).isSome
        if held then
          match takeTiles j.part (objKey (sObj e)) (jobHandle j) (sRoot e) [sTile e] s with
          | none => s
          | some (s, _) => entryDone s key i
        else if x.begun.contains i then ahead
        else stageStart s key j x i e o

/-- RELEASE drops the schedule's reference on a tile (R272). -/
def execRelease (h : Word) (s : State) : Res :=
  schedRow h s fun key j x =>
    match nextEntry s j 3 x.doneIx 0 [] x.entries with
    | none => s
    | some (i, e) =>
      let k := objKey (sObj e)
      entryDone (dropRef k (jobHandle j) true (dropRef k (jobHandle j) false s (sTile e)) (copyIx j.part true (sTile e))) key i

/-- Chunks of a tile as they will stand in T1 after a WRITEBACK: those that differ are encoded anew and dirty (R276). -/
def mergeTile (o : Obj) (old : TileCopy) (now_ : Nat) : List Nat → List Byte → TileCopy
  | [], _ => old
  | c :: t, bs =>
    let new := bs.take 65536
    let same := match tfind? old.chunks c with
      | some y => storedChunk y == some new
      | none => false
    let x := if same then old else
      let (e, f) := encodeChunk (oCompress o) new
      { old with chunks := tput old.chunks c (storedOf e f), dirty := if (tfind? old.dirty c).isSome then old.dirty else tput old.dirty c now_ }
    mergeTile o x now_ t (bs.drop 65536)

/-- A root copy follows its tile's new content. -/
def refreshRoot (s : State) (key : Nat) (o : Obj) (t : Nat) (bs : List Byte) : State :=
  updCopy s key true (copyIx (oPart key) true t) fun x =>
    if x.complete then { x with chunks := (tileChunkIxs o t).foldl (fun m c => tput m c (slice bs ((c - t * tileChunks o) * 65536) 65536)) x.chunks } else x

/-- WRITEBACK (R272, R276): it waits for a copy in progress, and for room. -/
def execWriteback (h : Word) (s : State) : Res :=
  schedRow h s fun key j x =>
    match nextEntry s j 2 x.doneIx 0 [] x.entries with
    | none => s
    | some (i, e) =>
      match rankCluster j (sRank e), objOf s (sObj e) with
      | some c, some o =>
        let okey := objKey (sObj e)
        let t := sTile e
        match entryView s j c e (tileChunks o * 65536) with
        | .error code => contextFault s c j.slotIx code 0 0
        | .ok ps =>
          if pendingCopy o false t then s
          else if ps.any fun y => poisoned s y.1 y.2 then
            let s := entryDone (failEntry s j (sRank e) (postOf e)) key i
            logErr s { source := 2, severity := 1, part := some j.part, unit := c, job := jobHandle j, requester := 33 }
          else
            let bs := readPieces s.mem ps
            let old := (copyOf o false t).getD { copyStarted 0 0 with refs := [], complete := true }
            let new := mergeTile o old (now s) (tileChunkIxs o t) bs
            let hold := 2 ^ 32
            let s' := updCopy s okey false t (addRef hold)
            match spaceFor s' (oPart okey) false (copyGranules new - copyGranules old) with
            | none => s
            | some s =>
              let s := touchCopy (putCopy s okey false t new) okey false t
              entryPost (refreshRoot s okey o t bs) key j c i e
      | _, _ => addrFails s key j i e

/-! ### Copies in progress (R281) -/

/-- A copy failed: every PROMOTE waiting for it completes with a status, every schedule's STAGE that waits for it fails, and the copy is gone
(R279, R281, R498). The log entry is made by the caller, next. -/
def copyFailed (s : State) (key h : Nat) (root : Bool) (t : Nat) (refs : List Nat) (status : Nat) : State :=
  match tfind? s.tie.objs key with
  | none => s
  | some o =>
    let hit (q : Promote) : Bool := q.root == root && q.waiting.contains t
    let d := nextSeqLow s
    let s := delCopy s key root t
    let s := updObj s key fun o => { o with promotes := o.promotes.filter fun q => !hit q }
    let s := (o.promotes.filter hit).foldl (fun s q =>
      finish (giveBack key q (updTiePart s (oPart key) fun x => { x with fail := satInc x.fail })) q.req (ansErr status d)) s
    refs.foldl (fun s n =>
      match jobOf s n, tfind? s.tie.scheds (jobKey n) with
      | some j, some x =>
        match (withIx 0 x.entries).find? fun y => x.begun.contains y.1 && sKind y.2 == 1 && sObj y.2 == h && sTile y.2 == t % 2 ^ 32 && sRoot y.2 == root with
        | some y => entryDone (failEntry s j (sRank y.2) none) (jobKey n) y.1
        | none => s
      | _, _ => s) s

/-- The chunks of a copy in progress, from T1 for the root tile cache where T1 has the tile, else from flash; or why they cannot be had. -/
def copySource (s : State) (o : Obj) (t : Nat) (root : Bool) (ecc : EccResult) : Except TileFault (State × Tbl (List Byte)) :=
  let asTbl (bs : List Byte) : Tbl (List Byte) := (tileChunkIxs o t).map fun k => (k, slice bs ((k - t * tileChunks o) * 65536) 65536)
  if root && oMapped o then
    let a := o.daddr + t * tileChunks o * 65536
    if poisoned s a (tileChunks o * 65536) then .error (.line a)
    else let s := ncRead s a (tileChunks o * 65536); .ok (s, asTbl (mread s.mem a (tileChunks o * 65536)))
  else
    match (if root then heldCopy o false t else none) with
    | some y =>
      match t1Tile o t y with
      | some bs => .ok (s, asTbl bs)
      | none => .error .frame
    | none =>
      match readTile s o t ecc with
      | .error f => .error f
      | .ok (s, l) => .ok (s, copyChunks o root l s)

/-- TILE_COPY_DONE: the copy of a tile from flash, or for a partition's root tile cache from T1, completes or fails; `tile` is the number of the
copy. -/
def execTileCopyDone (obj : Word) (tile : Nat) (root : Bool) (ecc : EccResult) (s : State) : Res :=
  match objOf s obj.toNat with
  | none => .next s
  | some o =>
    let key := objKey obj.toNat
    let p := if root then tile / 2 ^ 32 else oPart key
    match copyOf o root tile with
    | none => .next s
    | some c =>
      if c.complete then .next s
      else if oMapped o && !mappedHeld s key o then
        .next (logAddr (copyFailed s key obj.toNat root tile c.refs 0x0009) p (o.daddr + (tile % 2 ^ 32) * tileChunks o * 65536) 0)
      else
        match copySource s o (tile % 2 ^ 32) root ecc with
        | .error f => .next (logTile (copyFailed s key obj.toNat root tile c.refs 0x000A) p 0 o (tile % 2 ^ 32) f)
        | .ok (s, chunks) => .next (copyDone s key root tile chunks)

/-- DIRTY_WRITEBACK_TIMER: a chunk dirty for 10 s is written to flash (R277). -/
def execDirtyWritebackTimer (obj : Word) (chunk : Nat) (s : State) : Res :=
  match objOf s obj.toNat with
  | none => .next s
  | some o =>
    match dirtySince o chunk with
    | none => .next s
    | some t => if oVolatile o then .next s else .next ((writeBack (reach s (t + 10000000000)) (objKey obj.toNat) chunk).getD s)

/-! ### Losses -/

/-- What a partition's tiers lose with its slices and root segments, which are cleared for their new owner (R79, R90): a pool that has left its
slices is gone with its copies, MAPPED content that has left them is no longer to be written back, and a root tile cache whose segments have
changed is empty (log entry 123). -/
def tiersLost (old s : State) : State :=
  let poolGone (p : Nat) : Bool :=
    let x := tiePart s p
    x.poolLen != 0 && !slicesOwned s p x.poolBase (x.poolLen * 65536)
  let rootGone (p : Nat) : Bool := (prec old p).rootSegs != (prec s p).rootSegs
  { s with tie := { s.tie with
    objs := s.tie.objs.map fun x => (x.1, { x.2 with
      t1 := if !oMapped x.2 && poolGone (oPart x.1) then [] else x.2.t1
      root := x.2.root.filter fun t => !rootGone (t.1 / 2 ^ 32)
      mdirty := if mappedHeld s x.1 x.2 then x.2.mdirty else [] })
    parts := s.tie.parts.map fun x => (x.1, { x.2 with
      poolBase := if poolGone x.1 then 0 else x.2.poolBase
      poolLen := if poolGone x.1 then 0 else x.2.poolLen
      rootPin := x.2.rootPin &&& (prec s x.1).rootSegs }) } }

end Sys2Proof.Machine
end

