-- ==== Sys2Proof/Machine/Ingest.lean ====
section
/-! DEFINITION. The INGEST class (R289-R292, R312-R322): sources, catalogues, targets, sampling runs, and delivery to the host and over
RoCEv2. -/

namespace Sys2Proof.Machine

/-! ### State of a partition's ingest -/

def ingPart (s : State) (p : Nat) : IngPart := tget ingPartReset s.ing.parts p
def updIng (s : State) (p : Nat) (f : IngPart → IngPart) : State :=
  { s with ing := { s.ing with parts := tmod ingPartReset s.ing.parts p f } }
def updRun (s : State) (p : Nat) (f : Run → Run) : State := updIng s p fun x => { x with run := x.run.map f }
def target (s : State) (p t : Nat) : Option Target := tfind? (ingPart s p).targets t
def updTarget (s : State) (p t : Nat) (f : Target → Target) : State :=
  updIng s p fun x => match tfind? x.targets t with
    | some y => { x with targets := tput x.targets t (f y) }
    | none => x

/-- Decode engines a partition owns (R74). -/
def enginesOf (s : State) (p : Nat) : List Nat := (List.range 64).filter fun e => (prec s p).active && (prec s p).engines.getLsbD e

/-- DRAM ranges of runs and of Aster indexes of a partition (R320, R337). -/
def runRanges (s : State) (p : Nat) : List (Nat × Nat) :=
  match (ingPart s p).run with
  | some r => [(fld r.desc 0x98 8, fld r.desc 0xA0 8), (fld r.desc 0xA8 8, fld r.desc 0xB0 8)]
  | none => []
def indexRanges (s : State) (p : Nat) : List (Nat × Nat) :=
  (s.srch.indexes.filter fun x => x.1 / 65536 == p).map fun x => (fld x.2.desc 0x18 8, fld x.2.desc 0x20 8)

/-! ### Sources (R286-R292) -/

/-- Source identifiers: index, partition, reuse count (R319). -/
def sourceOf (s : State) (p id : Nat) : Option Source := (ingPart s p).sources.find? fun x => x.id == id

/-- The bytes of a source's file. -/
def sourceBytes (s : State) (x : Source) : List Byte := (ftlRead s x.nsid x.slba (ceilDiv x.bytes 4096)).take x.bytes

/-- The claim key of a source (R289). -/
def sourceKey (p id : Nat) : Nat := p * 2 ^ 32 + id

/-- Claims of sources that are no longer registered and in no held generation end (R292). -/
def dropSources (s : State) (p : Nat) (before : List Source) : State :=
  let x := ingPart s p
  before.foldl (fun s y =>
    if x.sources.any (fun z => z.id == y.id) || x.gens.any (fun g => g.sources.any fun z => z.id == y.id) then s
    else dropClaims s 2 (sourceKey p y.id)) s

/-- Generations held: the newest, and that of a run (R292). -/
def trimGens (s : State) (p : Nat) : State :=
  let x := ingPart s p
  let before := x.gens.flatMap (·.sources)
  let s := updIng s p fun x => { x with gens := x.gens.filter fun g => g.num == x.lastGen || (x.run.map (·.gen.num)) == some g.num }
  dropSources s p before

/-- The extents of a source: file and index, as (first block, blocks). -/
def indexBlocks (bytes : Nat) : Nat := ceilDiv bytes 262144

/-- The offset at which the extents of ADD_SOURCE break R289: each starts at a multiple of 4 blocks, as R262 has it, and neither is claimed. -/
def badSourceExtent (s : State) (p ns slba bytes ix : Nat) : Option Nat :=
  let n := ceilDiv bytes 4096
  let m := indexBlocks bytes
  match nsIn s p ns with
  | none => some 0x20
  | some k =>
    if slba % 4 != 0 || decide (k.blocks ≤ slba) || claimed s ns slba n then some 0x28
    else if k.blocks < slba + n then some 0x30
    else if ix % 4 != 0 || decide (k.blocks < ix + m) || claimed s ns ix m || overlaps slba n ix m then some 0x38
    else none

/-- Both extents of a source claimed. -/
def claimExtents (s : State) (ns slba bytes ix kind key : Nat) : State :=
  addClaim (addClaim s { nsid := ns, lba := slba, len := ceilDiv bytes 4096, kind, key }) { nsid := ns, lba := ix, len := indexBlocks bytes, kind, key }

/-- The claims of an ADD_SOURCE accepted and not completed stand under its request (R289). -/
def addSourceKey (r : ReqId) : Nat := r.mb.val * 2 ^ 33 + bnat r.oow * 2 ^ 32 + r.hseq.toNat
def claimSource (s : State) (r : ReqId) (x : Exec) : State :=
  let ns := prm x 0x20 4
  let slba := prm x 0x28 8
  let bytes := prm x 0x30 8
  let ix := prm x 0x38 8
  if (badSourceExtent s (reqPart r) ns slba bytes ix).isSome then s else claimExtents s ns slba bytes ix 4 (addSourceKey r)
def cancelAddSource (s : State) (r : ReqId) : State := dropClaims s 4 (addSourceKey r)

/-- Opcodes of class INGEST (R319). -/
def ingestOps : List OpSpec := [
  { cls := 5, op := 1, used := [(0x20, 5), (0x26, 26)], range := rngs [(0x24, 1, 0, 1)], b := fun _ _ => 5000, onAccept := claimSource },
  { cls := 5, op := 2, used := [(0x20, 4)], b := fun _ _ => 5000 },
  { cls := 5, op := 3, used := [(0x20, 9)], bitsRes := [(0x28, 0xFE)], pay := .outOnly, lenOk := fun _ _ _ o => decide (16 ≤ o), b := fun _ _ => 5000
    range := rngs [(0x20, 4, 1, 65536), (0x24, 4, 1, 0x80000000)] },
  { cls := 5, op := 4, used := [(0x20, 4)], pay := .outOnly, lenOk := fun _ _ _ o => decide (64 ≤ o), b := fun _ _ => 5000 },
  { cls := 5, op := 5, used := [(0x20, 4)], pay := .list, range := rngs [(0x20, 4, 0, 15)], b := fun _ _ => 5000
    lenOk := fun _ _ i o => i == 128 && decide (16 ≤ o) },
  { cls := 5, op := 6, pay := .list, lenOk := fun _ _ i o => i == 256 && decide (64 ≤ o), b := fun _ _ => 5000 },
  { cls := 5, op := 7, pay := .outSingle, b := fun _ _ => 5000 } ]

/-- ADD_SOURCE: the file is parsed, checked, indexed and claimed; it waits while flash has no page free. -/
def execAddSource (r : ReqId) (s : State) : Res :=
  runReq s r 5 1 fun s0 x =>
    let s := cancelAddSource s0 r
    let p := reqPart r
    let ns := prm x 0x20 4
    let slba := prm x 0x28 8
    let bytes := prm x 0x30 8
    let ix := prm x 0x38 8
    let kind := prm x 0x24 1
    match badSourceExtent s p ns slba bytes ix with
    | some d => finish s r (ansErr 0x0102 d)
    | none =>
      let file := (ftlRead s ns slba (ceilDiv bytes 4096)).take bytes
      match parseSource kind (prm x 0x26 2) file with
      | .error (st, d) => finish s r (ansErr st d)
      | .ok i =>
        let index := indexEntries kind file i.prog.pictures
        if indexBlocks bytes * 256 < index.length then finish s r (ansErr 0x0103)
        else
          match ftlWrite s ns ix (fit index.flatten (indexBlocks bytes * 4096)) with
          | none => s0
          | some s =>
            let a := ingPart s p
            let n := ((List.range (a.sources.length + 1)).find? fun n => !a.sources.any fun y => y.id % 2 ^ 24 == n).getD 0
            let id := n + p * 2 ^ 24 + tget 0 a.reuse n * 2 ^ 28
            let src : Source :=
              { id, nsid := ns, container := kind, program := prm x 0x26 2, slba, bytes, indexSlba := ix, info := i, since := s.klv.taken, removed := none }
            let s := updIng s p fun a =>
              { a with sources := a.sources ++ [src], reuse := tput a.reuse n ((tget 0 a.reuse n + 1) % 16)
                       packets := satAdd a.packets (packetCount kind file) }
            finish (commit (claimExtents s ns slba bytes ix 2 (sourceKey p id)) r) r (ansOk id)

/-- REMOVE_SOURCE records the removal for the first COMMIT accepted after it (R292). -/
def execRemoveSource (r : ReqId) (s : State) : Res :=
  runReq s r 5 2 fun s x =>
    let p := reqPart r
    let id := prm x 0x20 4
    match sourceOf s p id with
    | none => finish s r (ansErr 0x0004)
    | some _ =>
      let s := updIng s p fun a =>
        { a with sources := a.sources.map fun y =>
            if y.id == id then { y with removed := some (min x.order (y.removed.getD x.order)) } else y }
      finish (commit s r) r (ansOk 0)

/-- Sources in ascending index. -/
def insertSource (x : Source) : List Source → List Source
  | [] => [x]
  | y :: t => if x.id % 2 ^ 24 < y.id % 2 ^ 24 then x :: y :: t else y :: insertSource x t

/-- A removal accepted before a COMMIT of order `k` takes effect at it (R292). -/
def removedBy (k : Nat) (y : Source) : Bool := y.removed.any fun m => decide (m < k)

/-- The sources a COMMIT of order `k` takes: those registered at its acceptance, but the removed, in ascending index (R291, R292). -/
def commitSources (l : List Source) (k : Nat) : List Source :=
  (l.filter fun y => decide (y.since ≤ k) && !removedBy k y).foldl (fun l y => insertSource y l) []

/-- A request that changes which sources a COMMIT takes, or numbers a generation. -/
def isCatalogueOp (x : Exec) : Bool := entCls x.entry == 5 && (entOp x.entry == 2 || entOp x.entry == 3)

/-- COMMIT: removals accepted before it take effect, and the sources registered at its acceptance make a new generation (R291, R292). It follows every
REMOVE_SOURCE and COMMIT accepted before it. -/
def execIngestCommit (r : ReqId) (s : State) : Res :=
  runReq s r 5 3 fun s x =>
    let p := reqPart r
    let a := ingPart s p
    if earlierWaiting s r x isCatalogueOp then notYet s r
    else
      let g : Generation :=
        { num := a.lastGen + 1, clipFrames := prm x 0x20 4, stride := prm x 0x24 4, excludeBreaks := bitAt (prm x 0x28 1) 0
          sources := commitSources a.sources x.order }
      if 2 ^ 48 < clipCount g then finish s r (ansErr 0x0005)
      else
        let s := updIng s p fun a =>
          { a with sources := a.sources.filter fun y => !removedBy x.order y, lastGen := g.num, gens := a.gens ++ [g] }
        let s := dropSources (trimGens s p) p a.sources
        finish (commit s r) r (ansOk g.num (leBytes 4 g.num ++ zeros 4 ++ leBytes 8 (clipCount g)))

/-- The SOURCE_INFO record (R319): size, chroma and depth are those of the first frame; DAMAGED counts pictures. -/
def sourceRecord (x : Source) : List Byte :=
  let i := x.info
  let f := i.frames.headD default
  let a := audioOf x.container i.prog
  let codec := (a.map (audioCodecOf x.container)).getD 0
  fit (leBytes 1 i.codec ++ leBytes 1 i.prog.profileCode ++ leBytes 1 i.prog.levelCode ++ leBytes 1 f.chroma ++ leBytes 1 f.depth
    ++ leBytes 1 (bnat (i.frames.any (·.interlaced)) + 2 * bnat i.editsIgnored) ++ leBytes 1 i.prog.matrixCode ++ leBytes 1 i.prog.rangeCode
    ++ leBytes 1 (chromaLocOf i) ++ zeros 3 ++ leBytes 2 f.width ++ leBytes 2 f.height ++ leBytes 4 i.frames.length ++ leBytes 4 i.prog.rateNum
    ++ leBytes 4 i.prog.rateDen ++ leBytes 4 i.breaks.length ++ leBytes 4 (i.prog.pictures.filter (·.damaged)).length ++ leBytes 1 codec
    ++ leBytes 1 ((a.map (·.channels)).getD 0) ++ leBytes 4 ((a.map (·.rate)).getD 0) ++ zeros 2
    ++ leBytes 4 (captionsOf x.container i.codec i.prog)) 64

def execSourceInfo (r : ReqId) (s : State) : Res :=
  answer s r 5 4 fun s x =>
    match sourceOf s (reqPart r) (prm x 0x20 4) with
    | none => ansErr 0x0004
    | some y => ansOk 64 (sourceRecord y)

/-! ### Targets (R313, R314, R319) -/

def tTimeout (t : Target) : Nat := fld t.desc 3 1
def tRetry (t : Target) : Nat := fld t.desc 4 1
def tSlotAddr (t : Target) : Nat := fld t.desc 0x30 8
def tSlotBytes (t : Target) : Nat := fld t.desc 0x38 4
def tSlots (t : Target) : Nat := fld t.desc 0x3C 4
def tNotice (t : Target) : Nat := fld t.desc 0x40 8

/-- The port entry a target names, if the partition owns it (R313, R434). -/
def portFor (s : State) (p n : Nat) : Option PortRec :=
  match s.prt.cfg.links.ports[n]? with
  | some q => if q.lanes != 0 && q.owner.toNat == p then some q else none
  | none => none

/-- The rate of a target's port in Mb/s (R415). -/
def portRate (s : State) (p : Nat) (t : Target) : Nat := ((portFor s p (fld t.desc 0 1)).map fun q => q.lanes.toNat * 200000).getD 0

/-- The offset at which a TARGET descriptor leaves its ranges. DESIGN CHOICE (log entry 125): R319 gives no status for it; a field out of range and
a reserved byte that is not zero are refused with INVALID_PARAM, DETAIL the offset, and reserved bytes with the first of their gap. -/
def badTarget (s : State) (p : Nat) (d : List Byte) : Option Nat :=
  if (portFor s p (fld d 0 1)).isNone then some 0
  else if fld d 1 1 != 4 && fld d 1 1 != 6 then some 1
  else if 63 < fld d 2 1 then some 2
  else if fld d 3 1 < 8 || 20 < fld d 3 1 then some 3
  else if 7 < fld d 4 1 then some 4
  else if !allZero (slice d 5 3) then some 5
  else if fld d 0x3C 4 = 0 || 65536 < fld d 0x3C 4 then some 0x3C
  else if !allZero (slice d 0x48 56) then some 0x48
  else none

/-- A target identifier is in the target list of the running run. -/
def targetInUse (s : State) (p t : Nat) : Bool :=
  match (ingPart s p).run with
  | some r => ((slice r.desc 0x44 16).take (fld r.desc 0x42 1)).any fun b => b.toNat == t
  | none => false

/-- TARGET records a delivery target; the values the module gives it are free. -/
def execTarget (r : ReqId) (s : State) : Res :=
  runReq s r 5 5 fun s x =>
    let p := reqPart r
    let t := prm x 0x20 4
    if targetInUse s p t then finish s r (ansErr 0x0107)
    else
      withIn s r x fun s d =>
        match badTarget s p d with
        | some o => finish s r (ansErr 0x0018 o)
        | none =>
          let qpn := (freeVal s).toNat % 2 ^ 24
          let s := drawn s
          let rkey := (freeVal s).toNat % 2 ^ 32
          let s := drawn s
          let addr := (freeVal s).toNat
          let s := drawn s
          let y : Target :=
            { desc := d, localQpn := qpn, creditRkey := rkey, creditAddr := addr, consumed := 0, sent := 0, delivered := 0
              psn := fld d 0x24 4 % 2 ^ 24, rqPsn := fld d 0x28 4 % 2 ^ 24, flight := [], timeouts := 0, rate := 0, rateAt := 0, sentAt := 0
              freeAt := 0, failed := false }
          let y := { y with rate := portRate s p y }
          let s := updIng s p fun a => { a with targets := tput a.targets t y, tgtFailed := a.tgtFailed &&& ~~~ (BitVec.twoPow 16 t) }
          finish (commit s r) r (ansOk 0 (leBytes 4 qpn ++ leBytes 4 rkey ++ leBytes 8 addr))

/-! ### Runs (R293-R320) -/

/-- The target a piece of batch `b` goes to (R295). -/
def tgtOf (d : List Byte) (b : Nat) : Nat := fld d (0x44 + b % fld d 0x42 1) 1

/-- Batches of an epoch, and a run's window. -/
def runBatches (d : List Byte) : Nat := ceilDiv (rN d) (rBatch d)
def runFirst (d : List Byte) : Nat := fld d 0x30 8
def runStop (d : List Byte) : Nat :=
  if fld d 0x38 8 = 0 then runBatches d else min (runBatches d) (runFirst d + fld d 0x38 8)

/-- Number of local elements: clips of the generation, or entries of the list object (R293). -/
def runLocal (s : State) (d : List Byte) (g : Generation) : Nat :=
  if rFlag d 1 then ((objOf s (fld d 0x28 4)).map fun o => objChunks o * 8192).getD 0 else clipCount g

/-- The bytes of a run's list object. -/
def listRange (s : State) (d : List Byte) : Option (Nat × Nat) :=
  if rFlag d 1 then (objOf s (fld d 0x28 4)).map fun o => (o.daddr, objSpan o) else none

/-- The list object is a MAPPED object of the partition that names clips of the generation (log entry 34). -/
def listOk (s : State) (p : Nat) (d : List Byte) (g : Generation) : Bool :=
  match objOf s (fld d 0x28 4) with
  | some o => oPart (objKey (fld d 0x28 4)) == p && mappedHeld s (objKey (fld d 0x28 4)) o &&
      (List.range (objChunks o * 8192)).all fun i => decide (mnat s.mem (o.daddr + 8 * i) 8 < clipCount g)
  | none => false

/-- Decoded-picture-buffer pictures of a codec, and bytes of a picture (R318). -/
def dpbPictures (codec : Nat) : Nat := match codec with
  | 0 => 3
  | 3 => 8
  | _ => 17
def pictureBytes (f : FrameRec) : Nat :=
  (match f.chroma with
    | 0 => f.width * f.height
    | 1 => f.width * f.height * 3 / 2
    | _ => f.width * f.height * 2) * if f.depth = 8 then 1 else 2

/-- Least WORK_LEN of a run (R318). -/
def workNeed (s : State) (p : Nat) (g : Generation) : Nat :=
  (enginesOf s p).length * natMax (g.sources.map fun x => dpbPictures x.info.codec) * natMax (g.sources.map fun x => natMax (x.info.frames.map pictureBytes))

/-- Sizes of the crop rectangle on a frame (R299, R300). -/
def cropSize (d : List Byte) (f : FrameRec) : Nat × Nat :=
  if rCropMode d = 0 then (f.width, if f.interlaced && rDeint d != 0 then (f.height + 2 - rDeint d) / 2 else f.height)
  else (fld d 0x70 2, fld d 0x72 2)

/-- The filter's limits hold on an axis (R302); sizes of 0 are refused at their own fields. -/
def ratioOk (filter len u out : Nat) : Bool :=
  let l := len / u
  out == 0 || len == 0 || if filter = 3 then decide (out ≤ l) && decide (l ≤ 8 * out) else decide (l ≤ 16 * out)

/-- The filter's limits hold on every axis of every plane of a frame. -/
def filterOk (d : List Byte) (x : FrameRec) : Bool :=
  let (w, h) := cropSize d x
  let f := rFilter d
  ratioOk f w 1 (rOutW d) && ratioOk f h 1 (rOutH d) && (x.chroma = 0 ||
    (ratioOk f w 2 (rOutW d) && ratioOk f h (if x.chroma = 1 then 2 else 1) (rOutH d)))

/-- Crop coordinates are even on the subsampled axes of every source (R300). -/
def cropEven (d : List Byte) (g : Generation) (o : Nat) (horizontal : Bool) : Bool :=
  fld d o 2 % 2 == 0 || !(g.sources.any fun x => x.info.frames.any fun f => if horizontal then f.chroma != 0 else f.chroma == 1)

/-- DRAM of a run area: in the partition's slices, outside what is placed already (R320). -/
def areaOk (s : State) (p a n : Nat) : Bool :=
  slicesOwned s p a n && !hitsAny a n (poolRange s p :: mappedRanges s ++ jobRanges s p ++ indexRanges s p)

/-- Target entries of a run. -/
def badTlist (s : State) (p : Nat) (d : List Byte) : Option Nat :=
  (List.range (fld d 0x42 1)).find? fun i =>
    let t := fld d (0x44 + i) 1
    t != 0xFF && (15 < t || (target s p t).isNone)

/-- The checks of R320 on fields up to GEN, and on the rest under a held generation, in ascending offset: (fails, offset). -/
def headChecks (d : List Byte) : List (Bool × Nat) := [
  (fld d 0 4 != 0x4E55525A, 0), (fld d 4 1 != 1, 4), (bits (fld d 5 1) 7 6 != 0, 5), (fld d 6 2 != 0, 6), (2 ^ 24 ≤ rEpoch d, 0x10)]
def bodyChecks (s : State) (p : Nat) (d : List Byte) (g : Generation) : List (Bool × Nat) := [
  (rN d = 0 || decide (2 ^ 48 < rN d), 0x18), (rN d < rBase d + runLocal s d g, 0x20), (rFlag d 1 && !listOk s p d g, 0x28),
  (rBatch d = 0 || decide (65536 < rBatch d), 0x2C), (fld d 0x41 1 ≤ fld d 0x40 1, 0x40),
  (fld d 0x42 1 = 0 || decide (16 < fld d 0x42 1), 0x42), (fld d 0x43 1 != 0, 0x43)]
def pictureChecks (d : List Byte) (g : Generation) : List (Bool × Nat) := [
  (3 < rRule d || !ruleFits d g.clipFrames, 0x54), (2 < rDeint d, 0x55), (rT d = 0 || decide (1024 < rT d), 0x56),
  (rRule d = 3 && rRateNum d = 0, 0x60), (3 < rCropMode d, 0x68),
  (3 < rFilter d || !(g.sources.all fun x => x.info.frames.all (filterOk d)), 0x69),
  (rCropMode d = 3 && !cropEven d g 0x6C true, 0x6C), (rCropMode d = 3 && !cropEven d g 0x6E false, 0x6E),
  (rCropMode d != 0 && (fld d 0x70 2 = 0 || !cropEven d g 0x70 true), 0x70),
  (rCropMode d != 0 && (fld d 0x72 2 = 0 || !cropEven d g 0x72 false), 0x72),
  (rOutW d = 0 || decide (4096 < rOutW d), 0x74), (rOutH d = 0 || decide (4096 < rOutH d), 0x76), (3 < rDtype d, 0x78),
  (2 < rLayout d, 0x79), (badPatch 0x7A (rT d), 0x7A), (badPatch 0x7B (rOutH d), 0x7B), (badPatch 0x7C (rOutW d), 0x7C),
  (fld d 0x7D 3 != 0, 0x7D)]
where
  badPatch (o n : Nat) : Bool := rLayout d = 2 && (fld d o 1 = 0 || 64 < fld d o 1 || n % fld d o 1 != 0)
def areaChecks (s : State) (p : Nat) (d : List Byte) (g : Generation) : List (Bool × Nat) :=
  let shard := fld d 0xB8 4
  let small := (List.range (fld d 0x42 1)).any fun i =>
    match target s p (fld d (0x44 + i) 1) with
    | some t => fld d (0x44 + i) 1 != 0xFF && decide (tSlotBytes t < shard)
    | none => false
  [ (!areaOk s p (fld d 0x98 8) (max 1 (fld d 0xA0 8)), 0x98), (decide (fld d 0xA0 8 < workNeed s p g), 0xA0),
    (!areaOk s p (fld d 0xA8 8) (max 1 (fld d 0xB0 8)) || overlaps (fld d 0x98 8) (fld d 0xA0 8) (fld d 0xA8 8) (fld d 0xB0 8), 0xA8),
    (decide (fld d 0xB0 8 < shard), 0xB0), (shard % 64 != 0 || decide (0x10000000 < shard) || small, 0xB8),
    (!allZero (slice d 0xBC 68), 0xBC) ]

/-- The first failing check. -/
def firstFail (l : List (Bool × Nat)) : Option Nat := (l.find? (·.1)).map (·.2)

/-- The status and DETAIL a run descriptor is refused with, or the generation it pins (R292, R320). -/
def checkRun (s : State) (p : Nat) (d : List Byte) : Except (Nat × Nat) Generation :=
  match firstFail (headChecks d) with
  | some o => .error (0x0105, o)
  | none =>
    match (ingPart s p).gens.find? fun g => g.num == fld d 0x14 4 with
    | none => .error (0x0104, 0)
    | some g =>
      match firstFail (bodyChecks s p d g) with
      | some o => .error (0x0105, o)
      | none =>
        match badTlist s p d with
        | some i => .error (0x0105, 0x44 + i)
        | none =>
          match firstFail (pictureChecks d g ++ areaChecks s p d g) with
          | some o => .error (0x0105, o)
          | none => .ok g

/-- Lowest batch of the window not delivered. -/
def lowestOpen (r : Run) (p : Nat → Bool) : Option Nat :=
  ((List.range (r.stop - runFirst r.desc)).map (· + runFirst r.desc)).find? fun b => p b && !r.delivered.contains b
def nextBatchOf (r : Run) : Nat := (lowestOpen r fun _ => true).getD r.stop

/-- The run record (R321). -/
def ingRecord (r : Run) : List Byte :=
  fit (leBytes 8 (nextBatchOf r) ++ leBytes 8 r.pieces ++ leBytes 8 r.samplesDone ++ leBytes 8 r.damaged ++ leBytes 8 r.unreadable
    ++ leBytes 8 r.pictures ++ leBytes 8 r.seed.toNat ++ leBytes 2 r.failed.toNat) 64

/-- The record of a RUN that is refused (R321): it starts no batch, and names the descriptor's first if it was read (log entry 126). -/
def refusedRecord (d : List Byte) : List Byte := fit (slice d 0x30 8) 64

/-- FETCH requests of a partition, accepted and not completed. -/
def fetches (s : State) (p : Nat) : List ReqId :=
  (mbsOf p).flatMap fun n => ((mbox s n.val).execs.filter fun x => entCls x.entry == 5 && entOp x.entry == 7).map fun x => ⟨n, x.oow, x.hseq⟩

/-- A run ends: its record is returned, outstanding FETCHes complete with INGEST_END, targets forget what is in flight, and generations no
longer held go (R312, R315, R321). -/
def endRun (s : State) (p status detail : Nat) : State :=
  match (ingPart s p).run with
  | none => s
  | some r =>
    let s := finish s r.req { status, detail, result := r.pieces, out := ingRecord r }
    let s := updIng s p fun a =>
      { a with run := none, nextBatch := nextBatchOf r
               targets := a.targets.map fun t => (t.1, { t.2 with flight := [], delivered := t.2.sent }) }
    let s := trimGens s p
    (fetches s p).foldl (fun s f => finish s f (ansErr 0x0109)) s

/-- The run's targets that have failed, with the lowest batch each leaves undelivered. -/
def failedTargets (s : State) (p : Nat) (r : Run) : List (Nat × Nat) :=
  (List.range 16).filterMap fun t =>
    if (target s p t).any (·.failed) then (lowestOpen r fun b => tgtOf r.desc b == t).map fun b => (t, b) else none

/-- The run ends once everything is delivered, or once a failed target's others are (R315). -/
def settleRun (s : State) (p : Nat) : State :=
  match (ingPart s p).run with
  | none => s
  | some r =>
    match failedTargets s p r with
    | (t, b) :: rest =>
      let m := rest.foldl (fun m x => min m x.2) b
      if (lowestOpen r fun k => decide (k < m)).isNone then endRun s p 0x0106 t else s
    | [] => if (lowestOpen r fun _ => true).isNone then endRun s p 0 0 else s

/-- A piece has been delivered. -/
def pieceDelivered (s : State) (p b : Nat) : State :=
  settleRun (updRun s p fun r =>
    { r with staged := r.staged.filter fun x => x.batch != b, delivered := b :: r.delivered, pieces := r.pieces + 1 }) p

/-- Whether the upper timeout exceeds the B of a RUN with these targets (R65, R319). -/
def runTimeoutOk (s : State) (p : Nat) (d : List Byte) (x : Exec) : Bool :=
  let extra := natMax ((List.range (fld d 0x42 1)).map fun i =>
    match target s p (fld d (0x44 + i) 1) with
    | some t => (tRetry t + 1) * 4096 * 2 ^ tTimeout t / 1000
    | none => 0)
  match x.timeoutUs with
  | none => true
  | some t => decide (5000 + extra + 1000 < t)

/-- A RUN is refused with its record. -/
def refuseRun (s : State) (r : ReqId) (d : List Byte) (status detail : Nat) : State :=
  finish s r { status, detail, result := 0, out := refusedRecord d }

/-- What RUN answers to a bad descriptor: a list object whose DRAM has left the partition is an address fault (R79, R498). -/
def runRefusal (s : State) (r : ReqId) (d : List Byte) (st o : Nat) : State :=
  match o, lostMapped s (fld d 0x28 4) with
  | 0x28, some a => refuseRun (logAddr s (reqPart r) a 0) r d 0x0009 (nextSeqLow s)
  | _, _ => refuseRun s r d st o

/-- RUN checks its descriptor and starts a run; the run's end completes it. -/
def execIngestRun (r : ReqId) (s : State) : Res :=
  runReq s r 5 6 fun s x =>
    let p := reqPart r
    match (ingPart s p).run with
    | some y => if y.req == r then s else refuseRun s r [] 0x0107 0
    | none =>
      if (enginesOf s p).isEmpty then refuseRun s r [] 0x010A 0
      else
        withIn s r x (bad := refusedRecord []) fun s d =>
          let s := match listRange s d with
            | some (a, n) => ncRead s a n
            | none => s
          match checkRun s p d with
          | .error (st, o) => runRefusal s r d st o
          | .ok g =>
            if !runTimeoutOk s p d x then refuseRun s r d 0x001A 0
            else
              match (listRange s d).bind fun y => poisonedLine s y.1 y.2 with
              | some a => refuseRun (logPoison s p a) r d 0x000A (nextSeqLow s)
              | none =>
                let seed := if rFlag d 0 then BitVec.ofNat 64 (fld d 8 8) else freeVal s
                let s := if rFlag d 0 then s else drawn s
                let y : Run :=
                  { req := r, desc := d, seed, gen := g, n := runLocal s d g, batch := runFirst d, stop := max (runFirst d) (runStop d), samples := []
                    staged := [], delivered := [], pieces := 0, samplesDone := 0, damaged := 0, unreadable := 0, pictures := 0, failed := 0 }
                settleRun (updIng s p fun a => { a with run := some y, nextBatch := runFirst d }) p

/-- A RUN cancelled by its upper timeout, ABORT or a reset stops at once with its record (R315). -/
def cancelIngest (s : State) (r : ReqId) (status : Nat) : State :=
  let p := reqPart r
  if (ingPart s p).run.any fun y => y.req == r then endRun s p status 0 else refuseRun s r [] status 0

/-! ### Decoding and building pieces (R294-R311, R317) -/

/-- Positions of a batch whose element is local, with that element (R294, R295). -/
def batchPositions (r : Run) (b : Nat) : List (Nat × Nat) :=
  let lo := b * rBatch r.desc
  let hi := min ((b + 1) * rBatch r.desc) (rN r.desc)
  ((List.range (hi - lo)).map (· + lo)).filterMap fun i =>
    let g := permute r.seed (rEpoch r.desc) (rN r.desc) i
    if rBase r.desc ≤ g && g < rBase r.desc + r.n then some (i, g) else none

/-- The clip of a global element (R293). -/
def elemClip (s : State) (r : Run) (g : Nat) : Option Nat :=
  let k := g - rBase r.desc
  let c := if rFlag r.desc 1 then ((objOf s (fld r.desc 0x28 4)).map fun o => mnat s.mem (o.daddr + 8 * k) 8).getD (2 ^ 64) else k
  if c < clipCount r.gen then some c else none

/-- What decoding a sample costs and finds (R309, R317): pictures decoded, pictures with bitstream errors, TS packets demultiplexed. -/
structure Effort where
  pictures : Nat
  errors : Nat
  packets : Nat
  deriving DecidableEq, Repr

/-- The cost of decoding frames of a source; none: no random-access picture lets them be decoded. -/
def effortOf (x : Source) (bytes : List Byte) (fr : List Nat) : Option Effort :=
  (picturesDecoded x.info fr).map fun l =>
    { pictures := l.length, errors := (l.filter fun k => Config.pictureError x.container x.program bytes k).length
      packets := if x.container = 0 then natSum (l.map fun k => ((x.info.prog.pictures[k]?).map (·.packets)).getD 0) else 0 }

/-- The entry of the list object that names an element is poisoned. -/
def listPoisoned (s : State) (r : Run) (g : Nat) : Bool :=
  match listRange s r.desc with
  | some (a, _) => poisoned s (a + 8 * (g - rBase r.desc)) 8
  | none => false

/-- STATUS of a sample from what its decoding met (R300, R309, R496); frames that no random-access picture lets be decoded leave it DAMAGED (log
entry 31). -/
def sampleStatus (s : State) (r : Run) (g : Nat) (c : Option Nat) (ecc : EccResult) : Nat × Effort :=
  let idle : Effort := { pictures := 0, errors := 0, packets := 0 }
  if ecc == .uncorrectable || listPoisoned s r g then (2, idle)
  else
    match c.bind (clipAt r.gen) with
    | none => (1, idle)
    | some (x, start) =>
      let file := sourceBytes s x
      let fr := sampleFrames r.desc r.seed r.gen g start x
      match effortOf x (containerBytes x.container file) fr with
      | none => (1, idle)
      | some e =>
        let rect := sampleRect r.desc (draw r.seed (rEpoch r.desc) g 1) (draw r.seed (rEpoch r.desc) g 2) (samplePics r.desc x file fr)
        (if e.errors != 0 || rect.isNone then 1 else 0, e)

/-- Bytes staged. -/
def stagedBytes (r : Run) : Nat := natSum (r.staged.map (·.len))

/-- Decoding may go on: a batch is to be built, and the stage area is not full (R311). -/
def mayDecode (r : Run) : Bool := decide (r.batch < r.stop) && decide (stagedBytes r < fld r.desc 0xB0 8)

/-- Decoded pictures lie in the run's work area; what they leave there is free (R318, log entry 127). -/
def useWorkArea (s : State) (r : Run) : State :=
  let n := fld r.desc 0xA0 8
  drawn (ncWrite s (fld r.desc 0x98 8) (freeBytes s.free n))

/-- SAMPLE_DECODE: an engine decodes the next sample of the batch being built; decoding stops while the stage area is full (R311). -/
def execSampleDecode (p : PartIx) (e : Fin 64) (ecc : EccResult) (s : State) : Res :=
  match (ingPart s p.val).run with
  | none => .next s
  | some r =>
    if !(enginesOf s p.val).contains e.val || !mayDecode r then .next s
    else
      match (batchPositions r r.batch)[r.samples.length]? with
      | none => .next s
      | some (i, g) =>
        let s := match listRange s r.desc with
          | some (a, _) => ncRead s (a + 8 * (g - rBase r.desc)) 8
          | none => s
        let c := elemClip s r g
        let (st, eff) := sampleStatus s r g c ecc
        let s := match c.bind (clipAt r.gen) with
          | some (x, _) => (noteRead s x.nsid (x.slba / 4) ecc).1
          | none => s
        let s := useWorkArea s r
        let s := { s with ing := { s.ing with engines := tmod fennelReset s.ing.engines e.val fun f =>
          { pictures := f.pictures + eff.pictures, errors := satAdd f.errors eff.errors } } }
        let s := updIng s p.val fun a =>
          { a with damaged := satAdd a.damaged (bnat (st == 1)), unreadable := satAdd a.unreadable (bnat (st == 2))
                   packets := satAdd a.packets eff.packets }
        .next (updRun s p.val fun r =>
          { r with samples := r.samples ++ [{ pos := i, elem := g, clip := c, status := st }], samplesDone := r.samplesDone + 1
                   damaged := r.damaged + bnat (st == 1), unreadable := r.unreadable + bnat (st == 2), pictures := r.pictures + eff.pictures })

/-- The piece of the batch being built. -/
def buildPiece (s : State) (r : Run) : List Byte :=
  let os := sampleOuts r.desc r.seed r.gen (sourceBytes s) 0 0 r.samples
  let b := shardBody r.desc r.seed r.gen.num r.batch os
  setFld b 0x64 4 (crc32c b)

/-- Where a piece of `n` bytes is staged: the lowest place at a multiple of 64 bytes behind the start of the stage area or a staged piece that
fits (log entry 127). -/
def stagePlace (r : Run) (n : Nat) : Option Nat :=
  let base := fld r.desc 0xA8 8
  let fits (a : Nat) : Bool := decide (a + n ≤ base + fld r.desc 0xB0 8) && r.staged.all fun q => !overlaps q.addr q.len a n
  match (base :: r.staged.map fun q => q.addr + ceilDiv q.len 64 * 64).filter fits with
  | [] => none
  | a :: t => some (t.foldl min a)

/-- PIECE_WRITE: once every sample of the batch is decoded its piece is written into the stage area, if there is room for it (R311). -/
def execPieceWrite (p : PartIx) (s : State) : Res :=
  match (ingPart s p.val).run with
  | none => .next s
  | some r =>
    if r.stop ≤ r.batch || r.samples.length != (batchPositions r r.batch).length then .next s
    else
      let b := buildPiece s r
      if fld r.desc 0xB8 4 < b.length then .next (endRun s p.val 0x0105 0xB8)
      else
        match stagePlace r b.length with
        | none => .next s
        | some a =>
          let len := min ((r.batch + 1) * rBatch r.desc) (rN r.desc) - r.batch * rBatch r.desc
          let s := updIng (ncWrite s a b) p.val fun x => { x with scanned := x.scanned + len }
          .next (settleRun (updRun s p.val fun r =>
            { r with batch := r.batch + 1, samples := []
                     staged := r.staged ++ [{ batch := r.batch, entry := tgtOf r.desc r.batch, addr := a, len := b.length }] }) p.val)

/-- The bytes of a staged piece. -/
def pieceBytes (s : State) (q : Piece) : List Byte := mread s.mem q.addr q.len

/-- FETCHes of the partition are served in order of acceptance (R312). -/
def fetchTurn (s : State) (r : ReqId) (x : Exec) : Bool :=
  (fetches s (reqPart r)).all fun f => f == r || (findExec s f).all fun y => decide (x.order < y.order)

/-- FETCH takes the next piece for the host (R312). -/
def execFetch (r : ReqId) (s : State) : Res :=
  runReq s r 5 7 fun s x =>
    let p := reqPart r
    match (ingPart s p).run with
    | none => finish s r (ansErr 0x0109)
    | some y =>
      if !fetchTurn s r x then s
      else if (lowestOpen y fun b => tgtOf y.desc b == 0xFF).isNone then finish s r (ansErr 0x0109)
      else
        match y.staged.find? fun q => q.entry == 0xFF with
        | none => s
        | some q =>
          let b := pieceBytes s q
          if outRoom s x < q.len then finish s r (ansErr 0x0108 0 q.len)
          else
            match poisonedLine s q.addr q.len with
            | some a => mediaError s r a
            | none =>
              if (badTransfer s r.mb.val (outPieces s x b)).isSome then finish s r (ansOk q.len b)
              else pieceDelivered (finish s r (ansOk q.len b)) p q.batch

/-! ### RoCEv2 delivery (R313-R315) -/

/-- A packet of a target's QP but for its operation, PSN and data: addresses of the partition's port and of the target (R313, R319, R433). -/
def roceHead (s : State) (p : Nat) (y : Target) : RocePacket :=
  let q := (portFor s p (fld y.desc 0 1)).getD portRecNone
  let v4 := fld y.desc 1 1 == 4
  { vlan := if bitAt q.nflags.toNat 1 then some (q.vlan.toNat % 32768) else none
    srcMac := s.ident.macBase.toNat + q.firstLink.toNat, dstMac := slice y.desc 0x18 6
    ipv := fld y.desc 1 1, src := if v4 then leBytes 4 q.ipv4.toNat else q.ipv6, dst := slice y.desc 8 (if v4 then 4 else 16)
    dscp := fld y.desc 2 1, ect0 := true, sport := fld y.desc 0x1E 2, dport := 4791
    dqpn := fld y.desc 0x20 4 % 2 ^ 24, psn := 0, op := .ack, data := [], icrc := 0 }

/-- A packet with its integrity check value over every other field. -/
def roceSeal (k : RocePacket) : RocePacket :=
  let op := match k.op with
    | .writeFirst a b c => [0, a, b, c]
    | .writeMiddle => [1]
    | .writeLast => [2]
    | .writeOnly a b c => [3, a, b, c]
    | .ack => [4]
  { k with icrc := Config.icrc ([k.ipv, leNat k.src, leNat k.dst, k.dscp, k.sport, k.dport, k.dqpn, k.psn] ++ op) k.data }

/-- Packet `i` of an RDMA WRITE: 4,096 bytes of its data; the first names RKEY, address and length. -/
def writePacket (s : State) (p : Nat) (y : Target) (w : RdmaWrite) (i : Nat) : RocePacket :=
  let rkey := fld y.desc 0x2C 4
  let op : RoceOp :=
    if w.packets ≤ 1 then .writeOnly rkey w.addr w.data.length
    else if i = 0 then .writeFirst rkey w.addr w.data.length
    else if i + 1 = w.packets then .writeLast
    else .writeMiddle
  roceSeal { roceHead s p y with psn := (w.psn + i) % 2 ^ 24, op, data := (w.data.drop (4096 * i)).take 4096 }

/-- A packet goes out when the QP's rate lets it; the next waits for as long as its data takes at that rate (R313). -/
def sendRoce (p t : Nat) (s : State) (k : RocePacket) : State :=
  match target s p t with
  | none => s
  | some y =>
    let s := reach s y.freeAt
    updTarget (emit s (.roce p t k)) p t fun y => { y with freeAt := now s + ceilDiv (k.data.length * 8000) y.rate, sentAt := now s }

/-- The packets of a write from packet `i` on are sent. -/
def sendWrite (p t i : Nat) (s : State) (w : RdmaWrite) : State :=
  match target s p t with
  | none => s
  | some y => ((List.range (w.packets - i)).map fun j => writePacket s p y w (i + j)).foldl (sendRoce p t) s

/-- An RDMA WRITE issued to a target. -/
def issueWrite (s : State) (p t : Nat) (y : Target) (k : Nat) (notice : Bool) (addr : Nat) (data : List Byte) : State :=
  let n := max 1 (ceilDiv data.length 4096)
  let w : RdmaWrite := { k, notice, psn := y.psn, packets := n, acked := 0, addr, data }
  updTarget (sendWrite p t 0 s w) p t fun y => { y with psn := (y.psn + n) % 2 ^ 24, flight := y.flight ++ [w] }

/-- Staged pieces of a target, in batch order. -/
def piecesFor (r : Run) (t : Nat) : List Piece := r.staged.filter fun q => q.entry == t

/-- PIECE_SEND: the next piece for a target is written to its slot while credit permits (R314). A poisoned line of the stage area ends the run
(R496). -/
def execPieceSend (p : PartIx) (t : Fin 16) (s : State) : Res :=
  match (ingPart s p.val).run, target s p.val t.val with
  | some r, some y =>
    if y.failed || y.consumed + tSlots y ≤ y.sent then .next s
    else
      match (piecesFor r t.val)[y.sent - y.delivered]? with
      | none => .next s
      | some q =>
        match poisonedLine s q.addr q.len with
        | some a => .next (endRun (logPoison s p.val a) p.val 0x000A (nextSeqLow s))
        | none =>
          let s := issueWrite s p.val t.val y y.sent false (tSlotAddr y + y.sent % tSlots y * tSlotBytes y) (pieceBytes s q)
          .next (updTarget s p.val t.val fun y => { y with sent := y.sent + 1 })
  | _, _ => .next s

/-- The notice of a piece (R314). -/
def noticeBytes (k b rank : Nat) (q : List Byte) : List Byte :=
  fit (leBytes 4 0x544F4E5A ++ leBytes 8 k ++ leBytes 8 b ++ leBytes 1 rank ++ leBytes 4 q.length ++ leBytes 4 (fld q 0x64 4)) 64

/-- A write with the packets up to a PSN acknowledged. -/
def ackWrite (psn : Nat) (w : RdmaWrite) : RdmaWrite :=
  let d := (psn + 2 ^ 24 - w.psn) % 2 ^ 24
  if d < 2 ^ 23 then { w with acked := max w.acked (min w.packets (d + 1)) } else w

/-- A PSN belongs to a packet in flight; any other acknowledges nothing (log entry 128). -/
def inFlight (y : Target) (psn : Nat) : Bool :=
  match y.flight with
  | [] => false
  | w :: _ => decide ((psn + 2 ^ 24 - w.psn) % 2 ^ 24 < (y.psn + 2 ^ 24 - w.psn) % 2 ^ 24)

/-- An acknowledged write: a piece's notice is written; a notice delivers its piece. -/
def writeAcked (p t : Nat) (s : State) (w : RdmaWrite) : State :=
  match (ingPart s p).run, target s p t with
  | some r, some y =>
    match (piecesFor r t).head?, (piecesFor r t)[w.k - y.delivered]? with
    | some q0, some q =>
      if w.notice then
        pieceDelivered (updTarget s p t fun y => { y with delivered := y.delivered + 1 }) p q0.batch
      else issueWrite s p t y w.k true (tNotice y + w.k % tSlots y * 64) (noticeBytes w.k q.batch (fld r.desc 0x40 1) (pieceBytes s q))
    | _, _ => s
  | _, _ => s

/-- Packets up to a PSN are acknowledged; a packet acknowledged for the first time is progress: it ends the count of timeouts and starts the timer
anew (R315). -/
def ackUpTo (s : State) (p t psn : Nat) : State :=
  match target s p t with
  | none => s
  | some y =>
    let l := y.flight.map (ackWrite psn)
    if !inFlight y psn || l == y.flight then s
    else
      let s := updTarget s p t fun y => { y with flight := l.filter fun w => w.acked != w.packets, timeouts := 0, sentAt := now s }
      (l.filter fun w => w.acked == w.packets).foldl (writeAcked p t) s

def execRoceAck (p : PartIx) (t : Fin 16) (psn : BitVec 24) (s : State) : Res := .next (ackUpTo s p.val t.val psn.toNat)

/-- Go-back-N: every packet in flight that is not acknowledged is sent again (R313). -/
def resendFlight (s : State) (p t : Nat) : State :=
  match target s p t with
  | none => s
  | some y => y.flight.foldl (fun s w => sendWrite p t w.acked s w) s

/-- A target fails: its pieces are no longer sent (R315). -/
def failTarget (s : State) (p t : Nat) : State :=
  let s := updTarget s p t fun y => { y with failed := true, flight := [] }
  let s := updIng s p fun a => { a with tgtFailed := a.tgtFailed ||| BitVec.twoPow 16 t }
  settleRun (if targetInUse s p t then updRun s p fun r => { r with failed := r.failed ||| BitVec.twoPow 16 t } else s) p

/-- ROCE_NAK: a PSN sequence error acknowledges what came before and resends the rest; a remote access error fails the target. -/
def execRoceNak (p : PartIx) (t : Fin 16) (psn : BitVec 24) (k : NakKind) (s : State) : Res :=
  match target s p.val t.val with
  | none => .next s
  | some y =>
    if y.failed then .next s
    else match k with
      | .psnSequence => .next (resendFlight (ackUpTo s p.val t.val ((psn.toNat + 2 ^ 24 - 1) % 2 ^ 24)) p.val t.val)
      | .remoteAccess => .next (failTarget s p.val t.val)

/-- ROCE_ACK_TIMEOUT: RETRY + 1 in a row without progress fail the target; fewer resendFlight (R315). -/
def execRoceAckTimeout (p : PartIx) (t : Fin 16) (s : State) : Res :=
  match target s p.val t.val with
  | none => .next s
  | some y =>
    if y.flight.isEmpty then .next s
    else
      let s := reach s (y.sentAt + 4096 * 2 ^ tTimeout y)
      if tRetry y < y.timeouts + 1 then .next (failTarget s p.val t.val)
      else .next (resendFlight (updTarget s p.val t.val fun y => { y with timeouts := y.timeouts + 1 }) p.val t.val)

/-- CREDIT_WRITE: the consumer's count arrives in an RDMA WRITE Only, which is acknowledged; a value lower than the last is ignored (R313, R314). -/
def execCreditWrite (p : PartIx) (t : Fin 16) (consumed : Dword) (s : State) : Res :=
  match target s p.val t.val with
  | none => .next s
  | some y =>
    let s := emit s (.roce p.val t.val (roceSeal { roceHead s p.val y with psn := y.rqPsn }))
    .next (updTarget s p.val t.val fun y => { y with consumed := max y.consumed consumed.toNat, rqPsn := (y.rqPsn + 1) % 2 ^ 24 })

/-- CNP halves the rate, to no less than 1 Gb/s (R313). -/
def execCnp (p : PartIx) (t : Fin 16) (s : State) : Res :=
  .next (updTarget s p.val t.val fun y => { y with rate := max 1000 (y.rate / 2), rateAt := now s })

/-- RATE_RECOVERY_TIMER: 55 us without a CNP raise the rate by 1/16 of the port rate, up to it (R313). -/
def execRateRecoveryTimer (p : PartIx) (t : Fin 16) (s : State) : Res :=
  match target s p.val t.val with
  | none => .next s
  | some y =>
    let full := portRate s p.val y
    if full ≤ y.rate then .next s
    else
      let s := reach s (y.rateAt + 55000)
      .next (updTarget s p.val t.val fun y => { y with rate := min full (y.rate + full / 16), rateAt := now s })

end Sys2Proof.Machine
end

