-- ==== Sys2Proof/Machine/JobLoad.lean ====
section
/-! DEFINITION. JOB LOAD (R236-R238, R255): the checks of an image in their order, and the job entered in the table. -/

namespace Sys2Proof.Machine

/-- Opcodes of class JOB (R255). -/
def jobOps : List OpSpec := [
  { cls := 3, op := 1, used := [(0x20, 16)], pay := .inOnly },
  { cls := 3, op := 2, used := [(0x20, 5)], bitsRes := [(0x24, 0xFE)], pay := .outOnly, lenOk := fun _ _ _ o => decide (128 ≤ o) },
  { cls := 3, op := 3, used := [(0x20, 4)] },
  { cls := 3, op := 4, used := [(0x20, 4)] },
  { cls := 3, op := 5, used := [(0x20, 4)] },
  { cls := 3, op := 6, used := [(0x20, 4)], pay := .outOnly, lenOk := fun _ _ _ o => decide (128 ≤ o) },
  { cls := 3, op := 7, used := [(0x20, 4)] } ]

/-! ### Rule 1: the image (R236) -/

/-- Fields of the header up to the rank table: (breaks rule 1, offset). -/
def headerBreaks (m : List Byte) : List (Bool × Nat) :=
  let n := m.length
  let w := fld m 6 1
  [(fld m 0 4 != 0x424F4A5A, 0), (fld m 4 1 != 1, 4), (decide (8 ≤ fld m 5 1), 5), (w < 1 || decide (32 < w), 6), (decide (4 ≤ fld m 7 1), 7),
   (fld m 0x14 4 != n, 0x14),
   (bits (fld m 0x18 1) 2 0 == 0 || bits (fld m 0x18 1) 5 3 == 7 || bits (fld m 0x18 1) 7 6 != 0, 0x18),
   (decide (8 < fld m 0x19 1), 0x19),
   (if fld m 0x19 1 = 0 then fld m 0x1A 1 != 0 else fld m 0x1A 1 < 1 || decide (4 < fld m 0x1A 1), 0x1A),
   (decide (64 < fld m 0x1B 1), 0x1B), (fld m 0x1C 4 % 65536 != 0, 0x1C),
   (decide (n < fld m 0x28 4), 0x28), (decide (n < fld m 0x28 4 + 8 * fld m 0x2C 4), 0x2C), (decide (n < fld m 0x30 4 + 16 * fld m 0x1B 1), 0x30),
   (fld m 0x40 16 / 2 ^ (4 * w) != 0, 0x40)]

/-- The first nonzero byte of `n` reserved bytes at `o`, as a break. -/
def reservedBreak (m : List Byte) (o n : Nat) : List (Bool × Nat) := match firstSet (enumFrom o (slice m o n)) with
  | some k => [(true, k)]
  | none => []

/-- The rank table's fields. -/
def rankBreaks (m : List Byte) : List (Bool × Nat) :=
  (List.range (min 32 (fld m 6 1))).flatMap fun r =>
    let o := 0x100 + 16 * r
    let off := fld m o 8
    [(off % 32 != 0 || decide (m.length < off), o), (fld m (o + 8) 4 % 32 != 0 || decide (m.length < off + fld m (o + 8) 4), o + 8),
     (decide (m.length < o + 16), o)] ++ reservedBreak m (o + 12) 4

/-- The entries of the relocation and peer tables that lie inside the image. -/
def tableBreaks (m : List Byte) : List (Bool × Nat) :=
  let n := m.length
  let rel := if fld m 0x28 4 + 8 * fld m 0x2C 4 ≤ n then fld m 0x2C 4 else 0
  let peers := if fld m 0x30 4 + 16 * fld m 0x1B 1 ≤ n then fld m 0x1B 1 else 0
  ((List.range rel).flatMap fun i =>
    let o := fld m 0x28 4 + 8 * i
    (decide (n < fld m o 6 + 6), o) :: reservedBreak m (o + 6) 2)
  ++ (List.range peers).flatMap fun i => reservedBreak m (fld m 0x30 4 + 16 * i + 14) 2

/-- The lowest image offset among the fields that break rule 1. -/
def badImage (m : List Byte) : Option Nat :=
  let l := ((headerBreaks m ++ reservedBreak m 0x34 12 ++ reservedBreak m 0x50 0xB0 ++ rankBreaks m ++ tableBreaks m).filter (·.1)).map (·.2)
  match l with
  | [] => none
  | x :: t => some (t.foldl min x)

/-! ### Rule 2: the fit -/

/-- Clusters of the rectangle at a corner, or of ranks placed anywhere, all owned by the partition and, with PINNED asked for, holding
each rank's arrays. -/
def rankFits (s : State) (j : Job) (pinned : Bool) (r c : Nat) : Bool :=
  clusterOwner s c == some j.part && (!pinned || decide (jArrayUse j r < 2 ^ workingArrays s c))
def everFits (s : State) (j : Job) (pinned : Bool) : Bool :=
  if jShapeW j = 0 then
    ((List.range 32).foldl (fun n c => if n < jWidth j && rankFits s j pinned n c then n + 1 else n) 0) == jWidth j
  else (corners j).any fun xy => (withIx 0 (rectClusters j xy.1 xy.2)).all fun x => rankFits s j pinned x.1 x.2

/-- The image offset JOB_FIT names, if the job can never be placed. -/
def badFit (s : State) (j : Job) : Option Nat :=
  if 7 < jViewSegs j + jCacheSegs j then some 0x18
  else if jShapeW j != 0 && jShapeW j * jShapeH j != jWidth j then some 0x19
  else if !everFits s j false then some (if jShapeW j != 0 then 0x19 else 6)
  else if jPinned j && !everFits s j true then some 0x40 else none

/-! ### Rule 3: the addresses -/

/-- DRAM that a job's image and rank areas may not touch. -/
def takenRanges (s : State) (p : Nat) : List (Nat × Nat) := jobRanges s p ++ mappedRanges s ++ [poolRange s p] ++ indexRanges s p ++ runRanges s p

/-- The parameter offset JOB_ADDRESS names. -/
def badAddress (s : State) (j : Job) : Option Nat :=
  let n := jWidth j * jRankSize j
  if !slicesOwned s j.part j.imageBase (jImageLen j) || hitsAny j.imageBase (jImageLen j) (takenRanges s j.part) then some 0x20
  else if !slicesOwned s j.part j.rankBase n || hitsAny j.rankBase n ((j.imageBase, jImageLen j) :: takenRanges s j.part) then some 0x28 else none

/-! ### LOAD -/

/-- The image with IMAGE_BASE added to each relocated field (R237). -/
def relocated (m : List Byte) (base : Nat) : List Byte :=
  (List.range (fld m 0x2C 4)).foldl (fun x i => let o := fld m (fld m 0x28 4 + 8 * i) 6; setFld x o 6 (fld x o 6 + base)) m

/-- The job an image describes. -/
def jobFrom (m : List Byte) (p index : Nat) (gen : Half) (imageBase rankBase : Nat) : Job :=
  { part := p, index, gen, header := slice m 0 0x300, peers := slice m (fld m 0x30 4) (16 * fld m 0x1B 1), imageBase, rankBase
    st := .loaded, runEpoch := 0, seed := 0, run := none, forceStrict := false, slotIx := 0, clusters := [], eligible := false, placedAt := 0
    queuedAt := 0, budget0 := 0, ran := 0, ending := none, fault := none, saved := [], path := 0, fallbacks := 0, flags := nf0, vclip := 0, vflush := 0
    stall := 0, suspends := [] }

/-- LOAD. -/
def execLoad (r : ReqId) (s : State) : Res :=
  runReq s r 3 1 fun s x =>
    let p := reqPart r
    withIn s r x fun s m =>
      let ix := ((List.range 256).find? fun i => (tfind? s.sch.jobs (p * 256 + i)).isNone)
      let i := ix.getD 0
      let g := tget 0 (schPart s p).gens i
      let gen := if g = 0xFFFF#16 then 1 else g + 1
      let j := jobFrom m p i gen (prm x 0x20 8) (prm x 0x28 8)
      match badImage m with
      | some d => finish s r (ansErr 0x0100 d)
      | none =>
        match badFit s j with
        | some d => finish s r (ansErr 0x0101 d)
        | none =>
          match badAddress s j with
          | some d => finish s r (ansErr 0x0102 d)
          | none =>
            if ix.isNone then finish s r (ansErr 0x0005)
            else
              let s := ncWrite s j.imageBase (relocated m j.imageBase)
              let s := { s with sch := { s.sch with jobs := tput s.sch.jobs (p * 256 + i) j } }
              let s := updSchPart s p fun x => { x with gens := tput x.gens i gen }
              finish (commit s r) r (ansOk (jobHandle j))

end Sys2Proof.Machine
end

