-- ==== Sys2Proof/Machine/Remote.lean ====
section
/-! DEFINITION. Remote operations of contexts (R248-R251): REMOTE_PUT, REMOTE_GET, their responses, and what a failed message does. -/

namespace Sys2Proof.Machine

/-! ### The context of a rank, resident or saved -/

/-- The context of rank `r` of a job. -/
def ctxOf (s : State) (j : Job) (r : Nat) : Option Slot :=
  match j.clusters[r]? with
  | some c => some (slot s c j.slotIx)
  | none => tfind? j.saved r

/-- That context changed. -/
def updCtx (s : State) (j : Job) (r : Nat) (f : Slot → Slot) : State :=
  match j.clusters[r]? with
  | some c => updSlot s c j.slotIx f
  | none => updJob s (jobKey (jobHandle j)) fun j => { j with saved := match tfind? j.saved r with
      | some x => tput j.saved r (f x)
      | none => j.saved }

/-- A job is launched (R431). -/
def launched (j : Job) : Bool := j.st != .loaded && j.st != .ended

/-! ### Issuing (R248, R249) -/

def rPeer (w : List Byte) : Nat := fld w 8 1
def rView (w : List Byte) : Nat := fld w 0xC 4
def rOff (w : List Byte) : Nat := fld w 0x10 8
def rLen (w : List Byte) : Nat := fld w 0x18 4

/-- The peer entry of a job: NODE_ID, job handle, rank (R236). -/
def peerEntry (j : Job) (n : Nat) : List Byte := slice j.peers (16 * n) 16

/-- The lowest fault code of a remote command (R133, R249). -/
def remoteFault (s : State) (c i : Nat) (j : Job) (put : Bool) (w : List Byte) : Option Nat :=
  let res := headerReserved w || 0x08000000 ≤ rView w || fld w 0xA 2 != 0 ||
    (if put then bits (fld w 9 1) 6 4 != 0 || fld w 0x1C 4 != 0 else fld w 9 1 != 0)
  if res then some 0x02
  else if if put then rLen w % 64 != 0 else fld w 0x1C 4 % 64 != 0 then some 0x03
  else if (viewRange s c i (rView w) (rLen w)).isNone then some 0x05
  else if jPeers j ≤ rPeer w then some 0x21
  else if !put && decide (jLanding j < fld w 0x1C 4 + rLen w) then some 0x22
  else none

/-- A remote command at the head of the slot's remote queue: it enters the remote table and its message goes to the peer's module. While no
HELLO has shown where that module is, the command waits (log entry 39). -/
def remoteRow (c : Clu) (i : SlotIx) (op : Nat) (s : State) : Res :=
  match (slot s c.val i.val).remQ, slotJob s c.val i.val with
  | q :: t, some j =>
    let put := op == 0x82
    let w := q.word
    let sl := slot s c.val i.val
    if !running s c.val i.val || wOp w != op || !waitMet sl w then .next s
    else
      match remoteFault s c.val i.val j put w with
      | some code => .next (contextFault s c.val i.val code q.pos 0)
      | none =>
        match (if put then viewPoison s c.val i.val [(rView w, rLen w)] else none) with
        | some a => .next (mediaFault s c.val i.val q.pos a)
        | none =>
          let e := peerEntry j (rPeer w)
          match nodePos s (fld e 0 8) with
          | none => .next s
          | some pos =>
            let tag := sl.nextTag
            let msn := (conn s pos j.part).nextMsn
            let s := updSlot s c.val i.val fun sl =>
              { sl with remQ := t, nextTag := tag + 1, remotes := sl.remotes ++ [{ tag, isPut := put, cmd := q, pos, msn, landed := false }] }
            let owner : MsgOwner := .remote sl.job sl.rank sl.epoch tag put
            let names := [fld e 8 4, fld e 0xC 2, jobHandle j, sl.rank, sl.epoch.toNat, tag, rOff w, rLen w, if put then fld w 9 1 else 0]
            let data := if put then viewRead s c.val i.val (rView w) (rLen w) else []
            .next (sendMsg s pos j.part (if put then 2 else 3) (Config.remoteBytes (if put then 2 else 3) names data) owner)
  | _, _ => .next s

def execRemotePut (c : Clu) (i : SlotIx) (s : State) : Res := remoteRow c i 0x82 s
def execRemoteGet (c : Clu) (i : SlotIx) (s : State) : Res := remoteRow c i 0x83 s

/-! ### Responses (R250) -/

/-- A response that finds no entry is dropped and counted. -/
def lateDrop (s : State) (job : Word) : State := updSchPart s (bits job.toNat 15 12) fun x => { x with lateDrop := satInc x.lateDrop }

/-- A remote response is written to the store, landed, or dropped (R250). -/
def remoteResponse (s : State) (x : RemoteResp) : State :=
  match jobOf s x.job.toNat with
  | none => lateDrop s x.job
  | some j =>
    if !launched j || j.ending.isSome || j.runEpoch != x.runEpoch then lateDrop s x.job
    else
      match (ctxOf s j x.rank).bind fun sl => sl.remotes.find? fun e => e.tag == x.tag && !e.landed with
      | none => lateDrop s x.job
      | some e =>
        let w := e.cmd.word
        let isE (y : Remote) : Bool := y.tag == x.tag
        match rankCluster j x.rank with
        | some c =>
          let s := updSlot s c j.slotIx fun sl => { sl with remotes := dropFirst isE sl.remotes }
          let s := if e.isPut then s else viewWrite s c j.slotIx (rView w) (fit x.data (rLen w))
          finishCmd s c j.slotIx .remote e.cmd
        | none =>
          let s := if e.isPut then s else ncWrite s (jLandingArea j x.rank + fld w 0x1C 4) (fit x.data (rLen w))
          updCtx s j x.rank fun sl => { sl with remotes := modFirst isE (fun y => { y with landed := true }) sl.remotes }

def execRemoteResponse (x : RemoteResp) (s : State) : Res := .next (remoteResponse s x)

/-- The stream offset of the command of a rank's remote entry. -/
def remotePos (s : State) (j : Job) (rank tag : Nat) : Nat :=
  (((ctxOf s j rank).bind fun sl => sl.remotes.find? fun e => e.tag == tag).map fun e => e.cmd.pos).getD 0

/-- The message of a remote entry was refused, timed out or lost its peer: the REMOTE fault of its command (R249). -/
def remoteFailed (s : State) (job : Word) (rank : Nat) (epoch : Word) (tag : Nat) : State :=
  match jobOf s job.toNat with
  | some j => if launched j && j.runEpoch == epoch && j.ending.isNone then rankFault s j rank 0x22 (remotePos s j rank tag) else s
  | none => s

/-- GETs that wait for data from a partner that is lost fail (R249, R430; log entry 39). -/
def failGets (s : State) (q p : Nat) : State :=
  (s.sch.jobs.filter fun x => x.2.part == p && launched x.2 && x.2.ending.isNone).foldl (fun s x =>
    let j := x.2
    let lost (e : Remote) : Bool := !e.isPut && !e.landed && e.pos == q
    match (List.range (jWidth j)).findSome? fun r =>
        ((ctxOf s j r).bind fun sl => sl.remotes.find? lost).map fun e => (r, e.cmd.pos) with
    | some (r, pos) => rankFault s j r 0x22 pos
    | none => s) s

end Sys2Proof.Machine
end

