-- ==== Sys2Proof/Machine/Links.lean ====
section
/-! DEFINITION. Links and their states (R417-R423), received Evsel frames and timers (R425-R431), messages consumed, and the LINK class
(R438-R440). -/

namespace Sys2Proof.Machine

/-! ### Link states (R421, R423) -/

/-- A link's state changed: a LINK event on every partition (R422). -/
def setLink (s : State) (l : Nat) (st : Fin 6) : State :=
  if (link s l).st == st then s else eventAll (updLink s l fun k => { k with st }) 0x0007 l

/-- A link leaves UP for `st`: the departure is counted, and the eighth within 10 s clears the count and holds the link for 30 s, unless it was
held by HOLD or lost its use (R423). -/
def leaveUp (s : State) (l : Nat) (st : Fin 6) : State :=
  let t := now s
  let recent := ((link s l).recent.filter fun x => decide (t < x + 10000000000)) ++ [t]
  let s := updLink s l fun k => { k with downs := satInc k.downs, recent }
  if 8 ≤ recent.length then
    let held := st == 0 || st == 4
    setLink (updLink s l fun k => { k with recent := [], holdUntil := if held then t + 30000000000 else k.holdUntil }) l (if held then 2 else st)
  else setLink s l st

/-- A link leaves its state for `st`. -/
def changeLink (s : State) (l : Nat) (st : Fin 6) : State := if (link s l).st == 1 && st != 1 then leaveUp s l st else setLink s l st

/-- The transmitter is not idle (R421, R458). -/
def transmits (s : State) (l : Nat) : Bool := s.rst.released && [0, 1, 4].contains (link s l).st.val

/-! ### The fate of messages (R427-R431, R438) -/

/-- A message of an owner failed; `refused` by a CANCEL. -/
def msgFailed (s : State) (m : OutMsg) (refused : Bool) : State :=
  match m.owner with
  | .forward r => finish s r (ansErr (if refused then 0x0101 else 0x0100))
  | .remote job rank epoch tag _ => remoteFailed s job rank epoch tag
  | .nobody => s

/-- A message is wholly acknowledged: a FORWARD is past its commit point, a PUT is in the peer's DRAM. -/
def msgAcked (q p : Nat) (s : State) (m : OutMsg) : State :=
  match m.owner with
  | .forward r => updConn (commit s r) q p fun c => { c with forwards := c.forwards ++ [(r, m.payload.take 64)] }
  | .remote job rank runEpoch tag true => remoteResponse s { job, rank, runEpoch, tag, data := [] }
  | _ => s

/-- The connection takes a new epoch: its unacknowledged messages fail and are counted, PSNs restart at 0 (R427). -/
def newEpoch (s : State) (q p : Nat) : State :=
  let failed := (conn s q p).msgs
  let s := updConn s q p fun c => { c with txEpoch := (c.txEpoch + 1) % 2 ^ 32, nextPsn := 0, acked := 0, msgs := [], rnrAt := none }
  let s := updTrunk s q fun t => { t with fail := satAdd t.fail failed.length }
  pump (failed.foldl (fun s m => msgFailed s m false) s) q

/-- What waits for messages of the partner's connection is lost: FORWARDs past their commit point, GETs (R430, R438). -/
def partnerLost (s : State) (q p : Nat) : State :=
  let fs := (conn s q p).forwards
  let s := updConn s q p fun c => { c with forwards := [] }
  failGets (fs.foldl (fun s f => finish s f.1 (ansErr 0x0102)) s) q p

/-- A receiver's side emptied, at the partner's epoch `e`. -/
def rxReset (s : State) (q p : Nat) (e : Option Nat) : State :=
  updConn s q p fun c => { c with rxEpoch := e, rxBase := 0, held := [], inbox := [], unacked := 0, gapAt := none }

/-- A partner with a new incarnation (R430). -/
def newIncarnation (s : State) (q : Nat) : State :=
  (List.range 16).foldl (fun s p => partnerLost (newEpoch (rxReset s q p none) q p) q p) s

/-- ACK_PSN received (R426, R427): progress restores the RTO, wholly acknowledged messages end. -/
def ackTo (s : State) (q p a : Nat) : State :=
  let c := conn s q p
  if a == c.acked || 2 ^ 31 ≤ psnDist a c.acked || 2 ^ 31 ≤ psnDist c.nextPsn a then s
  else
    let done (m : OutMsg) : Bool := psnDist a (psnAdd m.psn (msgPackets m)) < 2 ^ 31
    let s := updConn s q p fun c =>
      { c with acked := a, progressAt := now s, rto := rtoUs s, msgs := c.msgs.filter fun m => !done m }
    pump ((c.msgs.filter done).foldl (msgAcked q p) s) q

/-! ### Frames received (R425) -/

/-- A frame that R425 has dropped. -/
def frameBad (f : EvFrame) : Bool :=
  let h := f.header
  let ty := fld h 1 1
  let src := fld h 0x18 4
  h.length != 32 || fld h 0 1 != 0x10 || decide (5 < ty) || decide (4 ≤ fld h 2 1) || fld h 0x17 1 != 0 || decide (5 < fld h 0x16 1) ||
    (if ty = 4 then fld h 3 1 != 0xFF || bitAt src 7 || decide (2 ^ 11 ≤ src) || f.payload.length != 24 else decide (15 < fld h 3 1) || src != 0) ||
    f.payload.length != fld h 0x14 2 || decide (4096 < f.payload.length) || fld h 0x1C 4 != evCheck h f.payload

/-- A frame counted in LNK_TR_BAD. -/
def countBad (s : State) (q : Nat) : State := updTrunk s q fun t => { t with bad := satInc t.bad }

/-- A frame of a connection on an UP trunk link: its epoch is compared, its ACK_PSN taken, and `k` acts on it. -/
def rxFrame (l : LinkIx) (f : EvFrame) (type : Nat) (k : State → Nat → Nat → State) (s : State) : Res :=
  match facing s l.val with
  | none => .next s
  | some (q, _) =>
    if !isTrunk s l.val || (link s l.val).st != 1 then .next s
    else if frameBad f then .next (countBad s q)
    else if fld f.header 1 1 != type then .next s
    else
      let p := fld f.header 3 1
      let e := fld f.header 4 4
      let s := match (conn s q p).rxEpoch with
        | none => updConn s q p fun c => { c with rxEpoch := some e }
        | some x => if x != e && psnDist e x < 2 ^ 31 then partnerLost (rxReset s q p (some e)) q p else s
      if (conn s q p).rxEpoch != some e then .next s
      else .next (k (ackTo s q p (fld f.header 0xC 4)) q p)

/-- The packets of a complete message from the base on. -/
def wholeMsg (held : Tbl EvPacket) (b : Nat) : Nat → Option (List Byte × Nat)
  | 0 => none
  | n + 1 =>
    match tfind? held b with
    | none => none
    | some k => if k.last then some (k.payload, b) else (wholeMsg held (psnAdd b 1) n).map fun x => (k.payload ++ x.1, x.2)

/-- Complete messages moved to the inbox, in PSN order. -/
def assemble : Nat → Conn → Conn
  | 0, c => c
  | n + 1, c =>
    match tfind? c.held c.rxBase, wholeMsg c.held c.rxBase c.held.length with
    | some k, some (bs, e) =>
      let len := psnDist e c.rxBase + 1
      assemble n { c with
        rxBase := psnAdd e 1
        held := c.held.filter fun x => len ≤ psnDist x.1 c.rxBase
        inbox := c.inbox ++ [{ msn := k.msn, kind := k.kind, payload := bs, psn := c.rxBase, lastPsn := e }] }
    | _, _ => c

/-- EVSEL_DATA: a packet is held, or discarded as a duplicate; complete messages join the inbox; the sixteenth unacknowledged packet is
answered by an ACK (R426). -/
def dataIn (f : EvFrame) (s : State) (q p : Nat) : State :=
  let c := conn s q p
  let h := f.header
  let psn := fld h 8 4
  let seen := 2 ^ 31 ≤ psnDist psn c.rxBase || (tfind? c.held psn).isSome
  let s := if seen then updTrunk s q fun t => { t with dup := satInc t.dup } else
    updConn s q p fun c =>
      let k : EvPacket := { first := bitAt (fld h 2 1) 0, last := bitAt (fld h 2 1) 1, msn := fld h 0x10 4, kind := fld h 0x16 1, payload := f.payload }
      let held := tput c.held psn k
      let c := assemble held.length { c with held }
      { c with gapAt := if psnDist (firstMissing c.held c.rxBase c.held.length) c.rxBase = c.held.length then none else c.gapAt.or (some (now s)) }
  let s := updConn s q p fun c => { c with unacked := c.unacked + 1, unackedAt := if c.unacked = 0 then now s else c.unackedAt }
  if 16 ≤ (conn s q p).unacked then sendAck s q p else s

def execEvselData (l : LinkIx) (f : EvFrame) (s : State) : Res := rxFrame l f 0 (dataIn f) s

/-- EVSEL_ACK: its ACK_PSN is all it carries. -/
def execEvselAck (l : LinkIx) (f : EvFrame) (s : State) : Res := rxFrame l f 1 (fun s _ _ => s) s

/-- NACK_SEQ resends what is unacknowledged (R427). -/
def execNackSeq (l : LinkIx) (f : EvFrame) (s : State) : Res := rxFrame l f 2 resend s

/-- NACK_RNR: the resend follows after 50 us (R428). -/
def execNackRnr (l : LinkIx) (f : EvFrame) (s : State) : Res :=
  rxFrame l f 3 (fun s q p =>
    updConn (updTrunk s q fun t => { t with rnr := satInc t.rnr }) q p fun c => { c with rnrAt := c.rnrAt.or (some (now s)) }) s

/-- CANCEL: the message it numbers fails with REFUSED, or, if it is one of the partner's, is not served (R251, R431). -/
def cancelIn (f : EvFrame) (s : State) (q p : Nat) : State :=
  let n := fld f.header 0x10 4
  match (conn s q p).msgs.find? fun m => m.msn == n with
  | some m => pump (msgFailed (updConn s q p fun c => { c with msgs := dropFirst (fun m => m.msn == n) c.msgs }) m true) q
  | none => updConn s q p fun c => { c with inbox := c.inbox.filter fun m => !(m.msn == n && m.kind != 0) }

def execCancel (l : LinkIx) (f : EvFrame) (s : State) : Res := rxFrame l f 5 (cancelIn f) s

/-! ### Timers of a connection -/

/-- ACK_TIMER: 2 us after a packet came, what is held is acknowledged (R426). -/
def execAckTimer (k : ConnId) (s : State) : Res :=
  let c := conn s k.pos.val k.part.val
  if c.unacked = 0 then .next s else .next (sendAck (reach s (c.unackedAt + 2000)) k.pos.val k.part.val)

/-- GAP_TIMER: a gap that has stood 4 us is told by NACK_SEQ (R426). -/
def execGapTimer (k : ConnId) (s : State) : Res :=
  match (conn s k.pos.val k.part.val).gapAt with
  | none => .next s
  | some t =>
    let s := reach s (t + 4000)
    .next (updConn (sendControl s k.pos.val k.part.val 2 0) k.pos.val k.part.val fun c => { c with gapAt := some (now s) })

/-- RNR_RESEND_TIMER: the wait does not count toward MSG_TIMEOUT (R428). -/
def execRnrResendTimer (k : ConnId) (s : State) : Res :=
  let q := k.pos.val
  let p := k.part.val
  match (conn s q p).rnrAt with
  | none => .next s
  | some t =>
    let s := reach s (t + 50000)
    let s := updConn s q p fun c =>
      { c with rnrAt := none, progressAt := now s, msgs := c.msgs.map fun m => { m with paused := m.paused + (now s - t) } }
    .next (resend s q p)

/-- RTO_EXPIRE: a resend, and the RTO doubles up to 1,024 us (R427). -/
def execRtoExpire (k : ConnId) (s : State) : Res :=
  let q := k.pos.val
  let p := k.part.val
  let c := conn s q p
  if c.msgs.isEmpty || c.rnrAt.isSome then .next s
  else
    let s := reach s (c.progressAt + c.rto * 1000)
    .next (resend (updConn s q p fun c => { c with rto := min 1024 (2 * c.rto), progressAt := now s }) q p)

/-- MSG_TIMEOUT_EXPIRE: the oldest message has not been acknowledged in time (R427). -/
def execMsgTimeoutExpire (k : ConnId) (s : State) : Res :=
  let c := conn s k.pos.val k.part.val
  match c.msgs with
  | [] => .next s
  | m :: _ =>
    if c.rnrAt.isSome then .next s
    else .next (newEpoch (reach s (m.sentAt + msgTimeout s * 1000 + m.paused)) k.pos.val k.part.val)

/-! ### HELLO and LLDP (R422) -/

/-- A HELLO's fields match R418 and the group. -/
def helloMatches (s : State) (l : Nat) (f : EvFrame) : Bool :=
  let src := fld f.header 0x18 4
  fld f.payload 8 8 == s.prt.cfg.links.groupId.toNat && facing s l == some (bits src 10 8, bits src 6 0)

/-- A HELLO received on a trunk link whose PHY is up: the neighbour table, the partner's incarnation, the link's state. -/
def helloIn (s : State) (l q : Nat) (f : EvFrame) : State :=
  let src := fld f.header 0x18 4
  let node := BitVec.ofNat 64 (fld f.payload 0 8)
  let inc := BitVec.ofNat 32 (fld f.payload 16 4)
  let ok := helloMatches s l f
  let old := (trunk s q).incarnation
  let changed := (link s l).partnerNode != node || (link s l).partnerInc != some inc
  let s := updLink s l fun k =>
    { k with partnerPos := bits src 10 8, partnerLink := bits src 6 0, partnerNode := node, partnerInc := some inc, helloAt := if ok then now s else k.helloAt }
  let s := if changed then eventAll s 0x0007 l else s
  let s := if ok then
      let s := updTrunk s q fun t => { t with incarnation := some inc }
      if old.any fun x => x != inc then newIncarnation s q else s
    else s
  if ok then setLink s l 1 else changeLink s l 4

/-- A HELLO frame on a link in one of the given states. -/
def helloRow (l : LinkIx) (f : EvFrame) (states : List Nat) (s : State) : Res :=
  match facing s l.val with
  | none => .next s
  | some (q, _) =>
    if !isTrunk s l.val || !transmits s l.val || !states.contains (link s l.val).st.val then .next s
    else if frameBad f then .next (countBad s q)
    else if fld f.header 1 1 != 4 then .next s
    else .next (helloIn s l.val q f)

def execEvselHello (l : LinkIx) (f : EvFrame) (s : State) : Res := helloRow l f [1, 4] s

/-- LINK_UP: a port's link is UP with its PHY; a trunk link after a matching HELLO (R417, R422). -/
def execLinkUp (l : LinkIx) (f : EvFrame) (s : State) : Res :=
  if isTrunk s l.val then helloRow l f [0] s
  else if (portOf s l.val).isSome && s.rst.released && (link s l.val).st == 0 then .next (setLink s l.val 1)
  else .next s

/-- LINK_DOWN: the PHY is lost. -/
def execLinkDown (l : LinkIx) (s : State) : Res :=
  if [1, 4].contains (link s l.val).st.val then .next (changeLink s l.val 0) else .next s

/-- The state of a link that is not held, before its PHY is up: DOWN, or UNUSED without a use (R421). -/
def linkIdle (s : State) (l : Nat) : Fin 6 := if isTrunk s l || (portOf s l).isSome then 0 else 5

/-- FLAP_HOLD_EXPIRE. -/
def execFlapHoldExpire (l : LinkIx) (s : State) : Res :=
  if (link s l.val).st == 2 then .next (setLink (reach s (link s l.val).holdUntil) l.val (linkIdle s l.val)) else .next s

/-- HELLO_TX: every 1.0 ms on each trunk link (R422, R425). -/
def execHelloTx (l : LinkIx) (s : State) : Res :=
  if !isTrunk s l.val || !transmits s l.val then .next s
  else
    let s := reach s (link s l.val).helloDue
    let s := updLink s l.val fun k => { k with helloDue := now s + 1000000 }
    let body := leBytes 8 s.ident.nodeId.toNat ++ leBytes 8 s.prt.cfg.links.groupId.toNat ++ leBytes 4 s.klv.incarnation.toNat ++ zeros 4
    .next (sendFrame s l.val (evHeader 4 0 0xFF 0 0 0 0 24 0 (l.val + s.rst.groupPos * 256)) body)

/-- The port entry a link belongs to. -/
def portEntry (s : State) (l : Nat) : Option PortRec := (portOf s l).bind fun n => s.prt.cfg.links.ports[n]?

/-- A TLV of LLDP: type in 7 bits, length in 9, value. -/
def lldpTlv (type : Nat) (v : List Byte) : List Byte := (leBytes 2 (type * 512 + v.length % 512)).reverse ++ v

/-- An LLDP frame (R422, IEEE 802.1AB): Chassis ID, Port ID, TTL 120 s, the system name, and the organisation-specific TLV. -/
def lldpFrame (s : State) (l : Nat) : List Byte :=
  [0x01#8, 0x80#8, 0xC2#8, 0#8, 0#8, 0x0E#8] ++ (leBytes 6 (s.ident.macBase.toNat + ((portEntry s l).map fun q => q.firstLink.toNat).getD l)).reverse
    ++ [0x88#8, 0xCC#8] ++ lldpTlv 1 Config.lldpChassis ++ lldpTlv 2 (Config.lldpPort l) ++ lldpTlv 3 ((leBytes 2 120).reverse)
    ++ lldpTlv 5 (partNumber s.ident ++ s.ident.serial)
    ++ lldpTlv 127 (Config.lldpOrg s.ident.nodeId.toNat s.prt.cfg.links.groupId.toNat s.rst.groupPos l) ++ lldpTlv 0 []

/-- LLDP_TX: every 30 s on trunk links and network ports (R422). -/
def execLldpTx (l : LinkIx) (s : State) : Res :=
  if !(isTrunk s l.val || (portOf s l.val).isSome) || !transmits s l.val then .next s
  else
    let s := reach s (link s l.val).lldpDue
    let s := updLink s l.val fun k => { k with lldpDue := now s + 30000000000 }
    .next (emit s (.ether l.val (lldpFrame s l.val)))

/-- HELLO_TIMEOUT: 4.0 ms without a valid HELLO. -/
def execHelloTimeout (l : LinkIx) (s : State) : Res :=
  if isTrunk s l.val && (link s l.val).st == 1 then .next (leaveUp (reach s ((link s l.val).helloAt + 4000000)) l.val 0) else .next s

/-! ### Messages consumed (R431) -/

/-- The partition may not be reached over Evsel (R431). -/
def unreachable (s : State) (p : Nat) : Bool := !isActive s p || shTrunk s p == 0

/-- A message refused with a CANCEL, which does not acknowledge it. -/
def refuseMsg (s : State) (q p : Nat) (m : InMsg) : State :=
  sendTo s q (evHeader 5 0 p (conn s q p).txEpoch 0 m.psn m.msn 0 0 0) []

/-- The oldest message of a connection, if its kind is the row's: it leaves the inbox, an acknowledgement is due, and `f` acts on it, unless its
partition may not be reached, so that it is refused (R431). -/
def inboxRow (k : ConnId) (kind : Nat) (f : State → Nat → Nat → InMsg → State) (s : State) : Res :=
  let q := k.pos.val
  let p := k.part.val
  match (conn s q p).inbox with
  | [] => .next s
  | m :: t =>
    if m.kind != kind then .next s
    else
      let s := updConn s q p fun c =>
        { c with inbox := t, unacked := max 1 c.unacked, unackedAt := if c.unacked = 0 then now s else c.unackedAt }
      .next (if unreachable s p then refuseMsg s q p m else f s q p m)

/-- The job and rank a message names, launched in the partition. -/
def targetJob (s : State) (p : Nat) (h : Word) (rank : Nat) : Option Job :=
  (jobOf s h.toNat).bind fun j => if j.part == p && launched j && decide (rank < jWidth j) && !unreachable s p then some j else none

/-- A rank's signal counter incremented (R248). -/
def signalRank (s : State) (j : Job) (rank : Nat) (sig : Fin 16) : State :=
  updCtx s j rank fun sl => { sl with sigcnt := tmod 0 sl.sigcnt sig.val (· + 1) }

/-- PUT: the data lands in the rank's landing area, then the signal is counted. -/
def execPut (k : ConnId) (m : PutMsg) (s : State) : Res :=
  inboxRow k 2 (fun s q p i =>
    match targetJob s p m.job m.rank with
    | none => refuseMsg s q p i
    | some j =>
      if jLanding j < m.off + m.data.length then refuseMsg s q p i
      else
        let s := ncWrite s (jLandingArea j m.rank + m.off) m.data
        match m.sig with
        | some g => signalRank s j m.rank g
        | none => s) s

/-- GET_REQ: the landing area is read and answered with GET_DATA. -/
def execGetReq (k : ConnId) (m : GetMsg) (s : State) : Res :=
  inboxRow k 3 (fun s q p i =>
    match targetJob s p m.job m.rank with
    | none => refuseMsg s q p i
    | some j =>
      let a := jLandingArea j m.rank + m.off
      if jLanding j < m.off + m.len || poisoned s a m.len then refuseMsg s q p i
      else
        let s := ncRead s a m.len
        sendMsg s q p 4 (Config.remoteBytes 4 [m.fromJob.toNat, m.fromRank, m.runEpoch.toNat, m.tag] (mread s.mem a m.len)) .nobody) s

/-- GET_DATA: delivered as a remote response. -/
def execGetData (k : ConnId) (x : RemoteResp) (s : State) : Res := inboxRow k 4 (fun s _ _ _ => remoteResponse s x) s

/-- SIGNAL. -/
def execSignal (k : ConnId) (job : Word) (rank : Nat) (sig : Fin 16) (s : State) : Res :=
  inboxRow k 5 (fun s q p i =>
    match targetJob s p job rank with
    | none => refuseMsg s q p i
    | some j => signalRank s j rank sig) s

/-! ### The LINK class (R439) -/

/-- Opcodes of class LINK. -/
def linkOps : List OpSpec := [
  { cls := 7, op := 1, pay := .outOnly, lenOk := fun _ _ _ o => decide (64 ≤ o) },
  { cls := 7, op := 2, pay := .outOnly, lenOk := fun _ _ _ o => decide (1536 ≤ o) },
  { cls := 7, op := 3, used := [(0x20, 1)], pay := .list, b := fun s _ => msgTimeout s
    lenOk := fun _ _ i o => decide (64 ≤ i) && decide (i ≤ 64 + 0x100000) && decide (32 ≤ o)
    range := fun s e =>
      let q := fld e 0x20 1
      if 7 < q || q == s.rst.groupPos || !s.prt.cfg.links.present.getLsbD q then some (0x0018, 0x20) else none },
  { cls := 7, op := 0x10, used := [(0x20, 1)], pfOnly := true, range := rngs [(0x20, 1, 0, 95)] },
  { cls := 7, op := 0x11, used := [(0x20, 1)], pfOnly := true, range := rngs [(0x20, 1, 0, 95)] } ]

/-- REACHABLE (R439). -/
def reachable (s : State) : Nat := natSum ((List.range 8).map fun q => if (upLinks s q).isEmpty then 0 else 2 ^ q)

def execLinkInfo (r : ReqId) (s : State) : Res :=
  answer s r 7 1 fun s _ =>
    ansOk 64 (fit (leBytes 8 s.ident.nodeId.toNat ++ leBytes 8 s.ident.macBase.toNat ++ leBytes 8 s.prt.cfg.links.groupId.toNat
      ++ leBytes 1 s.rst.groupPos ++ leBytes 1 s.prt.cfg.links.present.toNat ++ leBytes 1 (reachable s)) 64)

def execNeighbours (r : ReqId) (s : State) : Res :=
  answer s r 7 2 fun s _ =>
    ansOk 1536 ((List.range 96).flatMap fun l =>
      let k := link s l
      leBytes 1 k.st.val ++ leBytes 1 k.partnerPos ++ leBytes 1 k.partnerLink ++ leBytes 1 ((portOf s l).getD 0xFF) ++ zeros 4
        ++ leBytes 8 k.partnerNode.toNat)

/-- HOLD places a link in HELD_ADMIN (R423). -/
def execHold (r : ReqId) (s : State) : Res :=
  runReq s r 7 0x10 fun s x =>
    let l := prm x 0x20 1
    finish (commit (changeLink s l 3) r) r (ansOk (link s l).st.val)

/-- RELEASE returns a held link to DOWN at once, a link without a use to UNUSED (R421, R423, R440). -/
def execLinkRelease (r : ReqId) (s : State) : Res :=
  runReq s r 7 0x11 fun s x =>
    let l := prm x 0x20 1
    let st := (link s l).st
    if st != 2 && st != 3 then finish s r (ansErr 0x0103 l) else finish (commit (setLink s l (linkIdle s l)) r) r (ansOk st.val)

/-- A FORWARD is under way on a connection. -/
def forwarding (c : Conn) (r : ReqId) : Bool := (c.msgs ++ c.waiting).any (fun m => m.owner == .forward r) || c.forwards.any fun f => f.1 == r

/-- FORWARD sends the inner request and waits (R438). -/
def execForward (r : ReqId) (s : State) : Res :=
  runReq s r 7 3 fun s x =>
    let q := prm x 0x20 1
    let p := reqPart r
    if forwarding (conn s q p) r then s
    else
      withIn s r x fun s b =>
        if entList b || fld b 0x10 8 != 0 then finish s r (ansErr 0x0018) else sendMsg s q p 0 b (.forward r)

/-- A FORWARD cancelled: its message concerns no one any more. -/
def cancelForward (s : State) (r : ReqId) (status : Nat) : State :=
  let clear (c : Conn) : Conn :=
    { c with msgs := c.msgs.map (fun m => if m.owner == .forward r then { m with owner := .nobody } else m)
             waiting := c.waiting.filter (fun m => m.owner != .forward r), forwards := c.forwards.filter fun f => f.1 != r }
  finish { s with lnk := { s.lnk with conns := s.lnk.conns.map fun x => (x.1, clear x.2) } } r (ansErr status)

/-- KLOVA_CPL completes the oldest FORWARD whose inner request has its CLASS, OPCODE, HSEQ and TAG (R438; log entry 40). -/
def execKlovaCpl (k : ConnId) (s : State) : Res :=
  inboxRow k 1 (fun s q p m =>
    let b := m.payload
    let fits (f : ReqId × List Byte) : Bool := fld f.2 0 2 == fld b 0 2 && fld f.2 4 4 == fld b 4 4 && fld f.2 0xC 4 == fld b 0xC 4
    match (conn s q p).forwards.find? fits with
    | none => s
    | some f =>
      let s := updConn s q p fun c => { c with forwards := dropFirst (fun g => g.1 == f.1) c.forwards }
      let room := ((findExec s f.1).map (outRoom s)).getD 0
      if room < b.length then finish s f.1 (ansErr 0x0008) else finish s f.1 (ansOk (b.length - 32) b)) s

/-! ### Activation of a configuration (R421, R435) -/

/-- Links after the active configuration changed: links whose use, port or owner changed retrain; RoCEv2 queue pairs of changed ports end. -/
def applyLinks (old s : State) : State :=
  let s := (List.range 96).foldl (fun s l =>
    let same := isTrunk old l == isTrunk s l && (portEntry old l).map (fun q => (q.firstLink, q.lanes, q.owner)) ==
      (portEntry s l).map (fun q => (q.firstLink, q.lanes, q.owner))
    if [2, 3].contains (link s l).st.val then s
    else if same && (link s l).st != 5 && linkIdle s l != 5 then s
    else changeLink s l (linkIdle s l)) s
  (List.range 12).foldl (fun s n =>
    let a := old.prt.cfg.links.ports[n]?
    let b := s.prt.cfg.links.ports[n]?
    if a.map (fun q => (q.firstLink, q.lanes, q.owner)) == b.map (fun q => (q.firstLink, q.lanes, q.owner)) then s
    else (List.range 16).foldl (fun s p => (List.range 16).foldl (fun s t =>
      match target s p t with
      | some y => if fld y.desc 0 1 == n then failTarget s p t else s
      | none => s) s) s) s

end Sys2Proof.Machine
end

