-- ==== Sys2Proof/Machine/Blocks.lean ====
section
/-! DEFINITION. Block resets (R449, R455, R456): a block stops, is idle or fenced, and is re-initialised. -/

namespace Sys2Proof.Machine

def updRst (s : State) (f : Rst → Rst) : State := { s with rst := f s.rst }

/-! ### Resetting one block (R456) -/

/-- Repairs of a kind that takes effect, for units that satisfy `p` (R506). -/
def applyRepairs (s : State) (p : Repair → Bool) : State :=
  { s with ras := { s.ras with repairs := s.ras.repairs.map fun x => if p x then { x with inEffect := true } else x } }

/-- A cluster's cache emptied without writing anything back: directory entries released, dirty lines as last committed at home (R455). -/
def dropCache (s : State) (c : Nat) : State :=
  let a := cluAgent ⟨c % 32, by omega⟩
  let freeSt (d : DirState) : DirState := match d with
    | .o b => if b == a then .u else d
    | .s v => if (v.filter (· != a)).isEmpty then .u else .s (v.filter (· != a))
    | .wbp b => if b == a then .u else d
    | .u => .u
  let free (d : Dir) : Dir := { d with st := freeSt d.st, queue := d.queue.filter fun q => q.r != a }
  { s with clus := s.clus.map (fun x => if x.1 == c then (c, { x.2 with ways := [], trees := [] }) else x), coh := { s.coh with
    dir := s.coh.dir.map fun x => (x.1, free x.2)
    caches := tdel s.coh.caches c
    wanted := s.coh.wanted.filter fun x => x.2.1 != a
    heldProbes := s.coh.heldProbes.filter fun x => x.2.1 != a
    wbOut := s.coh.wbOut.filter fun x => x.2 != a
    arrivals := s.coh.arrivals.filter fun x => x.2.r != a
    net := s.coh.net.filter fun x => x.2.1 != a } }

/-- An instance of Thyme checks its 64 known answers: whether one is wrong is a free value; a wrong one is logged (R234; log entry 121). Units
0-31 are the clusters' generators, 32 is Dill's and 33 is Sage's. -/
def thymeCheck (s : State) (unit : Nat) (part : Option Nat) : State × Bool :=
  let bad := Config.thymeWrong s.free
  let s := drawn s
  (if bad then logErr s { source := 5, severity := 1, part, unit } else s, bad)

/-- The check of a cluster's generator after a reset of the cluster (R234, R235). -/
def thymeCluster (s : State) (c : Nat) : State :=
  if (cluster s c).katDone then s
  else
    let (s, bad) := thymeCheck s c (clusterOwner s c)
    updClu s c fun k => { k with katDone := true, katFail := bad, thyWords := 64 }

/-- A cluster at its reset values: segments cleared, slots empty, arrays free; FAILED arrays stay (R166); its generator of Thyme has checked
itself (R234); row and bank repairs take effect. -/
def clusterInit (s : State) (c : Nat) : State :=
  let s := dropCache s c
  let s := (List.range 4).foldl (fun s i => updSlot s c i fun _ => slotReset) s
  let s := (List.range 4).foldl (fun s k => updArr s c k fun a => { arrReset with failed := a.failed, fails := a.fails }) s
  let s := clearRange s (storeBase c) storeLen
  let s := thymeCluster (updClu s c fun _ => clusterReset) c
  let s := { s with ras := { s.ras with scrubStore := s.ras.scrubStore.filter fun x => x.1 / 8 != c } }
  applyRepairs s fun x => (x.kind == 0 || x.kind == 1) && x.unit % 32 == c

/-- Whether TYPE and INDEX name a block. -/
def blockExists (ty ix : Nat) : Bool := match ty with
  | 0 => decide (ix < 32)
  | 1 => decide (ix < 64)
  | 2 => decide (ix < 128)
  | 3 => decide (ix < 96)
  | 4 => decide (ix < 8)
  | _ => false

/-- The partition that owns a block. -/
def blockOwner (s : State) (ty ix : Nat) : Option Nat := match ty with
  | 0 => clusterOwner s ix
  | 1 => engineOwner s ix
  | 2 => groupOwner s (ix / 4)
  | _ => none

/-- Every job with a rank on a cluster is torn down: its RUN completes with DEVICE_ERROR and the log entry of the reset (R456). -/
def blockJobs (s : State) (c : Nat) : State :=
  let d := nextSeqLow s
  let keys := (s.sch.jobs.filter fun x => x.2.clusters.contains c && x.2.ending.isNone).map (·.1)
  let s := keys.foldl (fun s k => beginEnd s k { status := 0x0009, detail := d }) s
  keys.foldl (fun s k => match tfind? s.sch.jobs k with
    | some j => match j.ending with
      | some e => endJob s k j e
      | none => s
    | none => s) s

/-- A block of a type re-initialised: a cluster; an engine, whose sample is decoded again; a channel, whose position in its frame restarts;
a link MAC, whose departure from UP is not counted; a tile mover, whose transfer starts again. -/
def blockInit (s : State) (ty ix : Nat) : State := match ty with
  | 0 => clusterInit s ix
  | 1 => { s with ing := { s.ing with engines := tdel s.ing.engines ix } }
  | 2 => { s with ftl := { s.ftl with chans := tdel s.ftl.chans ix }, srch := { s.srch with chans := tdel s.srch.chans ix } }
  | 3 => if [2, 3, 5].contains (link s ix).st.val then s else setLink s ix (linkIdle s ix)
  | _ => s

/-- Lines that a fenced cluster held dirty (R455). -/
def lostLines (s : State) (ty ix : Nat) : List Nat :=
  if ty = 0 then ((tget [] s.coh.caches ix).filter fun x => x.2.st == .m).map (·.1) else []

/-- The entry of a fence: DETAIL counts the lines lost (R455, R502). -/
def fenceRec (s : State) (ty ix : Nat) : LogRec :=
  { source := 7, severity := 1, part := blockOwner s ty ix, unit := ix + ty * 256, detail := (lostLines s ty ix).length }

/-- The users of a block feel its reset, with a log entry that names it (R455, R456; log entry 43). -/
def blockStop (s : State) (ty ix : Nat) (source : Nat) : State :=
  let e : LogRec := if source = 7 then fenceRec s ty ix else { source, severity := 3, part := blockOwner s ty ix, unit := ix + ty * 256 }
  if ty = 0 then logErr (blockJobs s ix) e else logErr s e

/-- Lines a fenced cluster held dirty, each recorded as lost (R455). -/
def fenceLines (s : State) (ty ix : Nat) : State :=
  (lostLines s ty ix).foldl (fun s line =>
    logErr s { source := 7, severity := 1, part := blockOwner s ty ix, unit := ix + ty * 256, address := line * 64, detail := 1 }) s

/-- A fenced block is counted (R455). -/
def countFenced (s : State) : State := updRst s fun r => { r with blkTimedOut := true, blkFenced := satInc r.blkFenced }

/-- A block fenced and reset at once, its clock having stopped (R443; log entry 51). -/
def blockFence (s : State) (ty ix : Nat) : State := countFenced (blockInit (fenceLines (blockStop s ty ix 7) ty ix) ty ix)

/-! ### The rows (R455) -/

/-- RST_BLOCK_REQ written: with GO, unless a block reset is in progress, the block named stops (R455, R470). -/
def blockReqWrite (s : State) (v : Word) : State :=
  if s.rst.blkBusy then s
  else
    let ix := bits v.toNat 7 0
    let ty := bits v.toNat 10 8
    let s := updRst s fun r => { r with blkIndex := BitVec.ofNat 8 ix, blkType := BitVec.ofNat 3 ty }
    if !v.getLsbD 11 || !blockExists ty ix || s.rst.active then s
    else updRst (blockStop s ty ix 8) fun r => { r with blkBusy := true, blkAt := now s }

/-- BLOCK_RESET: Tilir writes RST_BLOCK_REQ. -/
def execBlockReset (v : Word) (s : State) : Res := .next (blockReqWrite s v)

/-- BLOCK_IDLE: the block is idle in time; a cluster's cache has been cleaned. -/
def execBlockIdle (s : State) : Res :=
  if !s.rst.blkBusy then .next s
  else
    let ty := s.rst.blkType.toNat
    let ix := s.rst.blkIndex.toNat
    let s := if ty = 0 then flushCache s ⟨ix % 32, by omega⟩ else s
    .next (updRst (blockInit s ty ix) fun r => { r with blkBusy := false, blkTimedOut := false })

/-- BLOCK_RESET_TIMEOUT: the block is fenced, then reset. -/
def execBlockResetTimeout (s : State) : Res :=
  if !s.rst.blkBusy then .next s
  else
    let ty := s.rst.blkType.toNat
    let ix := s.rst.blkIndex.toNat
    let s := reach s (s.rst.blkAt + s.rst.blkTimeout.toNat * 1000)
    let s := logErr (fenceLines s ty ix) (fenceRec s ty ix)
    .next (updRst (countFenced (blockInit s ty ix)) fun r => { r with blkBusy := false })

end Sys2Proof.Machine
end

