-- ==== Sys2Proof/Machine/Mailbox.lean ====
section
/-! DEFINITION. The mailbox window (R35-R41): KLV_CTRL, the doorbells, ENABLED and ACTIVE, and the SYS opcodes that act on one mailbox
only (R60, R68, R70, R71). -/

namespace Sys2Proof.Machine

/-- Opcodes of class SYS (R68). -/
def sysOps : List OpSpec := [
  { cls := 1, op := 1, used := [(0x20, 2)]
    range := fun _ e =>
      if fld e 2 1 != 0 then some (0x0018, 0x02)
      else if fld e 0x21 1 < fld e 0x20 1 then some (0x0018, 0x20) else none },
  { cls := 1, op := 2, pay := .outSingle, lenOk := fun _ _ _ o => decide (4096 ≤ o) },
  { cls := 1, op := 3, used := [(0x20, 4)] },
  { cls := 1, op := 4, used := [(0x20, 8)], pay := .outOnly, range := rngs [(0x24, 4, 1, 4096)]
    lenOk := fun _ e _ o => decide (fld e 0x24 4 * 32 ≤ o)
    lenApplies := fun e => decide (1 ≤ fld e 0x24 4) && decide (fld e 0x24 4 ≤ 4096) },
  { cls := 1, op := 5 },
  { cls := 1, op := 6 } ]

/-! ### Control -/

/-- EN goes from 1 to 0 (R39): completions produced and not posted stay in the records and are counted. -/
def clearEn (m : Mailbox) : Mailbox :=
  if m.en then { m with en := false, rising := false, heldCnt := satAdd m.heldCnt m.waiting.length, waiting := [] } else m

/-- Requests a reset cancels: those not past their commit point (R40). -/
def cancellable (m : Mailbox) : List Exec := m.execs.filter fun x => !x.committed

/-- The guarded fields of a KLV_CTRL value (R35, R36). -/
def ctrlGuarded (v : Word) : Nat × Nat × Nat := (bits v.toNat 11 8, bits v.toNat 15 12, bits v.toNat 26 16)

/-- A mailbox may be enabled (R36): LOG2 fields in 6-12, bases nonzero, no reset in progress. -/
def mayEnable (m : Mailbox) : Bool :=
  decide (6 ≤ m.reqLog2.toNat) && decide (m.reqLog2.toNat ≤ 12) && decide (6 ≤ m.cplLog2.toNat) &&
    decide (m.cplLog2.toNat ≤ 12) && m.reqBase.toNat / 4096 != 0 && m.cplBase.toNat / 4096 != 0 && !m.resetting

/-- KLV_CTRL fields but MRESET written (R36, R39). -/
def ctrlFields (v : Word) (m : Mailbox) : Mailbox :=
  let g := ctrlGuarded v
  let m :=
    if m.enabled then
      (if g == (m.reqLog2.toNat, m.cplLog2.toNat, m.msixVec.toNat) then m else { m with cfgErr := true })
    else { m with reqLog2 := BitVec.ofNat 4 g.1, cplLog2 := BitVec.ofNat 4 g.2.1, msixVec := BitVec.ofNat 11 g.2.2 }
  let m := { m with dmaBlock := v.getLsbD 1, msixEn := v.getLsbD 2 }
  if v.getLsbD 0 then
    (if m.en then m else if mayEnable m then { m with en := true, rising := true } else { m with cfgErr := true })
  else clearEn m

/-- A mailbox with MRESET accepted: RESETTING is set and its cancelled requests have gone (R40). -/
def startReset (m : Mailbox) : Mailbox := { m with resetting := true }

/-- Step 4 of a mailbox reset and RESETTING cleared (R40). -/
def resetDone (m : Mailbox) : Mailbox :=
  { m with recs := [], execs := [], waiting := [], events := [], registered := false, nextHseq := m.hseqBase, nextDseq := 0
           reqHead := 0, cplTail := 0, reqTail := 0, cplHead := 0, ver := 0, resetting := false }

/-- ENABLED rises: posting and consuming start afresh (R38). No message is armed by it: R41 has none sent before KLV_CPL_DB is written. -/
def enabledUp (m : Mailbox) : Mailbox :=
  { m with enabled := true, rising := false, reqHead := 0, cplTail := 0, reqTail := 0, cplHead := 0
           phase := true, msixDue := false }

/-- The device consumes and posts: EN is 1 and ENABLED has risen since it was set (R38, R39). -/
def working (m : Mailbox) : Bool := m.en && m.enabled && !m.rising

/-- Recovery boot runs: the boot loader itself serves only MB000 (R485). -/
def inRecovery (s : State) : Bool := s.fw.running == 2 && !s.fw.recovered

/-- ENABLED_RISE, from when Klova is ready (R38, R484). -/
def execEnabledRise (n : Mb) (s : State) : Res :=
  let m := mbox s n.val
  if m.en && m.rising && s.rst.ready && (!inRecovery s || n == 0) then .next (updMb s n.val enabledUp) else .next s

def execEnabledFall (n : Mb) (s : State) : Res :=
  let m := mbox s n.val
  if !m.en && m.enabled then .next (updMb s n.val fun m => { m with enabled := false }) else .next s

/-- ACTIVE_FALL: the transfers issued have ended (R39; log entry 68: a transfer takes effect when it is issued). -/
def execActiveFall (n : Mb) (s : State) : Res :=
  let m := mbox s n.val
  if m.active then .next (updMb s n.val fun m => { m with active := false }) else .next s

/-- A mailbox reset ends once no committed request is left executing (R40). -/
def execMresetDone (n : Mb) (s : State) : Res :=
  let m := mbox s n.val
  if m.resetting && !m.execs.any (·.committed) then .next (updMb s n.val resetDone) else .next s

/-! ### Doorbells (R37, R41, R42) -/

/-- Entries of the request and of the completion ring (R35). -/
def reqEntries (m : Mailbox) : Nat := 2 ^ m.reqLog2.toNat
def cplEntries (m : Mailbox) : Nat := 2 ^ m.cplLog2.toNat

/-- KLV_REQ_DB written by the owner. -/
def reqDoorbell (v : Word) (m : Mailbox) : Mailbox :=
  let i := bits v.toNat 11 0
  if m.enabled && decide (i < reqEntries m) then { m with reqTail := i } else { m with cfgErr := true }

/-- KLV_CPL_DB written by the owner; it re-arms the MSI-X message. -/
def cplDoorbell (v : Word) (m : Mailbox) : Mailbox :=
  let i := bits v.toNat 11 0
  if m.enabled && decide (i < cplEntries m) then { m with cplHead := i, msixArmed := true } else { m with cfgErr := true }

/-- A write to a register window by function `fn` takes effect only if `fn` owns the mailbox (R32), not while the module is in reset, and not
on an Evsel mailbox, of which the owner keeps read access (R437; log entry 60). -/
def ownedWrite (fn : Fn) (n : Mb) (s : State) (f : State → State) : State :=
  if ownerOf s n.val == fn.val && !s.rst.active && !isEvselMb s n.val then f s else s

def execKlvReqDb (fn : Fn) (n : Mb) (v : Word) (s : State) : Res :=
  .next (ownedWrite fn n s fun s => updMb s n.val (reqDoorbell v))
/-- KLV_CPL_DB re-arms the MSI-X message; one is sent for completions posted meanwhile that the host has not consumed (R41). A write that is
ignored does neither (R37). -/
def cplDbWrite (s : State) (n : Nat) (v : Word) : State :=
  let m0 := mbox s n
  let taken := m0.enabled && decide (bits v.toNat 11 0 < cplEntries m0)
  let s := updMb s n (cplDoorbell v)
  let m := mbox s n
  if taken && m.msixDue && m.msixEn && m.cplHead != m.cplTail.toNat then
    emit (updMb s n fun m => { m with msixArmed := false, msixDue := false }) (.msix (ownerOf s n) m.msixVec.toNat)
  else s

def execKlvCplDb (fn : Fn) (n : Mb) (v : Word) (s : State) : Res :=
  .next (ownedWrite fn n s fun s => cplDbWrite s n.val v)

/-! ### SYS opcodes -/

/-- The outcome of a HELLO (R60): the version chosen, if any. -/
def helloVersion (lo hi : Nat) : Option Nat := if lo ≤ 0x20 && 0x20 ≤ hi then some 0x20 else none

def execHello (r : ReqId) (s : State) : Res :=
  answer s r 1 1 fun _ x =>
    match helloVersion (prm x 0x20 1) (prm x 0x21 1) with
    | some v => ansOk (v + 0x2000 + 0x200000)
    | none => ansErr 0x0014 0 0x202000

def execNop (r : ReqId) (s : State) : Res := answer s r 1 6 fun _ _ => ansOk 0

/-- EVENT_WAIT: a fifth outstanding one completes with NO_SPACE; else it waits for the next entry of the queue (R64, R71). -/
def execEventWait (r : ReqId) (s : State) : Res :=
  runReq s r 1 5 fun s _ =>
    let s := updMb s r.mb.val fun m => { m with registered := true }
    if 4 < (eventWaiters (mbox s r.mb.val)).length then finish s r (ansErr 0x0005) else deliverEvent s r.mb

/-- The 32 bytes of a completion image (R50). -/
def cplBytes (c : Cpl) (dseq : Nat) (flags : Nat) : List Byte :=
  leBytes 1 c.cls.toNat ++ leBytes 1 c.op.toNat ++ leBytes 2 c.status.toNat ++ leBytes 4 c.hseq.toNat ++ leBytes 4 dseq
    ++ leBytes 4 c.tag.toNat ++ leBytes 8 c.ts.toNat ++ leBytes 4 c.result.toNat ++ leBytes 2 c.detail.toNat
    ++ leBytes 1 flags ++ zeros 1

/-- The record image of one HSEQ as READ_RECORDS gives it (R70). -/
def recordBytes (m : Mailbox) (h : Nat) : List Byte :=
  match tfind? m.recs h with
  | none => zeros 32
  | some k =>
    match k.cpl with
    | some c => cplBytes c k.dseq.toNat (4 * bnat c.committed)
    | none =>
      let done := (m.execs.find? fun x => !x.oow && x.hseq == k.hseq).any (·.committed)
      cplBytes { cls := k.cls, op := k.op, status := 0x00FE, hseq := k.hseq, tag := k.tag, ts := 0, result := 0, detail := 0
                 committed := done } 0 (4 * bnat done)

/-- Records of `n` HSEQ values from `h` on. -/
def recordsBytes (m : Mailbox) (h : Nat) : Nat → List Byte
  | 0 => []
  | n + 1 => recordBytes m h ++ recordsBytes m ((h + 1) % 2 ^ 32) n

def execReadRecords (r : ReqId) (s : State) : Res :=
  answer s r 1 4 fun _ x => ansOk (prm x 0x24 4) x.snap

end Sys2Proof.Machine
end

