-- ==== Sys2Proof/Machine/LineCode.lean ====
section
/-! DEFINITION. The line code (R490-R492): a Reed-Solomon check over GF(2^8) of a line's data, its address and META. -/

namespace Sys2Proof.Machine

/-- Multiplication by α = 0x02 modulo x^8 + x^4 + x^3 + x^2 + 1 (R490). -/
def xtime (a : Nat) : Nat := if 128 ≤ a then (2 * a) ^^^ 0x11D else 2 * a

/-- The product of two elements, bit by bit of `b`. -/
def gfMulN : Nat → Nat → Nat → Nat
  | 0, _, _ => 0
  | n + 1, a, b => (if b % 2 = 1 then a else 0) ^^^ gfMulN n (xtime a) (b / 2)
def gfMul (a b : Nat) : Nat := gfMulN 8 a b

/-- α^n. -/
def gfPow : Nat → Nat
  | 0 => 1
  | n + 1 => xtime (gfPow n)

/-- A polynomial's value, coefficients from the lowest power. -/
def gfEval (x : Nat) : List Nat → Nat
  | [] => 0
  | c :: t => c ^^^ gfMul x (gfEval x t)

/-- The address symbols 64-69 of a module address (R490). -/
def addrSyms (a : Nat) : List Nat := (leBytes 6 (a / 64 % 2 ^ 42)).map (·.toNat)

/-- VALID copies of a META byte, and POISON. -/
def metaValid (m : Nat) : Bool := bitAt m 0
def metaPoison (m : Nat) : Bool := bitAt m 1

/-- The coefficients of v(x): C0, C1, C2, then positions 0-70 (R491). -/
def codeWord (a : Nat) (data : List Byte) (side : Nat) : List Nat :=
  let m := side % 256
  let d := if bitAt m 0 then (fit data 64).map (·.toNat) else List.replicate 64 0
  [bits side 15 8, bits side 23 16, bits side 31 24] ++ d ++ addrSyms a ++ [m]

/-- S0, S1, S2 of a read (R492). -/
def syndromes (a : Nat) (data : List Byte) (side : Nat) : Nat × Nat × Nat :=
  let v := codeWord a data side
  (gfEval 1 v, gfEval 2 v, gfEval 4 v)

/-- log_α(y / x) for nonzero x and y. -/
def gfLog (x y : Nat) : Nat := ((List.range 255).find? fun p => gfMul (gfPow p) x == y).getD 0

/-- What a read finds (R492); a corrected error by its position of R490. -/
inductive LineOutcome where
  | clean
  | corrected (pos : Nat)
  | address (pos : Nat)
  | uncorrectable
  deriving DecidableEq, Repr

/-- The outcome of a read of the line at address `a`. -/
def lineOutcome (a : Nat) (data : List Byte) (side : Nat) : LineOutcome :=
  let m := side % 256
  let (s0, s1, s2) := syndromes a data side
  if bitAt m 0 != bitAt m 4 then .uncorrectable
  else if s0 == 0 && s1 == 0 && s2 == 0 then .clean
  else if s0 != 0 && s1 != 0 && gfMul s1 s1 == gfMul s0 s2 then
    let p := gfLog s0 s1
    if p ≤ 2 then .corrected (71 + p)
    else if p ≤ 66 then .corrected (p - 3)
    else if p ≤ 72 then .address (p - 3)
    else if p = 73 then .corrected 70
    else .uncorrectable
  else .uncorrectable

/-- META after correction (R492). -/
def correctedMeta (a : Nat) (data : List Byte) (side : Nat) : Nat :=
  match lineOutcome a data side with
  | .corrected 70 => (side % 256) ^^^ (syndromes a data side).1
  | _ => side % 256

/-- The data of a line after correction: zero where VALID is 0. -/
def correctedData (a : Nat) (data : List Byte) (side : Nat) : List Byte :=
  let s0 := (syndromes a data side).1
  match lineOutcome a data side with
  | .corrected 70 => if bitAt ((side % 256) ^^^ s0) 0 then fit data 64 else zeros 64
  | .corrected p =>
    if !bitAt side 0 then zeros 64
    else if p < 64 then modAt (fit data 64) p fun b => b ^^^ BitVec.ofNat 8 s0 else fit data 64
  | _ => if bitAt side 0 then fit data 64 else zeros 64

end Sys2Proof.Machine
end

