-- ==== Sys2Proof/Machine/Store.lean ====
section
/-! DEFINITION. The banks of a cluster store: which port each bank serves in a cycle (R114-R116, R118, R119). -/

namespace Sys2Proof.Machine

/-- P[j]: the port slot `j` of the 64-slot frame belongs to (R115). -/
def portAt (j : Nat) : Port :=
  match j % 8 with
  | 0 => .arr 0
  | 1 => .vu
  | 2 => .arr 1
  | 3 => .dma
  | 4 => .arr 2
  | 5 => .vu
  | 6 => .arr 3
  | _ => if j % 64 = 7 then .nb 0 else if j % 64 = 23 then .nb 1 else if j % 64 = 39 then .nb 2
         else if j % 64 = 55 then .nb 3 else .ca

/-- The module address of a row of cluster `c` (R22, R114). -/
def rowAddr (c : Nat) (x : RowAccess) : Nat :=
  storeBase c + x.seg.val * 0x01000000 + x.row.toNat * 4096 + x.bank.val * 64

/-- The bytes of a masked write that change, one by one. -/
def maskedWrite (s : State) (a : Nat) (mask : Dword) (data : List Byte) : State :=
  if mask == BitVec.allOnes 64 then storeWrite s a (fit data 64)
  else (List.range 64).foldl (fun s i => if mask.getLsbD i then storeWrite s (a + i) (slice data i 1) else s) s

/-- The first access not served yet that port `p` has for a bank of a segment, with its place in the list. -/
def accessFor (l : List (RowAccess × Option (List Byte))) (p : Port) (g : Fin 7) (b : Fin 64) : Option Nat :=
  findIx (fun x => x.2.isNone && x.1.port == p && x.1.seg == g && x.1.bank == b) l

/-- One bank serves its slot's port in cycle `t` (R115, R116): a read takes the row, a write puts the bytes its mask names. An unassigned
segment is not accessible and reads as zero (R123). `look` reads a row. -/
def serveBank (c t : Nat) (look : State → Fin 7 → Fin 64 → Nat → List Byte) (s : State) (gb : Fin 7 × Fin 64) : State :=
  let l := (cluster s c).ports
  match accessFor l (portAt ((t + gb.2.val) % 64)) gb.1 gb.2 with
  | none => s
  | some i =>
    match l[i]? with
    | none => s
    | some (x, _) =>
      let off := segUse s c gb.1.val == 7
      if x.write then
        if off then updClu s c fun k => { k with ports := l.eraseIdx i } else
        maskedWrite (updClu s c fun k => { k with ports := l.eraseIdx i }) (rowAddr c x) x.mask x.data
      else
        updClu s c fun k => { k with ports := modAt l i fun y => (y.1, some (if off then zeros 64 else look s gb.1 gb.2 (rowAddr c x))) }

/-- Served reads at the head of their port's order are returned (R116). -/
def returnReads : List Port → List (RowAccess × Option (List Byte)) →
    List (RowAccess × Option (List Byte)) × List (Port × List Byte)
  | _, [] => ([], [])
  | held, x :: t =>
    match x.2 with
    | some row =>
      if held.contains x.1.port then let r := returnReads held t; (x :: r.1, r.2)
      else let r := returnReads held t; (r.1, (x.1.port, row) :: r.2)
    | none => let r := returnReads (if x.1.write then held else x.1.port :: held) t; (x :: r.1, r.2)

/-- Every bank of every segment of a store. -/
def allBanks : List (Fin 7 × Fin 64) := (List.finRange 7).flatMap fun g => (List.finRange 64).map fun b => (g, b)

/-- Accesses that arrive join their ports' orders (R116, R118). -/
def joinPorts (s : State) (c : Nat) (arrivals : List RowAccess) : State :=
  updClu s c fun k => { k with ports := k.ports ++ arrivals.map fun x => (x, none) }

/-- Every bank serves the port that owns its slot of cycle `t` (R115, R119). -/
def serveBanks (s : State) (c t : Nat) (look : State → Fin 7 → Fin 64 → Nat → List Byte) : State :=
  allBanks.foldl (serveBank c t look) s

/-- The cycle ends: served reads return in order, CLU_CYCLE counts it, and so do the segments being cleared (R126) and the dispatcher (R542). -/
def endCycle (s : State) (c : Nat) : State :=
  updClu s c fun k =>
    let r := returnReads [] k.ports
    { k with
      ports := r.1, reads := k.reads ++ r.2, cycle := k.cycle + 1, dispatched := false
      clearing := (k.clearing.filter fun g => 1 < g.2).map fun g => (g.1, g.2 - 1) }

end Sys2Proof.Machine
end

