-- ==== Sys2Proof/Machine/Ras.lean ====
section
/-! DEFINITION. Scrubbing (R492, R496, R499, R500), the log's rules for errors (R503, R504), and the DIAG opcodes of the log and of repairs
(R505-R508). -/

namespace Sys2Proof.Machine

def updRas (s : State) (f : Ras → Ras) : State := { s with ras := f s.ras }

/-! ### Logging what a scrub finds (R503, R504) -/

/-- The owner of the unit a line lies in. -/
def lineOwner (s : State) (source a : Nat) : Option Nat := match source with
  | 1 => sliceOwner s (sliceOf a)
  | 2 => clusterOwner s ((a - 0x010000000000) / 0x08000000)
  | _ => rootSegOwner s (rootSegOf a)

/-- An entry's COUNT raised by one, with RETIRE_SUGGESTED from the sixteenth event within 24 h on, or where two symbols of the row have failed. -/
def foldEntry (s : State) (seq : Nat) (two : Bool) : State :=
  updRas s fun x =>
    let e := tget [] x.log (seq % 65536)
    let n := fld e 0x14 4 + 1
    let e := setFld e 0x14 4 n
    let e := if two || (16 ≤ n && decide (now s < fld e 8 8 + 86400000000000)) then setFld e 7 1 (fld e 7 1 ||| 16) else e
    { x with log := tput x.log (seq % 65536) e }

/-- EFLAGS of an entry by its requester: SCRUB where the scrubber found it (R502). -/
def scrubFlag (who : Nat) : Nat := if who = 0x40 then 8 else 0

/-- A new CORRECTED entry, which `f` is told the number of, unless 1,000 were made within the last second: the error is then counted alone (R503). -/
def logNewCorrected (s : State) (e : LogRec) (f : Nat → Ras → Ras) : State :=
  let t := now s
  let recent := s.ras.ceTimes.filter fun x => decide (t < x + 1000000000)
  if 1000 ≤ recent.length then updRas s fun x => { x with ceDropped := satInc x.ceDropped, ceTimes := recent }
  else logErr (updRas s fun x => f x.seq.toNat { x with ceTimes := recent ++ [t] }) e

/-- A corrected error of a line, found by requester `who`. -/
def logCorrected (s : State) (source a pos syn who : Nat) : State :=
  let t := now s
  let line := a / 64
  let u := lineUnit source a
  let key := source * 2 ^ 32 + u
  let s := updRas s fun x => match source with
    | 1 => { x with ceDram := satInc x.ceDram }
    | 2 => { x with ceStore := satInc x.ceStore }
    | _ => { x with ceRoot := satInc x.ceRoot }
  let two := s.ras.symSeen.any fun y => y.row == key && y.symbol != pos && decide (t < y.at_ + 86400000000000)
  let s := updRas s fun x => { x with symSeen := x.symSeen.filter (fun y => decide (t < y.at_ + 86400000000000)) ++ [{ row := key, symbol := pos, at_ := t }] }
  match (tfind? s.ras.ceLast line).filter fun x => decide (t < x.1 + 1000000000) with
  | some (_, seq) => foldEntry s seq two
  | none =>
    logNewCorrected s
      { source, severity := 0, part := lineOwner s source a, eflags := scrubFlag who + (if two then 16 else 0), unit := u, address := a
        syndrome := syn, symbol := pos, requester := who }
      fun seq x => { x with ceLast := tput x.ceLast line (t, seq) }

/-- An uncorrectable line: counted, poisoned, logged; one of DRAM raises a critical warning (R492, R496, R505). -/
def logUncorrected (s : State) (source a syn who : Nat) (addr : Option Nat) : State :=
  let s := updRas s fun x => match source with
    | 1 => { x with ueDram := satInc x.ueDram }
    | 2 => { x with ueStore := satInc x.ueStore }
    | _ => { x with ueRoot := satInc x.ueRoot }
  let s := updRas s fun x => { x with addrErr := if addr.isSome then satInc x.addrErr else x.addrErr, poison := tput x.poison (a / 64) true }
  let s := logErr s { source, severity := 1, part := lineOwner s source a, eflags := 4 + scrubFlag who + (if addr.isSome then 2 else 0), address := a
                      syndrome := syn, symbol := addr.getD 0xFF, requester := who }
  if source = 1 then healthWatch s else s

/-- A line read with POISON set is poisoned for every later reader (R492, R496). -/
def notePoison (s : State) (a : Nat) (r : LineRead) : State :=
  if metaPoison (correctedMeta a r.data r.side.toNat) then updRas s fun x => { x with poison := tput x.poison (a / 64) true } else s

/-- What a requester `who` finds in a line it reads (R492); `fix` writes a corrected line back. -/
def checkLine (who : Nat) (s : State) (source a : Nat) (x : Option LineRead) (fix : State → List Byte → State) : State :=
  match x with
  | none => s
  | some r =>
    let side := r.side.toNat
    let (s0, s1, s2) := syndromes a r.data side
    let syn := s0 + 256 * s1 + 65536 * s2
    match lineOutcome a r.data side with
    | .clean => notePoison s a r
    | .corrected p => notePoison (fix (logCorrected s source a p syn who) (correctedData a r.data side)) a r
    | .address p => logUncorrected s source a syn who (some p)
    | .uncorrectable => logUncorrected s source a syn who none

/-! ### The scrubbers (R499, R500) -/

/-- One line scrubbed; `fix` writes a corrected line back. -/
def scrubLine (s : State) (source a : Nat) (x : Option LineRead) (fix : State → List Byte → State) : State :=
  checkLine 0x40 s source a x fix

/-- DRAM_SCRUB: the next line of a home agent, unless a transaction is busy or queued on it. The stored bytes are ciphertext (R81, R491), so a
correction leaves the data the memory holds as it is. -/
def execDramScrub (ch : Fin 32) (x : Option LineRead) (s : State) : Res :=
  let n := tget 0 s.ras.scrubDram ch.val
  let line := ch.val + 32 * (n % 2 ^ 28)
  let d := tget dirReset s.coh.dir line
  if d.txn.isSome || !d.queue.isEmpty then .next s
  else
    let s := updRas s fun r => { r with scrubDram := tput r.scrubDram ch.val (n + 1) }
    let least := (List.range 32).foldl (fun m i => min m (tget 0 s.ras.scrubDram i)) (n + 1)
    let s := updRas s fun r => { r with dramPasses := BitVec.ofNat 32 (least / 2 ^ 28) }
    .next (scrubLine s 1 (line * 64) x fun s _ => s)

/-- A pending write to a row of a store (R500). -/
def rowWritePending (s : State) (c a : Nat) : Bool := (cluster s c).ports.any fun y => y.1.write && rowAddr c y.1 == a

/-- STORE_SCRUB: the next row of a segment, which is scrubbed after the clear while its segment is being cleared; a write-back that another write
has overtaken is dropped and counted. -/
def execStoreScrub (c : Clu) (seg : Fin 7) (x : Option LineRead) (s : State) : Res :=
  if (cluster s c.val).clearing.any fun g => g.1 == seg.val then .next s else
  let k := c.val * 8 + seg.val
  let n := tget 0 s.ras.scrubStore k
  let a := storeBase c.val + seg.val * 0x01000000 + 64 * n
  let s := updRas s fun r => { r with scrubStore := tput r.scrubStore k ((n + 1) % 262144) }
  .next (scrubLine s 2 a x fun s bs =>
    if rowWritePending s c.val a then updRas s fun r => { r with scrubDrop := satInc r.scrubDrop }
    else if mread s.mem a 64 == bs then s else storeWrite s a bs)

/-- ROOT_SCRUB: the next row of the root store. -/
def execRootScrub (x : Option LineRead) (s : State) : Res :=
  let n := s.ras.scrubRoot
  let a := rootBase + 64 * n
  let s := updRas s fun r => { r with scrubRoot := (n + 1) % 8388608 }
  .next (scrubLine s 3 a x fun s bs => if mread s.mem a 64 == bs then s else { s with mem := mwrite s.mem a bs })

/-! ### DIAG (R505-R508) -/

/-- Opcodes of class DIAG beside those of array self-test (R507). -/
def diagOps : List OpSpec := [
  { cls := 9, op := 1, used := [(0x20, 6)], pay := .outOnly, range := rngs [(0x24, 2, 1, 1024)]
    lenOk := fun _ e _ o => decide (64 * fld e 0x24 2 ≤ o)
    lenApplies := fun e => decide (1 ≤ fld e 0x24 2) && decide (fld e 0x24 2 ≤ 1024) },
  { cls := 9, op := 2, used := [(0x20, 5)], pfOnly := true, range := rngs [(0x24, 1, 0, 1)] },
  { cls := 9, op := 3, pay := .outOnly, lenOk := fun _ _ _ o => decide (64 ≤ o) } ]

/-- The entry of a sequence number, if the log still holds it. -/
def logEntry (s : State) (seq : Nat) : Option (List Byte) :=
  if s.ras.seq.toNat ≤ seq || seq + 65536 < s.ras.seq.toNat then none else tfind? s.ras.log (seq % 65536)

/-- An entry as a mailbox sees it, if it does: redacted where it belongs to a sealed partition and the mailbox to the physical function. -/
def seenEntry (s : State) (n : Nat) (e : List Byte) : Option (List Byte) :=
  let p := fld e 6 1
  if ownerOf s n = 0 then
    (if p < 16 && isSealed s p then
      some (overlay (overlay (setFld e 7 1 (fld e 7 1 ||| 1)) 0x10 (zeros 4)) 0x18 (zeros 24))
     else some e)
  else if p = n / 16 then some e else none

/-- LOG_READ. -/
def execLogRead (r : ReqId) (s : State) : Res :=
  answer s r 9 1 fun s x =>
    let first := max (prm x 0x20 4) (s.ras.seq.toNat - 65536)
    let l := ((List.range (s.ras.seq.toNat - first)).filterMap fun i => (logEntry s (first + i)).bind (seenEntry s r.mb.val)).take (prm x 0x24 2)
    ansOk l.length l.flatten

/-- The kind of repair of a source and a scope, its unit, and whether a spare is left (R506). -/
def repairKind (source scope : Nat) : Nat := match source with
  | 1 => 4
  | 2 => scope
  | _ => 2 + scope
def repairUnit (source scope u : Nat) : Nat := if source != 1 && scope = 1 then unitBank source u else u
def spareLeft (s : State) (source scope u : Nat) : Bool :=
  let l := s.ras.repairs.filter fun x => x.kind == repairKind source scope
  match source with
  | 1 => decide (0 < s.ras.dxFree) && !l.any fun x => unitBank 1 x.unit == unitBank 1 u
  | _ =>
    if scope = 1 then !l.any fun x => x.unit % 2 ^ (if source = 2 then 8 else 5) == u % 2 ^ (if source = 2 then 8 else 5)
    else decide ((l.filter fun x => unitBank source x.unit == unitBank source u).length < 4)

/-- RETIRE programs a fuse (R506, R507). -/
def execRetire (r : ReqId) (s : State) : Res :=
  runReq s r 9 2 fun s x =>
    let scope := prm x 0x24 1
    match logEntry s (prm x 0x20 4) with
    | none => finish s r (ansErr 0x0100 0x20)
    | some e =>
      let source := fld e 4 1
      let u := fld e 0x10 4
      if source < 1 || 3 < source then finish s r (ansErr 0x0100 0x20)
      else if scope = 1 && source = 1 then finish s r (ansErr 0x0100 0x24)
      else
        match repairOf s source u with
        | some y => finish s r (ansOk (bnat (!y.inEffect)))
        | none =>
          if !spareLeft s source scope u then finish s r (ansErr 0x0101)
          else
            let y : Repair := { kind := repairKind source scope, unit := repairUnit source scope u, inEffect := false }
            let s := updRas s fun z => { z with repairs := z.repairs ++ [y], dxFree := if source = 1 then z.dxFree - 1 else z.dxFree }
            let s := commit s r
            if source = 2 && (clusterOwner s (u % 32)).isNone then finish (clusterInit s (u % 32)) r (ansOk 0) else finish s r (ansOk 1)

/-- REPAIR_STATUS. -/
def execRepairStatus (r : ReqId) (s : State) : Res :=
  answer s r 9 3 fun s _ =>
    let n (k : Nat) : Nat := (s.ras.repairs.filter fun x => x.kind == k && x.inEffect).length
    ansOk 64 (fit (((List.range 5).flatMap fun k => leBytes 4 (n k)) ++ leBytes 4 (s.ras.repairs.filter fun x => !x.inEffect).length
      ++ leBytes 4 s.ras.dxFree) 64)

end Sys2Proof.Machine
end

