-- ==== Sys2Proof/Machine/Iris.lean ====
section
/-! DEFINITION. Predicate programs of Iris (R327-R331): their checks and the decision on one record. -/

namespace Sys2Proof.Machine

/-! ### Fields of a program (R327) -/

def pTerms (g : List Byte) : Nat := fld g 5 1
def pClauses (g : List Byte) : Nat := fld g 6 1
def pMask (g : List Byte) (c : Nat) : Nat := fld g (8 + 2 * c) 2
def pBloomLen (g : List Byte) : Nat := fld g 0x10 4
def pTerm (g : List Byte) (t : Nat) : List Byte := slice g (0x40 + 32 * t) 32
def pBloom (g : List Byte) : List Byte := g.drop (0x40 + 32 * pTerms g)

def tOff (t : List Byte) : Nat := fld t 0 2
def tWidth (t : List Byte) : Nat := fld t 2 1
def tType (t : List Byte) : Nat := fld t 3 1
def tOp (t : List Byte) : Nat := fld t 4 1
def tNegate (t : List Byte) : Bool := bitAt (fld t 5 1) 0
def tC0 (t : List Byte) : Nat := fld t 8 8
def tC1 (t : List Byte) : Nat := fld t 0x10 8
def tBase (t : List Byte) : Nat := fld t 0x18 4
def tBlog2 (t : List Byte) : Nat := fld t 0x1C 1
def tHashes (t : List Byte) : Nat := fld t 0x1D 1

/-! ### Checks (R328, R331) -/

/-- Widths and operations a type permits (R328). -/
def widthOk (ty w : Nat) : Bool :=
  match ty with
  | 0 | 1 => w == 1 || w == 2 || w == 4 || w == 8
  | 2 => w == 4
  | 3 => w == 2
  | 4 => decide (1 ≤ w) && decide (w ≤ 16)
  | _ => false
def opOk (ty op : Nat) : Bool :=
  match ty with
  | 0 => decide (op ≤ 9)
  | 1 => decide (op ≤ 7)
  | 2 | 3 => decide (op ≤ 6)
  | 4 => decide (op ≤ 5) || op == 7
  | _ => false

/-- The first reserved byte of a term's constants that is nonzero: bytes past a float's bits or a string's width, and C1 of an
operation that does not use it. -/
def constReserved (t : List Byte) : Option Nat :=
  let used : List (Nat × Nat) := match tType t with
    | 4 => [(8, tWidth t)]
    | 2 => (8, 4) :: if tOp t = 6 then [(0x10, 4)] else []
    | 3 => (8, 2) :: if tOp t = 6 then [(0x10, 2)] else []
    | _ => (8, 8) :: if tOp t = 6 then [(0x10, 8)] else []
  firstSet ((enumFrom 8 (slice t 8 16)).filter fun x => !(used.any fun u => decide (u.1 ≤ x.1) && decide (x.1 < u.1 + u.2)))

/-- The offset within a term of its first offending field, for records of `rsize` bytes and a Bloom area of `blen`. -/
def badTerm (rsize blen : Nat) (t : List Byte) : Option Nat :=
  let bloom := tOp t == 7
  if rsize < tOff t + tWidth t then some 0
  else if tType t ≤ 4 && !widthOk (tType t) (tWidth t) then some 2
  else if 4 < tType t then some 3
  else if !opOk (tType t) (tOp t) then some 4
  else if 1 < fld t 5 1 then some 5
  else if !allZero (slice t 6 2) then firstSet (enumFrom 6 (slice t 6 2))
  else
    match constReserved t with
    | some o => some o
    | none =>
      if bloom && (tBase t % 64 != 0 || (decide (tBlog2 t ≤ 20) && decide (blen < tBase t + 2 ^ tBlog2 t / 8))) then some 0x18
      else if !bloom && tBase t != 0 then firstSet (enumFrom 0x18 (slice t 0x18 4))
      else if (if bloom then tBlog2 t < 9 || 20 < tBlog2 t else tBlog2 t != 0) then some 0x1C
      else if (if bloom then tHashes t < 1 || 8 < tHashes t else tHashes t != 0) then some 0x1D
      else firstSet (enumFrom 0x1E (slice t 0x1E 2))

/-- The offset of the first offending clause mask. -/
def badMask (g : List Byte) : Option Nat :=
  ((List.range 4).find? fun c =>
    let m := pMask g c
    if c < pClauses g then m == 0 || decide (2 ^ pTerms g ≤ m) else m != 0).map fun c => 8 + 2 * c

/-- The offset of the first offending field of a program for records of `rsize` bytes (R331); a length that differs from R327 offends at
BLOOM_LEN (log entry 35). -/
def badProgram (g : List Byte) (rsize : Nat) : Option Nat :=
  if fld g 0 4 != 0x5352495A then some 0
  else if fld g 4 1 != 1 then some 4
  else if 16 < pTerms g then some 5
  else if (if pTerms g = 0 then pClauses g != 0 else pClauses g < 1 || 4 < pClauses g) then some 6
  else if fld g 7 1 != 0 then some 7
  else
    match badMask g with
    | some o => some o
    | none =>
      if 131072 < pBloomLen g || g.length != 0x40 + 32 * pTerms g + pBloomLen g then some 0x10
      else
        match firstSet (enumFrom 0x14 (slice g 0x14 0x2C)) with
        | some o => some o
        | none =>
          (List.range (pTerms g)).findSome? fun i => (badTerm rsize (pBloomLen g) (pTerm g i)).map (· + 0x40 + 32 * i)

/-! ### Evaluation (R328-R331) -/

/-- Order of values with -0 equal to +0; false with a NaN (R329). -/
def vLt (a b : FVal) : Bool := !a.isNan && !b.isNan && ltF a b && !(a.isZero && b.isZero)
def vEq (a b : FVal) : Bool := !a.isNan && !b.isNan && !vLt a b && !vLt b a

/-- A comparison by operation code, from "less" and "equal" of the field with C0 and "not less" for the range. -/
def cmpOp (op : Nat) (lt eq gt range : Bool) : Bool :=
  match op with
  | 0 => eq
  | 1 => !eq
  | 2 => lt
  | 3 => lt || eq
  | 4 => gt
  | 5 => gt || eq
  | _ => range

/-- Integers compared. -/
def cmpInt (op : Nat) (v c0 c1 : Int) : Bool :=
  cmpOp op (decide (v < c0)) (v == c0) (decide (c0 < v)) (decide (c0 ≤ v) && decide (v ≤ c1))

/-- Floating-point values compared (R329). -/
def cmpFloat (op : Nat) (v c0 c1 : FVal) : Bool :=
  cmpOp op (vLt v c0) (vEq v c0) (vLt c0 v) ((vLt c0 v || vEq c0 v) && (vLt v c1 || vEq v c1))

/-- Probes of a Bloom filter from probe `j` on (R330). -/
def bloomProbes (h1 h2 base blog2 : Nat) (area : List Byte) (j : Nat) : Nat → Bool
  | 0 => true
  | n + 1 =>
    let b := ((h1 + j * h2) % 2 ^ 32) % 2 ^ blog2
    bitAt (fld area (base + b / 8) 1) (b % 8) && bloomProbes h1 h2 base blog2 area (j + 1) n

/-- The procedure bloom (R330). -/
def bloom (f : List Byte) (base blog2 hashes : Nat) (area : List Byte) : Bool :=
  let h1 := crc32c f
  let h2 := crc32c (f ++ [1]) ||| 1
  bloomProbes h1 h2 base blog2 area 0 hashes

/-- A term's result on a record (R328, R329). -/
def evalTerm (area : List Byte) (t : List Byte) (rec : List Byte) : Bool :=
  let w := tWidth t
  let f := slice rec (tOff t) w
  let v := leNat f
  let res :=
    if tOp t = 7 then bloom f (tBase t) (tBlog2 t) (tHashes t) area
    else if tOp t = 8 then (v &&& tC0 t) != 0
    else if tOp t = 9 then (v &&& tC0 t) == tC0 t
    else
      match tType t with
      | 0 => cmpInt (tOp t) v (tC0 t) (tC1 t)
      | 1 => cmpInt (tOp t) (signed (8 * w) v) (signed 64 (tC0 t)) (signed 64 (tC1 t))
      | 2 => cmpFloat (tOp t) (fpValue fpFP32 v) (fpValue fpFP32 (tC0 t % 2 ^ 32)) (fpValue fpFP32 (tC1 t % 2 ^ 32))
      | 3 => cmpFloat (tOp t) (fpValue fpBF16 v) (fpValue fpBF16 (tC0 t % 2 ^ 16)) (fpValue fpBF16 (tC1 t % 2 ^ 16))
      | _ =>
        let be (x : List Byte) : Int := leNat x.reverse
        cmpInt (tOp t) (be f) (be (slice t 8 w)) (be (slice t 8 w))
  res != tNegate t

/-- A record passes a program (R331). -/
def passes (g rec : List Byte) : Bool :=
  let n := pTerms g
  n == 0 || ((List.range (pClauses g)).any fun c =>
    (List.range n).all fun t => !bitAt (pMask g c) t || evalTerm (pBloom g) (pTerm g t) rec)

end Sys2Proof.Machine
end

