-- ==== Sys2Proof/Machine/Aster.lean ====
section
/-! DEFINITION. Scores, lists and codes of Aster (R335-R342), and the order of candidates (R341). -/

namespace Sys2Proof.Machine

/-! ### The index descriptor (R335) -/

def iL2 (d : List Byte) : Bool := fld d 5 1 == 1
def iNlist (d : List Byte) : Nat := 2 ^ fld d 6 1
def iSubq (d : List Byte) : Nat := fld d 7 1
def iDim (d : List Byte) : Nat := fld d 8 2
def iSub (d : List Byte) : Nat := iDim d / iSubq d
def iAsize (d : List Byte) : Nat := fld d 0x0A 2
def iKeep (d : List Byte) : Bool := bitAt (fld d 0x0C 1) 0
def iMax (d : List Byte) : Nat := fld d 0x10 8
def iT1Base (d : List Byte) : Nat := fld d 0x18 8
def iT1Len (d : List Byte) : Nat := fld d 0x20 8

/-- RSIZE: the smallest power of two, at least 64, not below SUBQ + 8 + ASIZE (R338). -/
def iRsize (d : List Byte) : Nat :=
  ((List.range 9).map fun i => 2 ^ (i + 6)).find? (fun r => decide (iSubq d + 8 + iAsize d ≤ r)) |>.getD 16384

/-- Bytes of a model (R336) and least sizes of the extent and the T1 area (R337). -/
def modelBytes (d : List Byte) : Nat := 2 * iDim d * (iNlist d + 256)
def extentNeed (d : List Byte) : Nat :=
  2 * iMax d * iRsize d + bnat (iKeep d) * iMax d * 2 * iDim d + iNlist d * 16384 + 2 ^ 30
def t1Need (d : List Byte) : Nat := iNlist d * (2 * iDim d + 8) + 8 * iMax d + 2 ^ 30

/-- The offset at which a descriptor breaks R335. -/
def badIndexDesc (d : List Byte) : Option Nat :=
  if fld d 0 4 != 0x5844495A then some 0
  else if fld d 4 1 != 1 then some 4
  else if 1 < fld d 5 1 then some 5
  else if fld d 6 1 < 8 || 22 < fld d 6 1 then some 6
  else if iSubq d < 1 || 128 < iSubq d then some 7
  else if iDim d % iSubq d != 0 || iSub d < 1 || 32 < iSub d then some 8
  else if 16376 - iSubq d < iAsize d then some 0x0A
  else if 1 < fld d 0x0C 1 then some 0x0C
  else if 3 < fld d 0x0D 1 then some 0x0D
  else if !allZero (slice d 0x0E 2) then firstSet (enumFrom 0x0E (slice d 0x0E 2))
  else if iMax d < 1 || 2 ^ 40 < iMax d then some 0x10
  else if iT1Base d % 65536 != 0 then some 0x18
  else firstSet (enumFrom 0x2C (slice d 0x2C 20))

/-! ### Scores (R340) -/

/-- The values of `n` BF16 elements of a byte list. -/
def bf16s (bs : List Byte) : Nat → List FVal
  | 0 => []
  | n + 1 => fpValue fpBF16 (leNat (bs.take 2)) :: bf16s (bs.drop 2) n

/-- A value is finite. -/
def isFinite : FVal → Bool
  | .fin _ _ _ => true
  | _ => false

/-- dot(u, v) of R340. -/
def dotV (u v : List FVal) : FVal := (dot false false 1 none (List.replicate (u.length / 32 + 1) 0) (u.zip v)).1

/-- s(u, v) under a metric. -/
def scoreV (l2 : Bool) (u v : List FVal) : FVal :=
  if l2 then (fmaF (.fin false 1 1) (dotV u v) (dotV v v).negate).1 else dotV u v

/-- Score `a` comes before `b`: greater, NaN below every other value (R341). -/
def scoreGt (a b : FVal) : Bool := !a.isNan && (b.isNan || vLt b a)

/-- The index of the greatest score, the lowest among equals. -/
def bestOf (f : Nat → FVal) : Nat → Nat
  | 0 => 0
  | n + 1 =>
    let i := bestOf f n
    if scoreGt (f n) (f i) then n else i

/-- Centroid of a list, and entry `c` of subspace `k`'s codebook (R336). -/
def centroid (d model : List Byte) (l : Nat) : List FVal := bf16s (slice model (2 * iDim d * l) (2 * iDim d)) (iDim d)
def codeEntry (d model : List Byte) (k c : Nat) : List FVal :=
  bf16s (slice model (2 * iDim d * iNlist d + 2 * iSub d * (256 * k + c)) (2 * iSub d)) (iSub d)

/-- Dimensions of subspace `k`. -/
def subVec (d : List Byte) (x : List FVal) (k : Nat) : List FVal := (x.drop (k * iSub d)).take (iSub d)

/-- The list of a vector and its code. -/
def listOf (d model : List Byte) (x : List FVal) : Nat := bestOf (fun l => scoreV (iL2 d) x (centroid d model l)) (iNlist d)
def codeOf (d model : List Byte) (x : List FVal) : List Byte :=
  (List.range (iSubq d)).map fun k => BitVec.ofNat 8 (bestOf (fun c => scoreV true (subVec d x k) (codeEntry d model k c)) 256)

/-- LUT k of a query at entry `c`: the score rounded to BF16. -/
def lutAt (d model : List Byte) (q : List FVal) (k c : Nat) : FVal :=
  fpValue fpBF16 (fpWrite fpBF16 false (scoreV (iL2 d) (subVec d q k) (codeEntry d model k c))).1

/-- The PQ score of a code. -/
def pqScore (d model : List Byte) (q : List FVal) (code : List Byte) : FVal :=
  dotV ((List.range (iSubq d)).map fun k => lutAt d model q k (fld code k 1)) (List.replicate (iSubq d) (.fin false 1 0))

/-! ### Order (R341) -/

/-- A candidate: its score, its number (an ID, or a list), and the list it lies in. -/
structure Cand where
  score : FVal
  id : Nat
  list : Nat
  vec : List Byte := []

/-- A candidate put into an ordered list. -/
def putCand (x : Cand) : List Cand → List Cand
  | [] => [x]
  | y :: t => if scoreGt x.score y.score || (!scoreGt y.score x.score && decide (x.id < y.id)) then x :: y :: t else y :: putCand x t

/-- Candidates in the order of R341. -/
def sortCands (l : List Cand) : List Cand := l.foldl (fun a x => putCand x a) []

/-- Every list in the order of its coarse score. -/
def coarseOrder (d model : List Byte) (q : List FVal) : List Nat :=
  (sortCands ((List.range (iNlist d)).map fun l => { score := scoreV (iL2 d) q (centroid d model l), id := l, list := l })).map (·.list)

end Sys2Proof.Machine
end

