-- ==== Sys2Proof/Machine/Search.lean ====
section
/-! DEFINITION. The SEARCH class (R324, R332-R356): SCAN over a table, and Aster's indexes. -/

namespace Sys2Proof.Machine

/-! ### Opcodes (R355) -/

def searchOps : List OpSpec := [
  { cls := 6, op := 1, used := [(0x20, 30)], bitsRes := [(0x25, 0xFC)], pay := .list, lenOk := fun _ _ _ o => decide (64 ≤ o), b := fun _ _ => 5000
    onAccept := fun s r x => if (nsIn s (reqPart r) (prm x 0x20 4)).isSome then pinNs s r (prm x 0x20 4) else s
    range := fun _ e =>
      let r := 2 ^ fld e 0x24 1
      if fld e 0x24 1 < 6 || 14 < fld e 0x24 1 then some (0x0018, 0x24)
      else if r - 8 < fld e 0x26 2 then some (0x0018, 0x26)
      else if 16384 / r ≤ fld e 0x3C 2 then some (0x0018, 0x3C) else none },
  { cls := 6, op := 2, used := [(0x20, 4), (0x28, 16)], pay := .inOnly, lenOk := fun _ _ i _ => i == 64, b := fun _ _ => 5000 },
  { cls := 6, op := 3, used := [(0x20, 4)] },
  { cls := 6, op := 4, used := [(0x20, 8)], pay := .optIn, lenOk := fun _ e i _ => (fld e 0x24 4 == 0) == (i != 0), b := fun _ _ => 5000 },
  { cls := 6, op := 5, used := [(0x20, 4)], pay := .inOnly, b := fun _ _ => 5000
    lenOk := fun _ _ i _ => i % 8 == 0 && decide (8 ≤ i) && decide (i ≤ 8 * 65536) },
  { cls := 6, op := 6, used := [(0x20, 4)], b := fun _ _ => 5000 },
  { cls := 6, op := 7, used := [(0x20, 22)], bitsRes := [(0x2B, 0xFC)], pay := .list, b := fun _ _ => 5000
    lenOk := fun _ e _ o => decide (fld e 0x2A 1 * (64 + 16 * fld e 0x28 2) ≤ o)
    lenApplies := fun e => decide (1 ≤ fld e 0x28 2) && decide (fld e 0x28 2 ≤ 4096) && decide (1 ≤ fld e 0x2A 1) && decide (fld e 0x2A 1 ≤ 128)
    range := fun _ e =>
      let k := fld e 0x28 2
      let wide := bitAt (fld e 0x2B 1) 0
      let rr := fld e 0x34 2
      if k < 1 || 4096 < k then some (0x0018, 0x28)
      else if fld e 0x2A 1 < 1 || 128 < fld e 0x2A 1 then some (0x0018, 0x2A)
      else if bitAt (fld e 0x2B 1) 1 && (wide || rr != 0) then some (0x0018, 0x2B)
      else if fld e 0x2C 4 < 1 then some (0x0018, 0x2C)
      else if (if wide then fld e 0x30 4 < fld e 0x2C 4 else fld e 0x30 4 != 0) then some (0x0018, 0x30)
      else if rr != 0 && (decide (rr < k) || decide (16384 < rr)) then some (0x0018, 0x34) else none },
  { cls := 6, op := 8, used := [(0x20, 4)], b := fun _ _ => 5000 },
  { cls := 6, op := 9, used := [(0x20, 4)], pay := .outOnly, lenOk := fun _ _ _ o => decide (64 ≤ o) } ]

/-- The flash channel of a page address, four to a die group. -/
def channelOf (a : Nat) : Nat := 4 * aGroup a + aDie a / 9

/-- The flash channel a unit is read on for a request: that of its base page, or of its first fragment where nothing lies under it; none where it is
not mapped (R324; log entry 33). -/
def unitChannel (s : State) (r : ReqId) (ns u : Nat) : Option Nat :=
  let k := pinnedRec s r ns u
  if bits k.base 39 38 != 0 then some (channelOf k.base)
  else ((k.frags.zip (List.range 4)).find? fun x => bitAt k.mask x.2 && x.1 != 0).map fun x => channelOf (fragPage x.1)

/-- Records evaluated and passed on a channel (R357). -/
def countIris (s : State) (c n m : Nat) : State :=
  { s with srch := { s.srch with chans := tmod irisChanReset s.srch.chans c fun x => { x with records := x.records + n, passed := x.passed + m } } }

/-! ### Program places (R325) -/

def searchRun (s : State) (r : ReqId) : Option SearchRun := s.srch.runs.find? fun y => y.req == r
def setSearchRun (s : State) (y : SearchRun) : State :=
  { s with srch := { s.srch with runs := s.srch.runs.filter (fun z => z.req != y.req) ++ [y] } }

/-- Programs loaded on a channel's Iris unit, which holds at most 4. -/
def programsOn (s : State) (c : Nat) : Nat := (s.srch.runs.filter fun y => y.loaded && y.chans.contains c).length

/-- A request takes a program place on every channel it reads, or waits for one: a wait is counted once on each channel that has none free. -/
def loadProgram (s : State) (y : SearchRun) : State :=
  let full := y.chans.filter fun c => decide (4 ≤ programsOn s c)
  if full.isEmpty then setSearchRun s { y with loaded := true }
  else
    let s := setSearchRun s { y with waited := true }
    if y.waited then s
    else { s with srch := { s.srch with chans := full.foldl (fun t c => tmod irisChanReset t c fun x => { x with waits := satInc x.waits }) s.srch.chans } }

/-- Requests that have completed hold no place and no pin. -/
def sweepSearch (s : State) : State :=
  dropPins { s with srch := { s.srch with runs := s.srch.runs.filter fun y => (findExec s y.req).isSome } }

/-! ### SCAN (R332-R334) -/

/-- A scan as it proceeds. -/
structure Scan where
  next : Nat
  scanned : Nat
  passed : Nat
  written : List (List Byte)
  full : Bool

/-- Records of one unit evaluated in order until the output is full (R334). -/
def scanUnit (g unit : List Byte) (rsize stop cap : Nat) (proj : Option Nat) : Nat → Scan → Scan
  | 0, x => x
  | n + 1, x =>
    if stop ≤ x.next then x
    else if cap ≤ x.written.length then { x with full := true }
    else
      let rec_ := slice unit (x.next * rsize % 16384) rsize
      let ok := passes g rec_
      let y : Scan :=
        { x with next := x.next + 1, scanned := x.scanned + 1, passed := x.passed + bnat ok
                 written := if ok then x.written ++ [match proj with
                   | some o => slice rec_ o 8
                   | none => rec_] else x.written }
      if (y.next * rsize) % 16384 = 0 then y else scanUnit g unit rsize stop cap proj n y

/-- Units from the one that holds the next record on; stops before the unit `bad` (R334). -/
def scanUnits (r : ReqId) (g : List Byte) (ns slba rsize stop cap : Nat) (proj : Option Nat) (bad : Option Nat) :
    Nat → State × Scan → State × Scan × Bool
  | 0, (s, x) => (s, x, false)
  | n + 1, (s, x) =>
    let u := x.next * rsize / 16384
    if stop ≤ x.next || x.full then (s, x, false)
    else if cap ≤ x.written.length then (s, { x with full := true }, false)
    else if bad == some u then (s, x, true)
    else
      let y := scanUnit g (pinnedRead s r ns (slba + 4 * u) 4) rsize stop cap proj (16384 / rsize) x
      let s := match unitChannel s r ns (slba / 4 + u) with
        | some c => countIris s c (y.scanned - x.scanned) (y.passed - x.passed)
        | none => s
      scanUnits r g ns slba rsize stop cap proj bad n (s, y)

/-- The header of a scan (R333). -/
def scanHeader (x : Scan) (epoch : Nat) : List Byte :=
  fit (leBytes 8 x.scanned ++ leBytes 8 x.passed ++ leBytes 8 x.written.length ++ leBytes 8 x.next ++ leBytes 4 epoch ++ leBytes 1 (bnat x.full)) 64

/-- A MAPPED object of the partition that may be written (R263, R333). -/
def destObj (s : State) (p h : Nat) : Option Obj :=
  match objOf s h with
  | some o => if oPart (objKey h) == p && oMapped o && !oReadOnly o then some o else none
  | none => none

/-- A request uses an object it may write; its handle stands at parameter offset `off`. One whose DRAM has left the partition is an address fault (R79,
R498). -/
def withDest (s : State) (r : ReqId) (h off : Nat) (f : Obj → State) : State :=
  match destObj s (reqPart r) h, lostMapped s h with
  | none, _ => finish s r (ansErr 0x010B off)
  | some _, some a => addrError s r a
  | some o, none => f o

/-- The parameter offset at which the table of a scan leaves the partition or its namespace (R332). -/
def badTable (s : State) (p ns slba recs rsize : Nat) : Option Nat :=
  match nsIn s p ns with
  | none => some 0x20
  | some k => if slba % 4 != 0 then some 0x28 else if k.blocks < slba + 4 * ceilDiv (recs * rsize) 16384 then some 0x30 else none

/-- A SCAN begins: it is checked, and its program is loaded on the channels of its units. -/
def beginScan (s : State) (r : ReqId) (x : Exec) : State :=
  let ns := prm x 0x20 4
  let rsize := 2 ^ prm x 0x24 1
  let slba := prm x 0x28 8
  let skip := prm x 0x3C 2
  let stop := skip + prm x 0x30 8
  let go (s : State) : State :=
    withIn s r x fun s g =>
      match badProgram g rsize with
      | some d => finish s r (ansErr 0x0100 d)
      | none =>
        let us := (List.range (ceilDiv (stop * rsize) 16384)).drop (skip * rsize / 16384)
        let chans := (us.filterMap fun u => unitChannel s r ns (slba / 4 + u)).eraseDups
        loadProgram s { req := r, key := 0, epoch := 0, payload := g, chans, loaded := false, waited := false }
  match badTable s (reqPart r) ns slba stop rsize with
  | some d => finish s r (ansErr 0x0101 d)
  | none => if bitAt (prm x 0x25 1) 1 then withDest s r (prm x 0x38 4) 0x38 fun _ => go s else go s

/-- A SCAN whose program `g` is loaded evaluates its records and completes; `bad` is the first unit of the table, counted from SLBA, that is
uncorrectable. -/
def runScan (s : State) (r : ReqId) (x : Exec) (bad : Option Nat) (g : List Byte) : State :=
  let ns := prm x 0x20 4
  let rsize := 2 ^ prm x 0x24 1
  let slba := prm x 0x28 8
  let skip := prm x 0x3C 2
  let stop := skip + prm x 0x30 8
  let proj := if bitAt (prm x 0x25 1) 0 then some (prm x 0x26 2) else none
  let go (s : State) (dest : Option Obj) : State :=
    let room := match dest with
      | some o => objChunks o * 65536
      | none => outRoom s x - 64
    let epoch := ((pinOf s r ns).map (·.epoch.toNat)).getD 0
    let (s, y, failed) := scanUnits r g ns slba rsize stop (room / (if proj.isSome then 8 else rsize)) proj bad
      (stop * rsize / 16384 + 1) (s, { next := skip, scanned := 0, passed := 0, written := [], full := false })
    let body := y.written.flatten
    let s := match dest with
      | some o => ncWrite s o.daddr body
      | none => s
    let u := y.next * rsize / 16384
    let out := scanHeader (if failed then { y with next := u * (16384 / rsize) } else y) epoch ++ (if dest.isSome then [] else body)
    if failed then
      finish (noteRead s ns (slba / 4 + u) .uncorrectable).1 r { status := 0x000A, detail := nextSeqLow s, result := y.passed, out }
    else finish s r { status := bnat y.full, detail := 0, result := y.passed, out }
  if bitAt (prm x 0x25 1) 1 then withDest s r (prm x 0x38 4) 0x38 fun o => go s (some o) else go s none

/-- SCAN: the first row checks it and loads its program; once that has a place on every channel, the next evaluates the records and completes it (R325,
R332-R334; log entry 61). -/
def execScan (r : ReqId) (bad : Option Nat) (s : State) : Res :=
  runReq s r 6 1 fun s x => sweepSearch (match searchRun s r with
    | none => beginScan s r x
    | some y => if y.loaded then runScan s r x bad y.payload else loadProgram s y)

/-! ### Indexes (R335-R339) -/

/-- An index's key from its handle, its handle, and the index of a request's partition. -/
def indexHandle (key : Nat) (x : Index) : Nat := key + x.gen * 2 ^ 20
def indexOf (s : State) (p h : Nat) : Option Index :=
  match tfind? s.srch.indexes (objKey h) with
  | some x => if indexHandle (objKey h) x == h && oPart (objKey h) == p then some x else none
  | none => none
def updIndex (s : State) (key : Nat) (f : Index → Index) : State :=
  match tfind? s.srch.indexes key with
  | some x => { s with srch := { s.srch with indexes := tput s.srch.indexes key (f x) } }
  | none => s
def updAst (s : State) (p : Nat) (f : AstPart → AstPart) : State :=
  { s with srch := { s.srch with parts := tmod astPartReset s.srch.parts p f } }
def astPart (s : State) (p : Nat) : AstPart := tget astPartReset s.srch.parts p

/-- Indexes of a partition. -/
def indexesOf (s : State) (p : Nat) : Tbl Index := s.srch.indexes.filter fun x => oPart x.1 == p

/-- A partition owns a cluster (R339). -/
def ownsCluster (s : State) (p : Nat) : Bool := isActive s p && (prec s p).clusters != 0

/-- Aster's work for an index runs as a job of the partition at priority QPRIO (R339): it starts only where the scheduler could place a context, in a slot
that is empty or whose job has lower priority and is not PINNED, on a cluster of the partition (log entry 129). -/
def asterPlaced (s : State) (p : Nat) (k : Index) : Bool :=
  (List.range 32).any fun c => (prec s p).clusters.getLsbD c && (List.range 4).any fun i =>
    match slotJob s c i with
    | none => true
    | some j => decide (jPriority j < fld k.desc 0x0D 1) && !jPinned j

/-- A request on an index passes the index lock in order of acceptance (R346). -/
def withIndex (s : State) (r : ReqId) (x : Exec) (f : Nat → Index → State) : State :=
  let h := prm x 0x20 4
  if earlierWaiting s r x fun y => entCls y.entry == 6 && decide (3 ≤ entOp y.entry) && prm y 0x20 4 == h then notYet s r
  else match indexOf s (reqPart r) h with
    | none => finish s r (ansErr 0x0004)
    | some k => if ownsCluster s (reqPart r) then f (objKey h) k else finish s r (ansErr 0x0109)

/-- The parameter or descriptor offset at which an index's extent or T1 area breaks R337. -/
def badHomes (s : State) (p ns slba n : Nat) (d : List Byte) : Option Nat :=
  match nsIn s p ns with
  | none => some 0x20
  | some k =>
    if slba % 4 != 0 || claimed s ns slba n then some 0x28
    else if k.blocks < slba + n || n * 4096 < extentNeed d then some 0x30
    else if !slicesOwned s p (iT1Base d) (iT1Len d)
        || hitsAny (iT1Base d) (iT1Len d) (poolRange s p :: mappedRanges s ++ jobRanges s p ++ runRanges s p ++ indexRanges s p) then some 0x18
    else if iT1Len d < t1Need d then some 0x20 else none

/-- The model object of a descriptor, if it is suitable (R336). -/
def modelObj (s : State) (p : Nat) (d : List Byte) : Option Obj :=
  let h := fld d 0x28 4
  match objOf s h with
  | some o => if oPart (objKey h) == p && oMapped o && oReadOnly o && decide (modelBytes d ≤ objChunks o * 65536) then some o else none
  | none => none

/-- The model an index is created from, if its values are finite. -/
def modelFor (s : State) (d : List Byte) (o : Obj) : Option (List Byte) :=
  let bs := mread s.mem o.daddr (modelBytes d)
  if (bf16s bs (modelBytes d / 2)).all isFinite then some bs else none

/-- Bytes that Aster keeps for an index, at places of its own choosing: `f` in the extent, `m` in the T1 area. What they hold is free; none while flash
has no page free (R337; log entry 130). -/
def storeIndex (s : State) (k : Index) (f m : Nat) : Option State :=
  let n := ceilDiv f 4096
  (ftlWrite s k.nsid (k.slba + (freeVal s).toNat % (k.nblocks - n + 1)) (freeBytes s.free (n * 4096))).map fun s =>
    let s := drawn s
    let m := min m (iT1Len k.desc)
    drawn (ncWrite s (iT1Base k.desc + (freeVal s).toNat % (iT1Len k.desc - m + 1)) (freeBytes s.free m))

/-- CREATE. -/
def execSearchCreate (r : ReqId) (s : State) : Res :=
  runReq s r 6 2 fun s x =>
    let p := reqPart r
    let ns := prm x 0x20 4
    let slba := prm x 0x28 8
    let n := prm x 0x30 8
    if !ownsCluster s p then finish s r (ansErr 0x0109)
    else
      withIn s r x fun s d =>
        match badIndexDesc d with
        | some o => finish s r (ansErr 0x0102 o)
        | none =>
          match modelObj s p d, lostMapped s (fld d 0x28 4) with
          | none, _ => finish s r (ansErr 0x0103)
          | some _, some a => addrError s r a
          | some o, none =>
            let s := ncRead s o.daddr (modelBytes d)
            match poisonedLine s o.daddr (modelBytes d), modelFor s d o with
            | some a, _ => mediaError s r a
            | none, none => finish s r (ansErr 0x0103)
            | none, some model =>
              match badHomes s p ns slba n d with
              | some o => finish s r (ansErr 0x0101 o)
              | none =>
                if 16 ≤ (indexesOf s p).length then finish s r (ansErr 0x010C)
                else
                  let i := ((List.range 17).find? fun i => (tfind? s.srch.indexes (p * 65536 + i)).isNone).getD 0
                  let key := p * 65536 + i
                  let g := tget 0 s.srch.gens key
                  let gen := if g = 4095 then 1 else g + 1
                  let k : Index :=
                    { gen, desc := d, nsid := ns, slba, nblocks := n, model, epoch := 1, recs := [], dels := [], merging := none, held := [] }
                  match storeIndex s k 64 (iNlist d * (2 * iDim d + 8)) with
                  | none => s
                  | some s =>
                    let s := { s with srch := { s.srch with indexes := tput s.srch.indexes key k, gens := tput s.srch.gens key gen } }
                    finish (commit (addClaim s { nsid := ns, lba := slba, len := n, kind := 3, key }) r) r (ansOk (indexHandle key k))

/-- A QUERY of an index executes (R348). -/
def queried (s : State) (key : Nat) : Bool :=
  s.srch.runs.any fun y => y.key == key && (findExec s y.req).any fun x => entCls x.entry == 6 && entOp x.entry == 7

/-- DROP (R348). -/
def execDrop (r : ReqId) (s : State) : Res :=
  runReq s r 6 3 fun s x =>
    withIndex s r x fun key k =>
      if k.merging.isSome || queried s key then finish s r (ansErr 0x0106)
      else
        let s := dropClaims { s with srch := { s.srch with indexes := tdel s.srch.indexes key } } 3 key
        finish (commit s r) r (ansOk 0)

/-! ### Changes (R342-R348) -/

/-- A record is present at an epoch. -/
def presentAt (e : Nat) (v : VecRec) : Bool := decide (v.born ≤ e) && (match v.died with
  | some d => decide (e < d)
  | none => true)

/-- A record will be present at the next commit. -/
def pendingLive (v : VecRec) : Bool := v.died.isNone

/-- Side area used, and its size (R345). -/
def sideUsed (k : Index) : Nat := (k.recs.filter (·.side)).length * (iRsize k.desc + 16) + k.dels.length * 16
def sideSize : Nat := 2 ^ 30

/-- A merge (R348): deleted and replaced records of epochs up to `e` are dropped, side entries up to it join their lists, and the lists it rewrites are
no longer those kept in T1. A dropped record stays in EXCLUDED, and for an epoch that an executing QUERY pins (R347, R352; log entry 36). -/
def mergeIndex (e : Nat) (k : Index) : Index :=
  let gone (v : VecRec) : Bool := v.died.any fun d => decide (d ≤ e)
  let touched (l : Nat) : Bool := k.recs.any fun v => v.list == l && !v.dropped && (v.side && decide (v.born ≤ e) || gone v)
  { k with
    merging := none
    dels := k.dels.filter fun d => decide (e < d.epoch)
    recs := k.recs.map fun v => { v with side := v.side && decide (e < v.born) && !gone v, dropped := v.dropped || gone v }
    held := k.held.filter fun l => !touched l.1 }

/-- Side entries a merge up to `e` takes in. -/
def mergeable (e : Nat) (k : Index) : Nat := (k.recs.filter fun v => v.side && decide (v.born ≤ e)).length

/-- List pages of an index (R337). -/
def listSize (k : Index) (l : Nat) : Nat :=
  ceilDiv ((k.recs.filter fun v => !v.side && !v.dropped && v.list == l).length * iRsize k.desc) 16384
def listPages (k : Index) : Nat := natSum ((((k.recs.filter fun v => !v.side).map (·.list)).eraseDups).map (listSize k))

/-- A completed merge: the new lists are written, and it is counted (R357); none while flash has no page free. -/
def finishMerge (s : State) (key e : Nat) : Option State :=
  match tfind? s.srch.indexes key with
  | none => some s
  | some k =>
    let k' := mergeIndex e k
    (storeIndex s k (listPages k' * 16384) (8 * k'.recs.length)).map fun s =>
      updAst (updIndex s key fun _ => k') (oPart key) fun a => { a with merges := satInc a.merges }

/-- Aster merges by itself when the side area has passed half full and holds something a merge takes in (R345; log entry 36). -/
def autoMerge (s : State) (key : Nat) : State :=
  match tfind? s.srch.indexes key with
  | none => s
  | some k =>
    let e := k.epoch.toNat
    let n := mergeable e k + (k.dels.filter fun d => decide (d.epoch ≤ e)).length
    if k.merging.isNone && decide (sideSize < 2 * sideUsed k) && n != 0 then (finishMerge s key e).getD s else s

/-- Bytes of an entry of an insert batch (R342). -/
def insertEntry (d : List Byte) : Nat := ceilDiv (8 + iAsize d + 2 * iDim d) 64 * 64

/-- The offset at which the header of a batch breaks R342 (log entry 36). -/
def badBatch (b : List Byte) : Option Nat :=
  if fld b 0 4 != 0x534E495A then some 0
  else if fld b 4 1 != 1 then some 4
  else if !allZero (slice b 5 3) then firstSet (enumFrom 5 (slice b 5 3))
  else if fld b 8 4 < 1 || 65536 < fld b 8 4 then some 8
  else firstSet (enumFrom 0x0C (slice b 0x0C 0x34))

/-- The entries of a batch: ID, attributes, vector. -/
def batchEntries (d b : List Byte) : List (Nat × List Byte × List Byte) :=
  (List.range (fld b 8 4)).map fun i =>
    let e := slice b (0x40 + i * insertEntry d) (insertEntry d)
    (fld e 0 8, slice e 8 (iAsize d), slice e (8 + iAsize d) (2 * iDim d))

/-- An entry holds the reserved ID or a value that is not finite. -/
def badVector (d : List Byte) (e : Nat × List Byte × List Byte) : Bool := e.1 == 2 ^ 64 - 1 || !((bf16s e.2.2 (iDim d)).all isFinite)

/-- A record that stops being present at an epoch, if its ID is `id` and it is present till then. -/
def killId (id e : Nat) (l : List VecRec) : List VecRec := l.map fun v => if v.id == id && pendingLive v then { v with died := some e } else v

/-- One entry inserted: it replaces an earlier vector of its ID at the next commit (R343). -/
def insertOne (k : Index) (e : Nat × List Byte × List Byte) : Index :=
  let x := bf16s e.2.2 (iDim k.desc)
  let n := k.epoch.toNat + 1
  let v : VecRec :=
    { id := e.1, code := codeOf k.desc k.model x, attrs := e.2.1, list := listOf k.desc k.model x, vec := if iKeep k.desc then e.2.2 else []
      born := n, died := none, side := true, dropped := false }
  { k with recs := killId e.1 n k.recs ++ [v] }

/-- Vectors present at the next commit. -/
def pendingCount (k : Index) : Nat := (k.recs.filter pendingLive).length

/-- The batch of an INSERT with entries of `size` bytes, from the payload or from an object. -/
def withBatch (s : State) (r : ReqId) (x : Exec) (size : Nat) (f : State → List Byte → State) : State :=
  let h := prm x 0x24 4
  if h = 0 then withIn s r x f
  else
    withDest s r h 0x24 fun o =>
      let n := objChunks o * 65536
      let s := ncRead s o.daddr n
      let b := mread s.mem o.daddr n
      -- the batch is as long as its header says, as far as the object reaches
      match poisonedLine s o.daddr (min n (0x40 + fld b 8 4 * size)) with
      | some a => mediaError s r a
      | none => f s b

/-- INSERT (R342-R345). -/
def execInsert (r : ReqId) (s : State) : Res :=
  runReq s r 6 4 fun s x =>
    withIndex s r x fun key k =>
      if !asterPlaced s (reqPart r) k then notYet s r
      else withBatch s r x (insertEntry k.desc) fun s b =>
        let es := batchEntries k.desc b
        let need := 0x40 + fld b 8 4 * insertEntry k.desc
        match badBatch b with
        | some o => finish s r (ansErr 0x0018 o)
        | none =>
          if prm x 0x24 4 = 0 && b.length != need then finish s r (ansErr 0x0008)
          else if b.length < need then finish s r (ansErr 0x010B 0x24)
          else
            match findIx (badVector k.desc) es with
            | some i => finish s r (ansErr 0x0104 (i % 65536))
            | none =>
              let k' := es.foldl insertOne k
              if iMax k.desc < pendingCount k' then finish s r (ansErr 0x0108)
              else if sideSize < sideUsed k' then finish s r (ansErr 0x0107)
              else
                match storeIndex s k need (es.length * (iRsize k.desc + 16)) with
                | none => s
                | some s => finish (commit (autoMerge (updIndex s key fun _ => k') key) r) r (ansOk es.length)

/-- One identifier deleted: present ones are counted (R344). -/
def deleteOne (kn : Index × Nat) (id : Nat) : Index × Nat :=
  let (k, n) := kn
  if k.recs.any fun v => v.id == id && pendingLive v then
    let e := k.epoch.toNat + 1
    ({ k with recs := killId id e k.recs, dels := k.dels ++ [{ id, epoch := e }] }, n + 1)
  else (k, n)

/-- DELETE (R344, R345). -/
def execSearchDelete (r : ReqId) (s : State) : Res :=
  runReq s r 6 5 fun s x =>
    withIndex s r x fun key k =>
      withIn s r x fun s b =>
        let (k', n) := ((List.range (b.length / 8)).map fun i => fld b (8 * i) 8).foldl deleteOne (k, 0)
        if sideSize < sideUsed k' then finish s r (ansErr 0x0107)
        else
          match storeIndex s k b.length (n * 16) with
          | none => s
          | some s => finish (commit (autoMerge (updIndex s key fun _ => k') key) r) r (ansOk n)

/-- COMMIT (R346). -/
def execSearchCommit (r : ReqId) (s : State) : Res :=
  runReq s r 6 6 fun s x =>
    withIndex s r x fun key k =>
      match storeIndex s k 4 0 with
      | none => s
      | some s => finish (commit (autoMerge (updIndex s key fun k => { k with epoch := k.epoch + 1 }) key) r) r (ansOk (k.epoch + 1).toNat)

/-- MERGE (R348): the first row starts it, the next ends it at its commit point. -/
def execMerge (r : ReqId) (s : State) : Res :=
  runReq s r 6 8 fun s x =>
    let key := objKey (prm x 0x20 4)
    match (tfind? s.srch.indexes key).bind (·.merging) with
    | some (q, e) =>
      if q == r then
        let n := ((tfind? s.srch.indexes key).map (mergeable e)).getD 0
        match finishMerge s key e with
        | none => s
        | some s => finish (commit s r) r (ansOk n)
      else withIndex s r x fun _ _ => finish s r (ansErr 0x0106)
    | none => withIndex s r x fun key k =>
      if asterPlaced s (reqPart r) k then updIndex s key fun k => { k with merging := some (r, k.epoch.toNat) } else notYet s r

/-- A MERGE that is cancelled leaves the old lists in force. -/
def cancelMerge (s : State) (r : ReqId) (status : Nat) : State :=
  let clear (k : Index) : Index := if k.merging.any fun m => m.1 == r then { k with merging := none } else k
  finish { s with srch := { s.srch with indexes := s.srch.indexes.map fun x => (x.1, clear x.2) } } r (ansErr status)

/-! ### QUERY (R347, R350-R353) -/

/-- The record a program sees (R338). -/
def recordBytesOf (k : Index) (v : VecRec) : List Byte := fit (fit v.code (iSubq k.desc) ++ leBytes 8 v.id ++ fit v.attrs (iAsize k.desc)) (iRsize k.desc)

/-- What a query of one index found. -/
structure QueryRes where
  probed : List Nat
  cands : List Cand
  scored : Nat
  filtered : Nat
  excluded : Nat

/-- A record passes the program of a request, if it has one. -/
def passesOpt (g : Option (List Byte)) (k : Index) (v : VecRec) : Bool := match g with
  | some g => passes g (recordBytesOf k v)
  | none => true

/-- Lists probed at an epoch: present records that pass are scored (R350). -/
def probeLists (k : Index) (e : Nat) (g : Option (List Byte)) (score : VecRec → FVal) (ls : List Nat) (q : QueryRes) : QueryRes :=
  let here := k.recs.filter fun v => ls.contains v.list
  let present := here.filter (presentAt e)
  let ok := present.filter (passesOpt g k)
  { probed := q.probed ++ ls
    cands := q.cands ++ ok.map fun v => { score := score v, id := v.id, list := v.list, vec := v.vec }
    scored := q.scored + ok.length
    filtered := q.filtered + (present.length - ok.length)
    excluded := q.excluded + (here.filter fun v => match v.died with
      | some d => decide (d ≤ e)
      | none => false).length }

/-- WIDEN: further lists in steps of NPROBE until K pass or the cap is reached (R351). -/
def widen (k : Index) (e : Nat) (g : Option (List Byte)) (score : VecRec → FVal) (kk step cap : Nat) : Nat → List Nat → QueryRes → QueryRes
  | 0, _, q => q
  | n + 1, rest, q =>
    let m := min step (cap - q.probed.length)
    if kk ≤ q.cands.length || m = 0 || rest.isEmpty then q
    else widen k e g score kk step cap n (rest.drop m) (probeLists k e g score (rest.take m) q)

/-- One query (R350, R351). -/
def runQuery (k : Index) (e : Nat) (g : Option (List Byte)) (x : Exec) (qv : List FVal) : QueryRes :=
  let d := k.desc
  let kk := prm x 0x28 2
  let exact := bitAt (prm x 0x2B 1) 1
  let np := prm x 0x2C 4
  let es (vec : List Byte) : FVal := scoreV (iL2 d) qv (bf16s vec (iDim d))
  let pq (v : VecRec) : FVal := pqScore d k.model qv v.code
  let q0 : QueryRes := { probed := [], cands := [], scored := 0, filtered := 0, excluded := 0 }
  let order := coarseOrder d k.model qv
  let q :=
    if exact then probeLists k e g (if iKeep d then fun v => es v.vec else pq) order q0
    else
      let q := probeLists k e g pq (order.take np) q0
      if bitAt (prm x 0x2B 1) 0 then widen k e g pq kk np (min (prm x 0x30 4) (iNlist d)) (iNlist d) (order.drop np) q else q
  let best := sortCands q.cands
  let rr := prm x 0x34 2
  let best := if rr = 0 then best else sortCands ((best.take rr).map fun c => { c with score := es c.vec })
  { q with cands := best.take kk }

/-- REASON of a query (R352). -/
def queryReason (k : Index) (x : Exec) (q : QueryRes) : Nat :=
  if prm x 0x28 2 ≤ q.cands.length then 0
  else if iNlist k.desc ≤ q.probed.length then 2
  else if bitAt (prm x 0x2B 1) 0 then 3 else 1

/-- The block of a query in the out-payload (R352). -/
def queryBlock (k : Index) (e : Nat) (x : Exec) (q : QueryRes) : List Byte :=
  let kk := prm x 0x28 2
  fit (fit (leBytes 4 kk ++ leBytes 4 q.cands.length ++ leBytes 4 q.probed.length ++ leBytes 1 (queryReason k x q) ++ zeros 3 ++ leBytes 4 e ++ zeros 4
      ++ leBytes 8 q.scored ++ leBytes 8 q.filtered ++ leBytes 8 q.excluded) 64
    ++ q.cands.flatMap fun c => leBytes 8 c.id ++ leBytes 4 (f32Bits c.score) ++ leBytes 4 c.list) (64 + 16 * kk)

/-- The channel that holds a list, among those of the die groups the index's namespace lies on (R324; log entry 33). -/
def listChan (s : State) (key : Nat) (k : Index) (l : Nat) : Nat :=
  let gs := nsGroups s k.nsid
  let c := Config.listChannel key l % max 1 (4 * gs.length)
  4 * ((gs[c / 4]?).getD 0) + c % 4

/-- The lists of several queries that are read from flash: those with pages and without a copy in T1. -/
def listsRead (k : Index) (rs : List QueryRes) : List Nat :=
  ((rs.flatMap (·.probed)).eraseDups).filter fun l => listSize k l != 0 && (tfind? k.held l).isNone

/-- Records of the lists read are counted on their channels, once each (R324, R350). -/
def countLists (s : State) (key : Nat) (k : Index) (g : List Byte) (ls : List Nat) : State :=
  ls.foldl (fun s l =>
    let here := k.recs.filter fun v => v.list == l && !v.side && !v.dropped
    countIris s (listChan s key k l) here.length (here.filter (passesOpt (some g) k)).length) s

/-- A list that a query probed is kept in the T1 pool where there is room, or its copy is used now (R270, R337). -/
def keepList (key : Nat) (s : State) (l : Nat) : State :=
  match tfind? s.srch.indexes key with
  | none => s
  | some k =>
    let n := listSize k l * 64
    let put (s : State) (g : Nat) : State :=
      let t := s.tie.stamp + 1
      updIndex { s with tie := { s.tie with stamp := t } } key fun k => { k with held := tput k.held l { granules := g, used := t } }
    match tfind? k.held l with
    | some c => put s c.granules
    | none =>
      if n = 0 then s
      else match spaceFor s (oPart key) false n with
        | some s => put s n
        | none => s

/-- The queries of a payload, and the program that follows them, if there is one (R350). -/
def payQueries (d b : List Byte) (n : Nat) : List (List FVal) := (List.range n).map fun j => bf16s (slice b (j * 2 * iDim d) (2 * iDim d)) (iDim d)
def payProgram (d b : List Byte) (n : Nat) : Option (List Byte) := if b.length = n * 2 * iDim d then none else some (b.drop (n * 2 * iDim d))

/-- The epoch a QUERY pins at the lock: the one it names, if that is the newest or pinned by an executing QUERY, or the newest (R347). -/
def queryEpoch (s : State) (key : Nat) (k : Index) (named : Nat) : Option Nat :=
  let e := k.epoch.toNat
  if named = 0 || named = e then some e
  else if s.srch.runs.any fun y => y.key == key && y.epoch == named && queried s key then some named else none

/-- A QUERY begins: it is checked, pins its epoch, and loads its program on the channels of the lists it reads. -/
def beginQuery (s : State) (r : ReqId) (x : Exec) : State :=
  withIndex s r x fun key k =>
    let d := k.desc
    let n := prm x 0x2A 1
    if iNlist d < prm x 0x2C 4 then finish s r (ansErr 0x0018 0x2C)
    else if iNlist d < prm x 0x30 4 then finish s r (ansErr 0x0018 0x30)
    else if prm x 0x34 2 != 0 && !iKeep d then finish s r (ansErr 0x010A)
    else
      match queryEpoch s key k (prm x 0x24 4) with
      | none => finish s r (ansErr 0x0105)
      | some e =>
        if !asterPlaced s (reqPart r) k then notYet s r
        else
          withIn s r x fun s b =>
            if b.length < n * 2 * iDim d then finish s r (ansErr 0x0008)
            else
              match (payProgram d b n).bind fun g => badProgram g (iRsize d) with
              | some o => finish s r (ansErr 0x0100 o)
              | none =>
                let qs := payQueries d b n
                match findIx (fun q => !q.all isFinite) qs with
                | some j => finish s r (ansErr 0x0104 j)
                | none =>
                  let g := payProgram d b n
                  let ls := if g.isSome then listsRead k (qs.map (runQuery k e g x)) else []
                  loadProgram s
                    { req := r, key, epoch := e, payload := b, chans := (ls.map (listChan s key k)).eraseDups, loaded := false, waited := false }

/-- A QUERY whose program is loaded is answered from the epoch it pins (R350-R353). -/
def finishQuery (s : State) (r : ReqId) (x : Exec) (y : SearchRun) : State :=
  match tfind? s.srch.indexes y.key with
  | none => finish s r (ansErr 0x0004)
  | some k =>
    let n := prm x 0x2A 1
    let g := payProgram k.desc y.payload n
    let rs := (payQueries k.desc y.payload n).map (runQuery k y.epoch g x)
    let short := (rs.filter fun q => decide (q.cands.length < prm x 0x28 2)).length
    let s := match g with
      | some g => countLists s y.key k g (listsRead k rs)
      | none => s
    let s := ((rs.flatMap (·.probed)).eraseDups).foldl (keepList y.key) s
    let s := updAst s (reqPart r) fun a =>
      { a with queries := a.queries + n, short := satAdd a.short short
               widened := satAdd a.widened (rs.filter fun q => bitAt (prm x 0x2B 1) 0 && decide (prm x 0x2C 4 < q.probed.length)).length
               scored := a.scored + natSum (rs.map (·.scored)), filtered := a.filtered + natSum (rs.map (·.filtered)) }
    finish s r { status := if short = 0 then 0 else 1, detail := 0, result := short, out := rs.flatMap (queryBlock k y.epoch x) }

/-- QUERY: the first row checks it, pins its epoch at the lock and loads its program; once that has a place on every channel, the next completes it (R325,
R347; log entry 61). -/
def execQuery (r : ReqId) (s : State) : Res :=
  runReq s r 6 7 fun s x => sweepSearch (match searchRun s r with
    | none => beginQuery s r x
    | some y => if y.loaded then finishQuery s r x y else loadProgram s y)

/-- INFO (R355). -/
def execSearchInfo (r : ReqId) (s : State) : Res :=
  runReq s r 6 9 fun s x =>
    withIndex s r x fun _ k =>
      finish s r (ansOk 64 (fit (leBytes 4 (prm x 0x20 4) ++ leBytes 4 k.epoch.toNat ++ leBytes 8 (k.recs.filter (presentAt k.epoch.toNat)).length
        ++ leBytes 8 (k.recs.filter (·.side)).length ++ leBytes 8 k.dels.length ++ leBytes 8 (listPages k) ++ leBytes 1 (bnat k.merging.isSome)) 64))

end Sys2Proof.Machine
end

