-- ==== Sys2Proof/Machine/OpTable.lean ====
section
/-! DEFINITION. The opcodes of every class (R62): those of PART and DEBUG, and the table of all. -/

namespace Sys2Proof.Machine

/-- Opcodes of class PART (R85). The length of CONFIG_APPLY's image is checked by R84, not at step 11 (log entry 44). -/
def partOps : List OpSpec := [
  { cls := 2, op := 1, pfOnly := true, pay := .outSingle, lenOk := fun _ _ _ o => decide (5184 ≤ o) },
  { cls := 2, op := 2, pfOnly := true, used := [(0x20, 4)], bitsRes := [(0x20, 0xFE), (0x21, 0xFF), (0x22, 0xFF), (0x23, 0xFF)]
    pay := .inSingle, b := fun _ _ => 200000
    range := fun _ e => if fld e 0x1C 4 = 0 then some (0x0018, 0x1C) else none },
  { cls := 2, op := 3, pfOnly := true, used := [(0x20, 1)], range := rngs [(0x20, 1, 0, 15)] },
  { cls := 2, op := 4, pfOnly := true, pay := .outOnly, lenOk := fun _ _ _ o => decide (1280 ≤ o) },
  { cls := 2, op := 5, pfOnly := true, used := [(0x20, 1)], pay := .outOnly, range := rngs [(0x20, 1, 0, 4)]
    lenOk := fun _ _ _ o => decide (256 ≤ o) } ]

/-- Opcodes of class DEBUG (R518). -/
def debugOps : List OpSpec := [
  { cls := 0x0A, op := 1, pfOnly := true, pay := .outOnly, lenOk := fun _ _ _ o => decide (128 ≤ o) },
  { cls := 0x0A, op := 2, pfOnly := true, pay := .inOnly, lenOk := fun _ _ n _ => n == 224 },
  { cls := 0x0A, op := 3, pfOnly := true },
  { cls := 0x0A, op := 4, used := [(0x20, 1)], range := rngs [(0x20, 1, 0, 1)] },
  { cls := 0x0A, op := 5, pfOnly := true, pay := .outOnly, lenOk := fun _ _ _ o => decide (64 ≤ o) } ]

/-- Every assigned opcode. -/
def allOps : List OpSpec :=
  sysOps ++ partOps ++ jobOps ++ tierOps ++ ingestOps ++ searchOps ++ linkOps ++ mediaOps ++ diagOps ++ arrayTestOps ++ debugOps ++ calOps

end Sys2Proof.Machine
end

