-- ==== Sys2Proof/Machine/Cancel.lean ====
section
/-! DEFINITION. Cancelling a request before its commit point (R40, R66, R69): what each opcode undoes, then its completion. -/

namespace Sys2Proof.Machine

/-- An append of a KIND that has not been written is given up (log entry 45). -/
def dropAppend (s : State) (kind : Nat) : State :=
  let isApp (o : FwOp) : Bool := match o with
    | .append k _ => k == kind
    | _ => false
  let cur := match s.fw.cur with
    | some (.op o) => if isApp o then none else s.fw.cur
    | c => c
  issueNext (updFw s fun f => { f with ops := f.ops.filter fun o => !isApp o, cur })

/-- A CAL request that waits for its record, or a CONFIG_APPLY before step 4 of R90, leaves nothing behind (R91). -/
def dropRecordWait (s : State) (r : ReqId) : State :=
  let s := match s.fw.waits.find? fun w => w.1 == r with
    | some w => dropAppend (updFw s fun f => { f with waits := f.waits.filter fun w => w.1 != r }) w.2.1
    | none => s
  match s.prt.applying with
  | some a => if a.req == some r && !a.written then dropAppend { s with prt := { s.prt with applying := none } } 2 else s
  | none => s

/-- Request `r` is cancelled with a status; one that is not executing is left. -/
def cancelReq (s : State) (r : ReqId) (status : Nat) : State :=
  match findExec s r with
  | none => s
  | some x =>
    match entCls x.entry, entOp x.entry with
    | 3, 2 => cancelRun s r status
    | 3, 3 => finish (cancelSuspend s r) r (ansErr status)
    | 4, 3 => finish (cancelPromote s r) r (ansErr status)
    | 5, 1 => finish (cancelAddSource s r) r (ansErr status)
    | 5, 6 => finish (cancelIngest s r status) r (ansErr status)
    | 6, 1 => sweepSearch (finish s r (ansErr status))
    | 6, 7 => sweepSearch (finish s r (ansErr status))
    | 6, 8 => finish (cancelMerge s r status) r (ansErr status)
    | 7, 3 => cancelForward s r status
    | 9, 0x40 => finish (cancelTest s r) r (ansErr status)
    | _, _ => finish (dropRecordWait s r) r (ansErr status)

end Sys2Proof.Machine
end

