-- ==== Sys2Proof/Machine/Klova.lean ====
section
/-! DEFINITION. Klova requests: consumption with the checks of R57, posting, cancellation, mailbox resets and the SYS opcodes that act on
other requests (R40-R47, R52-R58, R65-R72). -/

namespace Sys2Proof.Machine

/-! ### Mailbox resets (R33, R40) -/

/-- Requests of a mailbox not past their commit point are cancelled with ABORTED. -/
def cancelMailbox (s : State) (n : Fin 256) : State :=
  (cancellable (mbox s n.val)).foldl (fun s x => cancelReq s ⟨n, x.oow, x.hseq⟩ 0x0002) s

/-- A mailbox reset begins (R40). -/
def beginReset (s : State) (n : Fin 256) : State := updMb (cancelMailbox s n) n.val startReset

/-- A mailbox reset preceded by clearing EN: a change of owner, a partition reset (R33, R40). -/
def resetMailbox (s : State) (n : Fin 256) : State := beginReset (updMb s n.val clearEn) n

/-- A mailbox whose owner changed is reset (R33). -/
def ownerChange (before s : State) : State :=
  (List.finRange 256).foldl (fun s n => if ownerOf before n.val == ownerOf s n.val then s else resetMailbox s n) s

/-- KLV_CTRL written by the owner (R35-R40). -/
def klvCtrlWrite (s : State) (n : Fin 256) (v : Word) : State :=
  let s :=
    if v.getLsbD 3 then
      (if (mbox s n.val).enabled then updMb s n.val fun m => { m with cfgErr := true }
       else if (mbox s n.val).resetting then s else beginReset s n)
    else s
  updMb s n.val (ctrlFields v)

/-- A KLV_CTRL write by the mailbox's owner in which bit `i` has the row's value; else the row's event does not happen. -/
def ctrlRow (fn : Fn) (n : Mb) (v : Word) (i : Nat) (on : Bool) (s : State) : Res :=
  if v.getLsbD i == on then .next (ownedWrite fn n s fun s => klvCtrlWrite s n v) else .next s

def execEnSet (fn : Fn) (n : Mb) (v : Word) (s : State) : Res := ctrlRow fn n v 0 true s
def execEnClear (fn : Fn) (n : Mb) (v : Word) (s : State) : Res := ctrlRow fn n v 0 false s
def execDmaBlock (fn : Fn) (n : Mb) (v : Word) (s : State) : Res := ctrlRow fn n v 1 true s
def execMreset (fn : Fn) (n : Mb) (v : Word) (s : State) : Res := ctrlRow fn n v 3 true s

/-! ### Checks on consumption (R57) -/

/-- The byte offsets and reserved masks of the fixed part of an entry: FLAGS [7:5], and the payload fields where there is none (R48). -/
def headerRes (e : List Byte) : List (Nat × Nat) :=
  (3, 0xE0) :: (if bits (fld e 3 1) 2 0 = 0 then (List.range 12).map fun i => (0x10 + i, 0xFF) else [])

/-- Reserved masks of the PARAMS bytes of an opcode. -/
def paramRes (o : OpSpec) : List (Nat × Nat) :=
  ((List.range 32).filterMap fun i =>
    if o.used.any fun u => decide (u.1 ≤ 0x20 + i) && decide (0x20 + i < u.1 + u.2) then none else some (0x20 + i, 0xFF)) ++ o.bitsRes

/-- The lowest offset at which a reserved bit of an entry is set (step 7). -/
def firstReserved (o : OpSpec) (e : List Byte) : Option Nat :=
  let l := (headerRes e ++ paramRes o).filterMap fun x => if (fld e x.1 1) &&& x.2 != 0 then some x.1 else none
  match l with
  | [] => none
  | a :: t => some (t.foldl min a)

/-- A class assigned (R62), an opcode assigned in it. -/
def classAssigned (c : Nat) : Bool := decide (1 ≤ c) && decide (c ≤ 0x0B)
def findOp (c op : Nat) : Option OpSpec := allOps.find? fun o => o.cls == c && o.op == op

/-- In recovery boot only HELLO, IDENTIFY, NOP and RECOVERY_LOAD are served (R485). -/
def recoveryOk (s : State) (o : OpSpec) : Bool :=
  !inRecovery s || (o.cls == 1 && [1, 2, 6].contains o.op) || (o.cls == 0x0B && o.op == 6)

/-- Step 8: the class is permitted on the mailbox, and out of window if the entry is (R34, R55, R62); an Evsel mailbox counts as not owned
by the physical function (R437). -/
def permitted (s : State) (n : Nat) (o : OpSpec) (e : List Byte) : Bool :=
  let pf := ownerOf s n == 0 && !isEvselMb s n
  recoveryOk s o && (pf || !o.pfOnly) && (!pf || !isSealed s (n / 16) || o.cls ≤ 2) &&
    (!entOow e || (o.cls == 1 && [2, 3, 4, 6].contains o.op && !entFence e))

/-- The index of the first descriptor of a list that breaks R544. -/
def badDescriptor (hm : Memory) (a n : Nat) : Option Nat :=
  (List.range n).find? fun i =>
    mnat hm (a + 16 * i + 8) 4 == 0 || 1 < mnat hm (a + 16 * i + 12) 1 || mnat hm (a + 16 * i + 13) 3 != 0

/-- The form of a payload stands in the opcode table (R544). -/
def formAdmitted (f : PayForm) (e : List Byte) (rs : List Region) : Bool :=
  let none_ := bits (fld e 3 1) 2 0 = 0
  let allIn := rs.all fun x => !x.out
  let allOut := rs.all fun x => x.out
  let single := !entList e
  match f with
  | .none => none_
  | .inOnly => !none_ && allIn && !(single && entDirOut e)
  | .outOnly => !none_ && allOut && !(single && entDirIn e)
  | .inSingle => single && entDirIn e && !entDirOut e
  | .outSingle => single && entDirOut e && !entDirIn e
  | .list => entList e
  | .inOut => single && entDirIn e && entDirOut e
  | .optOut => none_ || (allOut && !(single && entDirIn e))
  | .optIn => none_ || (allIn && !(single && entDirOut e))
  | .listOrInOut => entList e || (single && entDirIn e && entDirOut e)

/-- The opcode's form admits a descriptor list (R544). -/
def listAdmitted (f : PayForm) : Bool := match f with
  | .none | .inSingle | .outSingle | .inOut => false
  | .inOnly | .outOnly | .list | .optOut | .optIn | .listOrInOut => true

/-- The length rule of an opcode is broken; it applies only where every parameter it uses lies within its range (R57). -/
def lengthBad (s : State) (o : OpSpec) (e : List Byte) (rs : List Region) : Bool :=
  o.lenApplies e && !o.lenOk s e (payLen rs false) (payLen rs true)

/-- Step 11 for a request whose payload travels inline: LIST is 0, PAYLOAD_LEN is at most 1 MiB, and as many bytes came as DIR_IN tells
(R437, R438; log entry 75). -/
def inlineBad (e : List Byte) (inline : List Byte) : Bool :=
  entList e || decide (0x100000 < fld e 0x18 4) || fld e 0x10 8 != 0 || inline.length != (if entDirIn e then fld e 0x18 4 else 0)

/-- Step 11: the DETAIL with which a payload breaks R48, R544 or the opcode's rule: first the form, then each descriptor, then the directions
of the descriptors and the lengths. The descriptor list is read from host memory here; it is no payload transfer, so DMA_BLOCK does not refuse
it (log entry 88). -/
def payloadBad (s : State) (o : OpSpec) (e : List Byte) (ev : Option EvOrigin) : Option Nat :=
  let a := fld e 0x10 8
  let n := fld e 0x18 4
  let shape := entList e && (entDirIn e || entDirOut e || a % 16 != 0 || n == 0 || n % 16 != 0 || 4096 < n || !listAdmitted o.pay)
  if shape || ev.any (fun v => inlineBad e v.inPayload) then some 0
  else
    match (if entList e then badDescriptor s.hmem a (n / 16) else none) with
    | some i => some i
    | none =>
      let rs := regions s.hmem e
      if !formAdmitted o.pay e rs then some 0 else if lengthBad s o e rs then some o.lenDetail else none

/-- The effective upper timeout of an entry in microseconds (R65). -/
def effTimeout (m : Mailbox) (e : List Byte) : Option Nat :=
  let t := fld e 8 4
  let v := if t = 0 then m.defTimeout.toNat else t
  if v = 0xFFFFFFFF then none else some v

/-- SYS EVENT_WAIT ignores T (R65). -/
def noTimer (e : List Byte) : Bool := entCls e == 1 && entOp e == 5

/-- Steps 3-12 for an entry: the status and DETAIL of the first check that fails. -/
def checkEntry (s : State) (n : Nat) (e : List Byte) (ev : Option EvOrigin) : Option (Nat × Nat) :=
  let m := mbox s n
  let isHello := entCls e == 1 && entOp e == 1
  if !isHello && m.ver == 0 then some (0x0012, 0)
  else if !isHello && fld e 2 1 != m.ver.toNat then some (0x0013, m.ver.toNat)
  else if !classAssigned (entCls e) then some (0x0016, 0)
  else
    match findOp (entCls e) (entOp e) with
    | none => some (0x0017, 0)
    | some o =>
      match firstReserved o e with
      | some off => some (0x0015, off)
      | none =>
        if !permitted s n o e then some (0x0019, 0)
        else if fld e 0x1C 4 != 0 && fld e 0x1C 4 != s.klv.cfgEpoch.toNat then some (0x0006, 0)
        else if !noTimer e && (match effTimeout m e with
          | some t => !decide (o.b s e + 1000 < t)
          | none => false) then some (0x001A, 0)
        else
          match payloadBad s o e ev with
          | some d => some (0x0008, d)
          | none => o.range s e

/-! ### Consumption -/

/-- The classification of an accepted sequence number (R52). -/
inductive HseqClass where
  | accept | duplicate | ahead | stale
  deriving DecidableEq, Repr

/-- R52 for HSEQ `h` on mailbox `m`. -/
def classify (m : Mailbox) (h : Word) : HseqClass :=
  let back := (m.nextHseq - h).toNat
  if back = 0 then .accept
  else if back ≤ 4096 then (if (tfind? m.recs h.toNat).isSome then .duplicate else .stale)
  else if 0x80000001 ≤ back then .ahead
  else .stale

/-- Some CONFIG_APPLY has been accepted and has not completed (R86). -/
def applyAccepted (s : State) : Bool :=
  (List.finRange 256).any fun n => (mbox s n.val).execs.any fun y => entCls y.entry == 2 && entOp y.entry == 2

/-- A new request: the entry with what is fixed at its acceptance. -/
def newExec (s : State) (m : Mailbox) (e : List Byte) (ev : Option EvOrigin) : Exec :=
  { entry := e, hseq := BitVec.ofNat 32 (fld e 4 4), oow := entOow e, acceptTs := s.ts
    timeoutUs := if noTimer e then none else effTimeout m e, ver := m.ver, begun := false, committed := false, replays := []
    evsel := ev, cfg := s.prt.cfg, order := s.klv.taken, applying := s.prt.applying.isSome || applyAccepted s
    snap := if entCls e == 1 && entOp e == 4 then recordsBytes m (fld e 0x20 4) (min (fld e 0x24 4) 4096) else [] }

/-- A refusal before acceptance: one completion, no record (R43, R52). -/
def refuseEntry (s : State) (n : Nat) (x : Exec) (status : Nat) : State :=
  updMb s n fun m => { m with waiting := m.waiting ++ waitingOf (cplOf s.ts x (ansErr status)) { x with replays := [] } [] }

/-- A duplicate: the completion again, or once the original has completed (R54). -/
def replayEntry (s : State) (n : Nat) (x : Exec) : State :=
  updMb s n fun m =>
    match tfind? m.recs x.hseq.toNat with
    | some k =>
      match k.cpl with
      | some c => { m with waiting := m.waiting ++ [{ cpl := c, replay := true, oow := false, evsel := x.evsel, outPayload := [] }] }
      | none => { m with execs := modFirst (fun y => !y.oow && y.hseq == x.hseq) (fun y => { y with replays := y.replays ++ [x.evsel] }) m.execs }
    | none => m

/-- A request with HSEQ N is accepted: N advances, its record is made, the record 4,096 before is dropped (R52, R53). -/
def acceptEntry (x : Exec) (m : Mailbox) : Mailbox :=
  { m with
    nextHseq := m.nextHseq + 1
    recs := tput (tdel m.recs (x.hseq - 4096).toNat) x.hseq.toNat
      { hseq := x.hseq, cls := BitVec.ofNat 8 (entCls x.entry), op := BitVec.ofNat 8 (entOp x.entry)
        tag := BitVec.ofNat 32 (fld x.entry 0x0C 4), cpl := none, dseq := 0 }
    execs := m.execs ++ [x] }

/-- What the acceptance of an entry that passes every check does to its mailbox: a HELLO sets the version (R60). -/
def onAccept (e : List Byte) (m : Mailbox) : Mailbox :=
  if entCls e == 1 && entOp e == 1 then
    match helloVersion (fld e 0x20 1) (fld e 0x21 1) with
    | some v => { m with ver := BitVec.ofNat 8 v }
    | none => m
  else m

/-- A mailbox that receives an EVENT_WAIT is registered for events, also where the request is then refused (R57, R71). -/
def onReceive (e : List Byte) (m : Mailbox) : Mailbox := if noTimer e then { m with registered := true } else m

/-- What the acceptance of a request that passes every check does beside its mailbox, as its opcode's chapter says. -/
def onAcceptOp (s : State) (r : ReqId) (x : Exec) : State :=
  match findOp (entCls x.entry) (entOp x.entry) with
  | some o => o.onAccept s r x
  | none => s

/-- A request taken: checked at once (R57, steps 3-12). One that fails completes; one that passes waits to begin. -/
def checkTaken (s : State) (r : ReqId) (x : Exec) : State :=
  let s := updMb s r.mb.val (onReceive x.entry)
  match checkEntry s r.mb.val x.entry x.evsel with
  | some (st, d) => finish s r (ansErr st d)
  | none => onAcceptOp (updMb s r.mb.val (onAccept x.entry)) r x

/-- The next place in the order of acceptance. -/
def nextTaken (s : State) : State := { s with klv := { s.klv with taken := s.klv.taken + 1 } }

/-- One entry taken by the device (R43, R52, R57): classified, accepted, checked; refused entries complete at once. -/
def consumeEntry (s : State) (n : Mb) (e : List Byte) (ev : Option EvOrigin) : State :=
  let m := mbox s n.val
  let x := newExec s m e ev
  let r : ReqId := ⟨n, x.oow, x.hseq⟩
  let s := nextTaken s
  if x.oow then checkTaken (updMb s n.val fun m => { m with execs := m.execs ++ [x] }) r x
  else
    match classify m x.hseq with
    | .ahead => refuseEntry s n.val x 0x0010
    | .stale => refuseEntry s n.val x 0x0011
    | .duplicate => replayEntry s n.val x
    | .accept => checkTaken (updMb s n.val (acceptEntry x)) r x

/-- The place of the entry at KLV_REQ_HEAD in host memory, and that entry. -/
def reqSlot (m : Mailbox) : Nat := m.reqBase.toNat / 4096 * 4096 + m.reqHead.toNat * 64
def headEntry (s : State) (m : Mailbox) : List Byte := mread s.hmem (reqSlot m) 64

/-- The completion ring is full (R42). -/
def cplFull (m : Mailbox) : Bool := (m.cplTail.toNat + 1) % cplEntries m == m.cplHead

/-- Executing contexts of a partition (R45). -/
def partExecuting (s : State) (p : Nat) : Nat := natSum ((mbsOf p).map fun n => ((mbox s n.val).execs.filter fun x => !x.oow).length)

/-- The conditions of R46 do not hold for an entry of a mailbox. -/
def roomFor (s : State) (n : Nat) (m : Mailbox) (e : List Byte) : Bool :=
  let h : Word := BitVec.ofNat 32 (fld e 4 4)
  if entOow e then !m.execs.any (·.oow)
  else decide (partExecuting s (n / 16) < 2048) &&
    !(h == m.nextHseq && m.execs.any fun x => !x.oow && x.hseq == h - 4096)

/-- A mailbox has an entry the device may take (R38, R46); in PS3 and PS4 only one of class SYS or PART (R381). -/
def consumable (s : State) (n : Nat) : Bool :=
  let m := mbox s n
  working m && !m.resetting && !isEvselMb s n && m.reqHead.toNat != m.reqTail && !cplFull m && roomFor s n m (headEntry s m) &&
    (s.nvm.ps.val < 3 || entCls (headEntry s m) ≤ 2) && s.rst.halt == .no && s.rst.ready && (!inRecovery s || n == 0)

/-- The mailbox of a partition whose turn it is: the first consumable from the turn on (R45). -/
def turnOf (s : State) (p : Nat) : Option Nat :=
  ((List.range 16).map fun i => 16 * p + (tget 0 s.klv.turn p + i) % 16).find? (consumable s)

/-- The entry at KLV_REQ_HEAD is taken: the head advances, and the turn passes to the next mailbox of the partition (R45). -/
def takeHead (s : State) (n : Nat) : State :=
  let s := mbAcc s n false (reqSlot (mbox s n)) 64
  let s := updMb s n fun m => { m with active := true, reqHead := BitVec.ofNat 32 ((m.reqHead.toNat + 1) % reqEntries m) }
  { s with klv := { s.klv with turn := tput s.klv.turn (n / 16) ((n + 1) % 16) } }

/-- REQUEST_CONSUME: the mailbox whose turn it is gives up the entry at KLV_REQ_HEAD. -/
def execRequestConsume (n : Mb) (s : State) : Res :=
  if turnOf s (n.val / 16) != some n.val then .next s
  else .next (consumeEntry (takeHead s n.val) n (headEntry s (mbox s n.val)) none)

/-! ### Posting (R41, R44, R46, R51) -/

/-- A completion written to the ring, and the mailbox after it. -/
def postRing (s : State) (n : Nat) (m : Mailbox) (w : Waiting) : State :=
  let flags := bnat m.phase + 2 * bnat w.replay + 4 * bnat w.cpl.committed
  let a := m.cplBase.toNat / 4096 * 4096 + m.cplTail.toNat * 32
  let next := (m.cplTail.toNat + 1) % cplEntries m
  let recs := if w.replay || w.oow then m.recs else
    match tfind? m.recs w.cpl.hseq.toNat with
    | some k => if k.dseq == 0 && k.cpl == some w.cpl then tput m.recs w.cpl.hseq.toNat { k with dseq := m.nextDseq } else m.recs
    | none => m.recs
  let signal := m.msixEn && m.msixArmed
  let s := { mbAcc s n true a 32 with hmem := mwrite s.hmem a (cplBytes w.cpl m.nextDseq.toNat flags) }
  let s := updMb s n fun m =>
    { m with active := true, recs, waiting := m.waiting.tail, nextDseq := m.nextDseq + 1, cplTail := BitVec.ofNat 32 next
             phase := if next = 0 then !m.phase else m.phase, msixArmed := m.msixArmed && !signal, msixDue := !signal }
  if signal then emit s (.msix (ownerOf s n) m.msixVec.toNat) else s

/-- COMPLETION_POST: the oldest waiting completion is written to the ring, or sent to its origin on the Evsel mailbox (R437). -/
def execCompletionPost (n : Mb) (s : State) : Res :=
  let m := mbox s n.val
  match m.waiting with
  | [] => .next s
  | w :: _ =>
    if isEvselMb s n.val then .next (postEvsel s n.val m w (cplBytes w.cpl m.nextDseq.toNat (2 * bnat w.replay + 4 * bnat w.cpl.committed)))
    else if working m && !cplFull m then .next (postRing s n.val m w)
    else .next s

/-! ### Timeouts, late results, ABORT -/

/-- The upper timeout of a request fires: before its commit point it completes with TIMEOUT, after it nothing changes (R66). -/
def execUpperTimeout (r : ReqId) (s : State) : Res :=
  match findExec s r with
  | none => .next s
  | some x =>
    match x.timeoutUs with
    | none => .next s
    | some t =>
      let s := reach s (x.acceptTs.toNat + t * 1000)
      if x.committed then .next s else .next (cancelReq s r 0x0003)

/-- A lower result that arrives for a request already completed is counted (R67). -/
def execLateResult (n : Mb) (s : State) : Res := .next (updMb s n.val fun m => { m with lateCnt := satInc m.lateCnt })

/-- ABORT (R68, R69). -/
def execAbort (r : ReqId) (s : State) : Res :=
  runReq s r 1 3 fun s x =>
    let h : Word := BitVec.ofNat 32 (prm x 0x20 4)
    let t : ReqId := ⟨r.mb, false, h⟩
    if !x.oow && h == x.hseq then finish s r (ansOk 3)
    else
      match findExec s t with
      | some y => if y.committed then finish s r (ansOk 1) else finish (cancelReq s t 0x0002) r (ansOk 0)
      | none =>
        match tfind? (mbox s r.mb.val).recs h.toNat with
        | some _ => finish s r (ansOk 2)
        | none => finish s r (ansOk 3)

/-! ### IDENTIFY (R72) -/

/-- The identify data (R72). -/
def identifyData (s : State) (n : Nat) : List Byte :=
  let i := s.ident
  let cap := if i.flashChannels = 128 then 245760000000000 else 184320000000000
  partNumber i ++ fit i.serial 20 ++ leBytes 1 0x20 ++ leBytes 1 0x20 ++ leBytes 1 s.rst.groupPos ++ leBytes 1 i.workingArrays
    ++ leBytes 1 i.flashChannels ++ leBytes 1 (i.flashChannels / 4) ++ zeros 2 ++ leBytes 4 s.klv.incarnation.toNat
    ++ fit i.arrayMap 32 ++ leBytes 8 cap ++ leBytes 8 515396075520 ++ runningVersion s ++ leBytes 1 s.fw.running.val
    ++ leBytes 1 (n / 16) ++ leBytes 2 n ++ leBytes 4 s.klv.cfgEpoch.toNat ++ zeros 3960

def execIdentify (r : ReqId) (s : State) : Res :=
  answer s r 1 2 fun s _ => ansOk 4096 (identifyData s r.mb.val)

/-! ### Functions -/

/-- A function-level reset clears EN and sets DMA_BLOCK on every mailbox the function owns. -/
def flrMailboxes (s : State) (fn : Fn) : State :=
  (List.finRange 256).foldl (fun s n =>
    if ownerOf s n.val == fn.val then updMb s n.val fun m => { clearEn m with dmaBlock := true } else s) s

end Sys2Proof.Machine
end

