-- ==== Sys2Proof/Machine/LinkKlova.lean ====
section
/-! DEFINITION. Klova requests that arrive over Evsel (R428, R431, R437, R438). -/

namespace Sys2Proof.Machine

/-- A KLOVA_REQ for which the mailbox window has no room is given up, answered with NACK_RNR, and expected again (R428). -/
def notReady (s : State) (q p : Nat) (m : InMsg) : State :=
  updConn (sendControl s q p 3 m.msn) q p fun c => { c with rxBase := m.psn, inbox := [], held := [], gapAt := none }

/-- KLOVA_REQ: the partition's Evsel mailbox takes the inner request (R437, R438); it is refused where R431 says, where no Evsel mailbox is
named, and where it is too short to be a request. -/
def execKlovaReq (k : ConnId) (s : State) : Res :=
  let q := k.pos.val
  let p := k.part.val
  let n : Mb := ⟨16 * p + 15, by have := k.part.isLt; omega⟩
  match (conn s q p).inbox with
  | [] => .next s
  | m :: _ =>
    if m.kind != 0 || !s.rst.ready || s.rst.halt != .no then .next s
    else if isEvselMb s n.val && !unreachable s p && 64 ≤ m.payload.length &&
        ((mbox s n.val).resetting || !roomFor s n.val (mbox s n.val) (m.payload.take 64)) then
      .next (notReady s q p m)
    else
      inboxRow k 0 (fun s q p m =>
        if !isEvselMb s n.val || unreachable s p || m.payload.length < 64 then refuseMsg s q p m
        else
          consumeEntry s n (m.payload.take 64)
            (some { pos := q, part := p, msn := m.msn, incarnation := (trunk s q).incarnation.elim 0 (·.toNat), inPayload := m.payload.drop 64 })) s

end Sys2Proof.Machine
end

