-- ==== Sys2Proof/Machine/CfgImage.lean ====
section
/-! DEFINITION. The configuration image: its layout, the checks of R84 and R435, the factory configuration, slot tables (R82-R84, R94, R98,
R434). -/

namespace Sys2Proof.Machine

/-! ### Layout (R82, R83, R434) -/

def decodePart (b : List Byte) : PartRec :=
  { active := bitAt (fld b 0 1) 0, sealedP := bitAt (fld b 0 1) 1, vf := BitVec.ofNat 8 (fld b 1 1), pfMailboxes := BitVec.ofNat 16 (fld b 2 2)
    clusters := BitVec.ofNat 32 (fld b 4 4), dieGroups := BitVec.ofNat 32 (fld b 8 4), dramSlices := BitVec.ofNat 32 (fld b 0xC 4)
    engines := BitVec.ofNat 64 (fld b 0x10 8), shDram := BitVec.ofNat 8 (fld b 0x18 1), shFabric := BitVec.ofNat 8 (fld b 0x19 1)
    shPcieOut := BitVec.ofNat 8 (fld b 0x1A 1), shPcieIn := BitVec.ofNat 8 (fld b 0x1B 1), shSage := BitVec.ofNat 8 (fld b 0x1C 1)
    rootSegs := BitVec.ofNat 32 (fld b 0x20 4), label := slice b 0x40 32 }

def decodePort (b : List Byte) : PortRec :=
  { firstLink := BitVec.ofNat 8 (fld b 0 1), lanes := BitVec.ofNat 8 (fld b 1 1), owner := BitVec.ofNat 8 (fld b 2 1)
    nflags := BitVec.ofNat 8 (fld b 3 1), vlan := BitVec.ofNat 16 (fld b 4 2), ipv6 := slice b 8 16, ipv6Plen := BitVec.ofNat 8 (fld b 0x18 1)
    ipv4 := BitVec.ofNat 32 (fld b 0x1C 4), ipv4Plen := BitVec.ofNat 8 (fld b 0x20 1) }

def decodeLinks (b : List Byte) : LinksRec :=
  { present := BitVec.ofNat 8 (fld b 4 1), evselMb := BitVec.ofNat 16 (fld b 6 2), groupId := BitVec.ofNat 64 (fld b 8 8)
    msgTimeoutUs := BitVec.ofNat 32 (fld b 0x10 4), rtoUs := BitVec.ofNat 16 (fld b 0x14 2), shTrunk := slice b 0x18 16
    ports := (List.range 12).map fun n => decodePort (slice b (0x40 + 64 * n) 64) }

/-- Offset of the record of a partition in the image. -/
def partOff (p : Nat) : Nat := 0x40 + p * 0x100

/-- The configuration an image holds, with an epoch. -/
def decodeCfg (b : List Byte) (epoch : Nat) : Cfg :=
  { epoch := BitVec.ofNat 32 epoch, parts := (List.range 16).map fun p => (p, decodePart (slice b (partOff p) 256))
    links := decodeLinks (slice b 0x1040 1024) }

/-- NEW_KEYS bits of an image. -/
def newKeysOf (b : List Byte) : Half := BitVec.ofNat 16 (natSum ((List.range 16).map fun p => bnat (bitAt (fld b (partOff p) 1) 3) * 2 ^ p))

/-- A partition record as CONFIG_READ gives it; `consent` and `keyGen` are read only, `newKeys` is set in a configuration record only. -/
def encodePart (r : PartRec) (consent newKeys : Bool) (keyGen : Nat) : List Byte :=
  leBytes 1 (bnat r.active + 2 * bnat r.sealedP + 4 * bnat consent + 8 * bnat newKeys) ++ leBytes 1 r.vf.toNat ++ leBytes 2 r.pfMailboxes.toNat
    ++ leBytes 4 r.clusters.toNat ++ leBytes 4 r.dieGroups.toNat ++ leBytes 4 r.dramSlices.toNat ++ leBytes 8 r.engines.toNat
    ++ leBytes 1 r.shDram.toNat ++ leBytes 1 r.shFabric.toNat ++ leBytes 1 r.shPcieOut.toNat ++ leBytes 1 r.shPcieIn.toNat
    ++ leBytes 1 r.shSage.toNat ++ zeros 3 ++ leBytes 4 r.rootSegs.toNat ++ leBytes 4 keyGen ++ zeros 24 ++ fit r.label 32 ++ zeros 160

def encodePort (q : PortRec) : List Byte :=
  leBytes 1 q.firstLink.toNat ++ leBytes 1 q.lanes.toNat ++ leBytes 1 q.owner.toNat ++ leBytes 1 q.nflags.toNat ++ leBytes 2 q.vlan.toNat
    ++ zeros 2 ++ fit q.ipv6 16 ++ leBytes 1 q.ipv6Plen.toNat ++ zeros 3 ++ leBytes 4 q.ipv4.toNat ++ leBytes 1 q.ipv4Plen.toNat ++ zeros 31

def encodeLinks (l : LinksRec) : List Byte :=
  leBytes 4 0x4B4E494C ++ leBytes 1 l.present.toNat ++ zeros 1 ++ leBytes 2 l.evselMb.toNat ++ leBytes 8 l.groupId.toNat
    ++ leBytes 4 l.msgTimeoutUs.toNat ++ leBytes 2 l.rtoUs.toNat ++ zeros 2 ++ fit l.shTrunk 16 ++ zeros 24
    ++ (List.range 12).flatMap (fun n => encodePort ((l.ports[n]?).getD portRecNone)) ++ zeros 192

/-- The image of a configuration; the partitions' read-only fields are those of `s`. -/
def encodeCfg (s : State) (c : Cfg) (newKeys : Half) : List Byte :=
  leBytes 4 0x47464350 ++ leBytes 1 1 ++ zeros 3 ++ leBytes 4 5184 ++ leBytes 4 c.epoch.toNat ++ zeros 48
    ++ (List.range 16).flatMap (fun p =>
      encodePart (tget partRecNone c.parts p) (pst s p).consent (newKeys.getLsbD p) (pst s p).keyGen.toNat)
    ++ encodeLinks c.links

/-! ### The checks of R84 -/

/-- A check that failed: status and DETAIL. -/
abbrev Fail := Option (Nat × Nat)

/-- The first of a list of checks, each an offset and whether it fails. -/
def imageFail (status : Nat) (l : List (Nat × Bool)) : Fail := (l.find? (·.2)).map fun x => (status, x.1)

/-- Each byte of a reserved range. -/
def resBytes (b : List Byte) (off n : Nat) : List (Nat × Bool) := (List.range n).map fun i => (off + i, fld b (off + i) 1 != 0)

/-- Rule 1. -/
def checkImage (b : List Byte) : Fail :=
  if b.length != 5184 then some (0x0100, 0)
  else imageFail 0x0100
    ([(0, fld b 0 4 != 0x47464350), (4, fld b 4 1 != 1)] ++ resBytes b 5 3 ++ [(8, fld b 8 4 != 5184)] ++ resBytes b 0x10 48
      ++ (List.range 16).flatMap fun p =>
        let o := partOff p
        [(o, bits (fld b o 1) 7 4 != 0), (o + 0xC, bits (fld b (o + 0xC) 4) 31 30 != 0)] ++ resBytes b (o + 0x1D) 3 ++ resBytes b (o + 0x28) 24
          ++ resBytes b (o + 0x60) 160)

/-- Rule 2: an inactive partition's fields, with the read-only ones ignored. -/
def checkInactive (b : List Byte) : Fail :=
  imageFail 0x0102 ((List.range 16).flatMap fun p =>
    let o := partOff p
    if bitAt (fld b o 1) 0 then []
    else [(o, bitAt (fld b o 1) 1 || bitAt (fld b o 1) 3), (o + 1, fld b (o + 1) 1 != 0), (o + 2, fld b (o + 2) 2 != 0), (o + 4, fld b (o + 4) 4 != 0)
         , (o + 8, fld b (o + 8) 4 != 0), (o + 0xC, fld b (o + 0xC) 4 != 0), (o + 0x10, fld b (o + 0x10) 8 != 0), (o + 0x18, fld b (o + 0x18) 1 != 0)
         , (o + 0x19, fld b (o + 0x19) 1 != 0), (o + 0x1A, fld b (o + 0x1A) 1 != 0), (o + 0x1B, fld b (o + 0x1B) 1 != 0)
         , (o + 0x1C, fld b (o + 0x1C) 1 != 0), (o + 0x20, fld b (o + 0x20) 4 != 0)])

/-- Rule 3: a claim that an earlier partition made. -/
def checkClaims (b : List Byte) : Fail :=
  let clash (p off n : Nat) : Bool := (List.range p).any fun q => (fld b (partOff q + off) n) &&& (fld b (partOff p + off) n) != 0
  let sameVf (p : Nat) : Bool := fld b (partOff p + 1) 1 != 0 && (List.range p).any fun q => fld b (partOff q + 1) 1 == fld b (partOff p + 1) 1
  imageFail 0x0101 ((List.range 16).flatMap fun p =>
    let o := partOff p
    [(o + 1, sameVf p), (o + 4, clash p 4 4), (o + 8, clash p 8 4), (o + 0xC, clash p 0xC 4), (o + 0x10, clash p 0x10 8), (o + 0x20, clash p 0x20 4)])

/-- Rules 4 to 6. -/
def checkRanges (i : Ident) (b : List Byte) : Fail :=
  imageFail 0x0102 (
    ((List.range 16).flatMap fun p =>
      let o := partOff p
      [(o + 1, decide (16 < fld b (o + 1) 1)), (o + 8, decide (2 ^ populatedGroups i ≤ fld b (o + 8) 4))
      , (o + 0xC, decide (2 ^ assignableSlices i ≤ fld b (o + 0xC) 4)), (o + 0x20, decide (2 ^ 28 ≤ fld b (o + 0x20) 4))])
    ++ ((List.range 16).map fun p => (partOff p + 0xC, bitAt (fld b (partOff p) 1) 0 && fld b (partOff p + 0xC) 4 == 0))
    ++ ((List.range 16).map fun p => (partOff p + 1, bitAt (fld b (partOff p) 1) 1 && fld b (partOff p + 1) 1 == 0)))

/-- Rules 7 and 8. -/
def checkShares (b : List Byte) : Fail :=
  let sum (p k : Nat) : Nat := natSum ((List.range (p + 1)).map fun q => fld b (partOff q + 0x18 + k) 1)
  imageFail 0x0103 (
    ((List.range 16).flatMap fun p => (List.range 5).map fun k =>
      (partOff p + 0x18 + k, bitAt (fld b (partOff p) 1) 0 && fld b (partOff p + 0x18 + k) 1 == 0))
    ++ ((List.range 16).flatMap fun p => (List.range 5).map fun k => (partOff p + 0x18 + k, decide (240 < sum p k))))

/-- Rule 9 for one port entry (R435): `free` tells the links that may form ports; FIRST_LINK is judged with a legal LANES (log entry 67). -/
def checkPort (b : List Byte) (free : Nat → Bool) (n : Nat) : List (Nat × Bool) :=
  let o := 0x1080 + 64 * n
  let first := fld b o 1
  let lanes := fld b (o + 1) 1
  let used := lanes != 0
  let legal := List.contains [1, 2, 4, 8] lanes
  let owner := fld b (o + 2) 1
  let shares := (List.range n).any fun m =>
    let q := 0x1080 + 64 * m
    fld b (q + 1) 1 != 0 && decide (first < fld b q 1 + fld b (q + 1) 1) && decide (fld b q 1 < first + lanes)
  [(o, legal && (first % lanes != 0 || shares || !(List.range lanes).all fun i => free (first + i)))
  , (o + 1, used && !legal)
  , (o + 2, used && owner != 0xFF && (decide (15 < owner) || !bitAt (fld b (partOff owner) 1) 0))
  , (o + 3, decide (4 ≤ fld b (o + 3) 1)), (o + 4, bitAt (fld b (o + 4) 2) 15)]
    ++ resBytes b (o + 6) 2
    ++ [(o + 0x18, used && (fld b (o + 0x18) 1 == 0 || decide (128 < fld b (o + 0x18) 1)))] ++ resBytes b (o + 0x19) 3
    ++ [(o + 0x20, used && bitAt (fld b (o + 3) 1) 0 && (fld b (o + 0x20) 1 == 0 || decide (32 < fld b (o + 0x20) 1)))] ++ resBytes b (o + 0x21) 31

/-- Rule 9 (R435). -/
def checkLinks (b : List Byte) (pos : Nat) (free : Nat → Bool) : Fail :=
  let o := 0x1040
  let act (p : Nat) : Bool := bitAt (fld b (partOff p) 1) 0
  let mt := fld b (o + 0x10) 4
  let rto := fld b (o + 0x14) 2
  imageFail 0x0102 (
    [(o, fld b o 4 != 0x4B4E494C), (o + 4, !bitAt (fld b (o + 4) 1) pos)] ++ resBytes b (o + 5) 1
      ++ [(o + 6, (List.range 16).any fun p => bitAt (fld b (o + 6) 2) p && !act p), (o + 8, fld b (o + 8) 8 == 0)
         , (o + 0x10, mt != 0 && (decide (mt < 1000) || decide (1000000 < mt))), (o + 0x14, rto != 0 && (decide (rto < 4) || decide (1024 < rto)))]
      ++ resBytes b (o + 0x16) 2
      ++ ((List.range 16).map fun p => (o + 0x18 + p, (!act p && fld b (o + 0x18 + p) 1 != 0) ||
          decide (240 < natSum ((List.range (p + 1)).map fun q => fld b (o + 0x18 + q) 1))))
      ++ resBytes b (o + 0x28) 24 ++ (List.range 12).flatMap (checkPort b free) ++ resBytes b (o + 0x340) 192)

/-- The first of several checks that failed. -/
def orFail : List Fail → Fail
  | [] => none
  | some x :: _ => some x
  | none :: t => orFail t

/-- R84 for an image carried by mailbox `n`; a link may form a port if its slot's position is not in PRESENT, or it is one of L84-L95 (R420;
log entry 67). -/
def checkCfg (s : State) (n : Nat) (b : List Byte) : Fail :=
  let free (l : Nat) : Bool := match facing s l with
    | some (q, _) => !bitAt (fld b 0x1044 1) q
    | none => decide (l < 96)
  let r := decodePart (slice b (partOff (n / 16)) 256)
  orFail [checkImage b, checkInactive b, checkClaims b, checkRanges s.ident b, checkShares b, checkLinks b s.rst.groupPos free,
    if ownerIn (vfExists s) r (n % 16) == ownerOf s n then none else some (0x0105, n)]

/-! ### Slot tables (R98) -/

/-- The lowest index of the greatest of a list of integers. -/
def argMax (l : List Int) : Nat := (findIx (fun x => l.all fun y => decide (y ≤ x)) l).getD 0

/-- `n` more slots of a table from the current values. -/
def slotSteps (w : List Int) : Nat → List Int → List Nat
  | 0, _ => []
  | n + 1, cur =>
    let cur := List.zipWith (· + ·) cur w
    let win := argMax cur
    win :: slotSteps w n (modAt cur win (· - 256))

/-- The table of 256 slots of the shares of the sixteen partitions. -/
def buildTable (w : List Nat) : List Nat :=
  let w17 := fit16 w
  slotSteps ((w17 ++ [256 - natSum w17]).map Int.ofNat) 256 (List.replicate 17 0)
where
  fit16 (l : List Nat) : List Nat := (List.range 16).map fun i => (l[i]?).getD 0

/-- Shares on a path of the configuration: 0 DRAM, 1 fabric, 2 PCIe out, 3 PCIe in, 4 Sage. -/
def pathShare (r : PartRec) : Nat → Nat
  | 0 => r.shDram.toNat
  | 1 => r.shFabric.toNat
  | 2 => r.shPcieOut.toNat
  | 3 => r.shPcieIn.toNat
  | _ => r.shSage.toNat

/-- The slot table of a regulator of a configuration: paths 0 to 4, then 8 + q for the trunk to position q (R432). -/
def cfgTable (c : Cfg) (k : Nat) : List Nat :=
  buildTable ((List.range 16).map fun p =>
    let r := tget partRecNone c.parts p
    if !r.active then 0 else if k < 8 then pathShare r k else ((c.links.shTrunk[p]?).getD 0).toNat)

/-- Every regulator loads its table (R90 step 10). -/
def loadTables (t : Tbl Regulator) (c : Cfg) : Tbl Regulator :=
  [0, 1, 2, 3, 4, 8, 9, 10, 11, 12, 13, 14, 15].foldl (fun t k => tmod regulatorReset t k fun r => { r with table := cfgTable c k }) t

end Sys2Proof.Machine
end

