-- ==== Sys2Proof/Machine/Partitions.lean ====
section
/-! DEFINITION. Partitions: resets (R87), keys and clearing (R81, R90), applying a configuration (R86, R89-R92), the PRT registers (R103)
and the PART class (R85). -/

namespace Sys2Proof.Machine

def updPrt (s : State) (f : Prt → Prt) : State := { s with prt := f s.prt }

/-! ### Resetting a partition (R87, R449) -/

/-- The blocks a partition owns, as TYPE and INDEX (R449, R456): its clusters, its engines, and the channels of its die groups. -/
def ownedBlocks (s : State) (p : Nat) : List (Nat × Nat) :=
  let r := prec s p
  if !r.active then [] else
    (((List.range 32).filter fun c => r.clusters.getLsbD c).map fun c => (0, c)) ++
    (((List.range 64).filter fun e => r.engines.getLsbD e).map fun e => (1, e)) ++
    (((List.range 128).filter fun h => r.dieGroups.getLsbD (h / 4)).map fun h => (2, h))

/-- A block that a partition reset reaches: a cluster's cache is cleaned before the cluster is reset (R449, R455; log entry 111). -/
def resetOwned (s : State) (b : Nat × Nat) : State :=
  blockInit (if b.1 = 0 then flushCache s ⟨b.2 % 32, by omega⟩ else s) b.1 b.2

/-- A partition reset as the PART source (R449): its jobs, runs and requests, the blocks it owns, its mailboxes but `keep`, its VF controller. -/
def resetPart (s : State) (p : Nat) (keep : Option (Fin 256)) : State :=
  let s := updRst s fun r => { r with partSeen := r.partSeen ||| BitVec.twoPow 16 p }
  let s := (ownedBlocks s p).foldl resetOwned (resetJobs s p)
  let s := ((mbsOf p).filter fun n => keep != some n).foldl resetMailbox s
  let v := (prec s p).vf.toNat
  if v != 0 && vfExists s v then resetCtrl s v else s

/-- PART_RESET. -/
def execPartReset (r : ReqId) (s : State) : Res :=
  runReq s r 2 3 fun s x =>
    let p := prm x 0x20 1
    if p = reqPart r then finish s r (ansErr 0x0018 0x20)
    else finish (resetPart (commit s r) (p % 16) none) r (ansOk 0)

/-! ### Keys and clearing (R81, R90 steps 5-9) -/

/-- DRAM of a slice reads under a new key what it holds under the old one: every line that holds data reads as no one knows what. -/
def rekeySlice (s : State) (key k : Nat) : State :=
  let lo := k * 0x000400000000
  let lines := ((s.mem.filter fun c => lo ≤ c.1 && c.1 < lo + 0x000400000000).map fun c => c.1 / 64).eraseDups
  lines.foldl (fun s l => { s with mem := mwrite s.mem (l * 64) (fit (Config.rekeyedLine key l) 64) }) s

/-- A range of DRAM reads as zero, and no cache holds a line of it. -/
def clearDram (s : State) (a n : Nat) : State := clearRange ((trackedLines s a n).foldl ncDropLine s) a n

/-- A DRAM slice, a root store segment, a cluster's store cleared. -/
def clearSlice (s : State) (k : Nat) : State := clearDram s (k * 0x000400000000) 0x000400000000
def clearSegment (s : State) (g : Nat) : State := clearRange s (rootBase + g * 0x01000000) 0x01000000
def clearCluster (s : State) (c : Nat) : State := clearRange (dropCache s c) (storeBase c) storeLen

/-- A die group's map, fragments and checkpoint are dropped: pages written before count no more (R90 step 9). -/
def dropGroup (s : State) (g : Nat) : State :=
  let s := { s with ftl := { s.ftl with map := s.ftl.map.filter fun e => aGroup e.2 != g } }
  updGrp s g fun x => { x with frags := [], ckptMap := [], ckptFrags := [], ckptSeq := x.seq, journal := 0 }

/-- A partition's services on flash, gone with its namespaces: sources and catalogues, indexes, objects (log entry 47). -/
def dropServices (s : State) (p : Nat) : State :=
  { s with
    ing := { s.ing with parts := tmod ingPartReset s.ing.parts p fun a => { a with sources := [], gens := [], reuse := [] } }
    srch := { s.srch with indexes := s.srch.indexes.filter fun x => x.1 / 65536 != p }
    tie := { s.tie with objs := s.tie.objs.filter fun x => x.1 / 65536 != p || oVolatile x.2 } }

/-- Commands of controller 0 that name a namespace about to be deleted and are not past their commit point end (R89). -/
def failCtrl0 (s : State) (gone : Nat → Bool) : State :=
  ((ctrl s 0).cmds.filter fun c => !c.committed && c.done.isNone && gone (sqNsid c.sqe)).foldl (fun s c => nDone s c.key stNs) s

/-- Namespaces of a partition. -/
def partNss (s : State) (p : Nat) : List Nat := (s.ftl.nss.map (·.1)).filter fun n => nsPart n == p

/-- Every namespace of a partition is deleted. -/
def dropNamespaces (s : State) (p : Nat) : State :=
  if (partNss s p).isEmpty then s
  else dropServices ((partNss s p).foldl deleteNs (failCtrl0 s fun n => nsPart n == p && n != 0xFFFFFFFF)) p

/-- New keys for a partition: the old ones are erased, its namespaces deleted, its DRAM unreadable (R81). -/
def newKeys (s : State) (p : Nat) : State :=
  let n := s.prt.keyCount
  let s := updPrt s fun t => { t with keyCount := n + 2 }
  let s := updPst s p fun x => { x with keyGen := x.keyGen + 1, flashKey := n + 1, dramKey := n + 2 }
  let s := dropNamespaces s p
  ((List.range 30).filter fun k => (prec s p).dramSlices.getLsbD k).foldl (fun s k => rekeySlice s (n + 2) k) s

/-! ### Affected partitions and their work (R89) -/

/-- A partition is affected by a configuration. -/
def isAffected (old new : PartRec) (newKey : Bool) : Bool :=
  old.active != new.active || old.sealedP != new.sealedP || old.vf != new.vf || old.pfMailboxes != new.pfMailboxes ||
    old.clusters != new.clusters || old.dieGroups != new.dieGroups || old.dramSlices != new.dramSlices || old.engines != new.engines ||
    old.rootSegs != new.rootSegs || newKey

/-- The affected partitions, a bit each. -/
def affectedBits (s : State) (c : Cfg) (nk : Half) : Half :=
  BitVec.ofNat 16 (natSum ((List.range 16).map fun p =>
    bnat (isAffected (prec s p) (tget partRecNone c.parts p) (nk.getLsbD p)) * 2 ^ p))

/-- The partition's flash key changes (R81). -/
def keyChanges (old new : PartRec) (newKey : Bool) : Bool := (new.active && !old.active) || old.sealedP != new.sealedP || newKey

/-- The partition loses a die group; its namespaces are deleted by the configuration. -/
def losesGroup (old new : PartRec) : Bool := old.dieGroups &&& ~~~ new.dieGroups != 0
def nssGo (old new : PartRec) (newKey : Bool) : Bool := losesGroup old new || keyChanges old new newKey

/-- An affected partition has work, other than request `r`. -/
def hasWork (s : State) (r : ReqId) (p : Nat) (new : PartRec) (newKey : Bool) : Bool :=
  let old := prec s p
  let v := old.vf.toNat
  let ioQueue := v != 0 && ((ctrl s v).sqs.any fun q => q.1 != 0) || v != 0 && ((ctrl s v).cqs.any fun q => q.1 != 0)
  let cmd0 := nssGo old new newKey && (ctrl s 0).cmds.any fun c => (partNss s p).contains (sqNsid c.sqe)
  let jobs := s.sch.jobs.any fun x => x.2.part == p && (!x.2.clusters.isEmpty || !x.2.saved.isEmpty)
  let reqs := (mbsOf p).any fun n => (mbox s n.val).execs.any fun x => !(n == r.mb && isReq r x)
  let media := nssGo old new newKey && !(partNss s p).isEmpty
  ioQueue || cmd0 || jobs || reqs || media

/-! ### CONFIG_APPLY (R86, R90) -/

/-- CONFIG_READ. -/
def execConfigRead (r : ReqId) (s : State) : Res :=
  answer s r 2 1 fun s _ => ansOk s.prt.cfg.epoch.toNat (encodeCfg s s.prt.cfg 0)

/-- The configuration record is queued or being written. -/
def recordQueued (s : State) : Bool :=
  let isCfg (o : FwOp) : Bool := match o with
    | .append k _ => k == 2
    | _ => false
  s.fw.ops.any isCfg || (match s.fw.cur with
    | some (.op o) => isCfg o
    | _ => false)

/-- Committed requests of affected partitions that step 3 waits for, besides `r`. -/
def waitsCommitted (s : State) (r : ReqId) (aff : Half) : Bool :=
  (List.range 16).any fun p => aff.getLsbD p && (mbsOf p).any fun n => (mbox s n.val).execs.any fun x => x.committed && !(n == r.mb && isReq r x)

/-- The controller of an affected partition's VF is still in its reset: commands past their commit point have not finished (R361). -/
def waitsCtrls (s : State) (aff : Half) : Bool :=
  (List.range 16).any fun p => aff.getLsbD p && (ctrl s (prec s p).vf.toNat).resetting && (prec s p).vf != 0

/-- Steps 3 and 4 of R90: once the committed requests and commands have run, the record is written. -/
def writeRecord (s : State) (r : ReqId) (a : Applying) : State :=
  if a.written || recordQueued s || waitsCommitted s r a.affected || waitsCtrls s a.affected then s else queueAppend s 2 (encodeCfg s a.img a.newKeys)

/-- CONFIG_APPLY: the checks, the resets FORCE asks for, and the record. One accepted while another executes, or under an earlier configuration,
which another has replaced since, completes with PART_APPLYING (R86). -/
def execConfigApply (r : ReqId) (s : State) : Res :=
  runReq s r 2 2 fun s x =>
    match s.prt.applying with
    | some a => if a.req == some r then writeRecord s r a else finish s r (ansErr 0x0107)
    | none =>
      if x.applying || x.cfg.epoch != s.prt.cfg.epoch then finish s r (ansErr 0x0107)
      else if s.prt.cfg.epoch == 0xFFFFFFFF then finish s r (ansErr 0x0106)
      else
        withIn s r x fun s b =>
          match checkCfg s r.mb.val b with
          | some (st, d) => finish s r (ansErr st d)
          | none =>
            let c := decodeCfg b (s.prt.cfg.epoch.toNat + 1)
            let nk := newKeysOf b
            let aff := affectedBits s c nk
            let force := bitAt (prm x 0x20 4) 0
            let busy := natSum ((List.range 16).map fun p =>
              bnat (aff.getLsbD p && hasWork s r p (tget partRecNone c.parts p) (nk.getLsbD p)) * 2 ^ p)
            if !force && busy != 0 then finish s r (ansErr 0x0104 busy)
            else
              let a : Applying := { req := some r, img := c, newKeys := nk, affected := aff, force, written := false }
              let s := updPrt s fun t => { t with applying := some a }
              let s := if force then ((List.range 16).filter fun p => aff.getLsbD p).foldl (fun s p => resetPart s p (some r.mb)) s else s
              writeRecord s r a

/-- The owner of each of `n` units named by a bit of a record. -/
def unitOwner (c : Cfg) (f : PartRec → Nat) (i : Nat) : Option Nat :=
  (List.range 16).find? fun p => (tget partRecNone c.parts p).active && bitAt (f (tget partRecNone c.parts p)) i
def unitsMoved (old new : Cfg) (f : PartRec → Nat) (n : Nat) : List Nat := (List.range n).filter fun i => unitOwner old f i != unitOwner new f i

/-- Steps 5 to 9 of R90 for a change of configuration (log entry 48: at activation, at once). -/
def moveUnits (s : State) (new : Cfg) (nk : Half) : State :=
  let old := s.prt.cfg
  let rec' (c : Cfg) (p : Nat) : PartRec := tget partRecNone c.parts p
  let s := (List.range 16).foldl (fun s p =>
    if keyChanges (rec' old p) (rec' new p) (nk.getLsbD p) then newKeys s p
    else if losesGroup (rec' old p) (rec' new p) then dropNamespaces s p else s) s
  let s := (unitsMoved old new (·.clusters.toNat) 32).foldl clearCluster s
  let s := (unitsMoved old new (·.rootSegs.toNat) 32).foldl clearSegment s
  let s := (unitsMoved old new (·.dramSlices.toNat) 30).foldl clearSlice s
  (unitsMoved old new (·.dieGroups.toNat) 32).foldl dropGroup s

/-- The partitions whose namespaces a configuration deletes. -/
def losingNss (s : State) (a : Applying) : List Nat :=
  (List.range 16).filter fun p => nssGo (prec s p) (tget partRecNone a.img.parts p) (a.newKeys.getLsbD p)

/-- A command past its commit point that names a namespace to be deleted has not finished: it finishes before its namespace goes. -/
def waitsWrites (s : State) (a : Applying) : Bool :=
  s.nvm.ctrls.any fun c => c.2.cmds.any fun y =>
    y.key.sq != 0 && y.committed && y.done.isNone && (losingNss s a).contains (nsPart (sqNsid y.sqe)) && sqNsid y.sqe != 0

/-- Attachments that the new configuration does not allow end, with a change of the controller's namespaces (R360, R374). -/
def detachGone (s : State) : State :=
  s.ftl.nss.foldl (fun s x =>
    ((List.range 17).filter fun c => x.2.attached.getLsbD c && !mayAssign s x.1 c).foldl (fun s c =>
      nsChanged x.1 (updNs s x.1 fun y => { y with attached := y.attached &&& ~~~ (BitVec.twoPow 17 c) }) c) s) s
where
  /-- R360's list; a VF that is assigned and does not exist keeps its attachments (R95). -/
  mayAssign (s : State) (ns c : Nat) : Bool :=
    (c == 0 && !isSealed s (nsPart ns)) || (c != 0 && (prec s (nsPart ns)).vf.toNat == c)

/-- Step 10 of R90: the configuration is active; affected partitions' consent ends and their budget clocks start again (R101, R103). -/
def activate (s : State) (new : Cfg) (aff : Half) : State :=
  let before := s
  let s := tiersLost before (updPrt s fun t => { t with cfg := new, loaded := true, applying := none, regs := loadTables t.regs new })
  let s := ((List.range 16).filter fun p => aff.getLsbD p).foldl (fun s p => updPst s p fun x => { x with consent := false, budget := 0 }) s
  let s := { s with klv := { s.klv with cfgEpoch := new.epoch } }
  let s := detachGone (settleReadOnly (applyLinks before (ownerChange before s)))
  healthWatch (eventAll s 0x0001 (new.epoch.toNat % 65536))

/-- CONFIG_ACTIVATE: once the record is written and writes to namespaces that go have finished, at a frame boundary of the I/O-die fabric, the change is made and takes effect; the request
completes, and a record that carries the same epoch marks the activation (R90 steps 5-11, R484; log entry 48). -/
def execConfigActivate (s : State) : Res :=
  match s.prt.applying with
  | none => .next s
  | some a =>
    if !a.written || (tget regulatorReset s.prt.regs 1).pos != 0 || waitsWrites s a then .next s
    else
      let s := activate (moveUnits s a.img a.newKeys) a.img a.affected
      let s := queueAppend s 2 (encodeCfg s a.img 0)
      match a.req with
      | some r => .next (finish s r (ansOk a.img.epoch.toNat))
      | none => .next s

/-! ### PRT registers (R103) and the rest of the class -/

/-- PRT_STATE.APPLYING: a CONFIG_APPLY has been accepted and executes, or an interrupted one is being completed (R90 step 1, R103). -/
def isApplying (s : State) : Bool := s.prt.applying.isSome || applyAccepted s

/-- The isolation promise's conditions hold (R104). -/
def promiseHeld (s : State) : Bool := s.prt.fwSigned && s.dbg.locked && !isApplying s && s.prt.inEnvelope

/-- A register of the PRT block by its offset. -/
def prtReg (s : State) (off : Nat) : Nat :=
  if off = 0 then (if s.prt.loaded then s.prt.cfg.epoch.toNat else 0)
  else if off = 4 then
    bnat (isApplying s) + 2 * bnat s.prt.fwSigned + 4 * bnat s.dbg.locked + 8 * bnat s.prt.inEnvelope + 16 * bnat (promiseHeld s)
  else if off = 8 then s.prt.throttle.toNat
  else if 0x100 ≤ off && off < 0x500 then
    let p := (off - 0x100) / 0x40
    match (off - 0x100) % 0x40 with
    | 0 => bnat (s.prt.loaded && isActive s p) + 2 * bnat (s.prt.loaded && isSealed s p) + 4 * bnat (pst s p).consent
        + 8 * bnat ((s.prt.applying.map fun a => a.affected.getLsbD p).getD false)
    | 4 => (pst s p).keyGen.toNat
    | 8 => (pst s p).budget.toNat % 2 ^ 32
    | 0xC => (pst s p).budget.toNat / 2 ^ 32
    | 0x10 => (pst s p).waitMax.toNat
    | 0x14 => (pst s p).lent.toNat
    | 0x18 => (pst s p).borrowed.toNat
    | _ => 0
  else 0

/-- The effect of reading a register of the PRT block: read-clear fields clear (R18). -/
def prtClear (s : State) (off : Nat) : State :=
  if off = 8 then updPrt s fun t => { t with throttle := 0 }
  else if 0x100 ≤ off && off < 0x500 then
    let p := (off - 0x100) / 0x40
    match (off - 0x100) % 0x40 with
    | 0x10 => updPst s p fun x => { x with waitMax := 0 }
    | 0x14 => updPst s p fun x => { x with lent := 0 }
    | 0x18 => updPst s p fun x => { x with borrowed := 0 }
    | _ => s
  else s

/-- READ_STATE returns the block, as reads of its registers (log entry 49). -/
def execReadState (r : ReqId) (s : State) : Res :=
  runReq s r 2 4 fun s _ =>
    let bs := (List.range 320).flatMap fun i => leBytes 4 (prtReg s (4 * i))
    (List.range 320).foldl (fun s i => prtClear s (4 * i)) (finish s r (ansOk 1280 bs))

/-- A regulator by its number. -/
def regOf (s : State) (k : Nat) : Regulator := tget regulatorReset s.prt.regs k

/-- SLOT_TABLE. -/
def execSlotTable (r : ReqId) (s : State) : Res :=
  answer s r 2 5 fun s x => ansOk 256 ((regOf s (prm x 0x20 1)).table.map fun q => BitVec.ofNat 8 q)

/-! ### Regulators (R98-R101, R462, R543) -/

def pathIx : Path → Nat
  | .dram => 0
  | .fabric => 1
  | .pcieOut => 2
  | .pcieIn => 3
  | .sage => 4
  | .trunk q => 8 + q.val

/-- A frame of the fabric is withheld at a level (R462). -/
def withheldAt (level frame : Nat) : Bool := decide (bitRev 4 (frame % 16) < level)

/-- The level of withholding in force (R462). -/
def throttleLevel (s : State) : Nat := max s.pwr.pLevel s.pwr.tLevel

/-- The next waiting partition that is not sealed, after the one last lent to, in rotating order (R99). -/
def nextLend (s : State) (r : Regulator) (waiting : BitVec 16) : Option Nat :=
  ((List.range 16).map fun i => (r.lastLent + 1 + i) % 16).find? fun q => waiting.getLsbD q && isActive s q && !isSealed s q

/-- Who waits for the system's slots, in order of arrival (R543): those still waiting keep their places, those newly waiting come after them,
the system's own work first (log entry 110). -/
def sysWaiting (s : State) (r : Regulator) (waiting : BitVec 16) (sys : Bool) : List Nat :=
  let wants (q : Nat) : Bool := if q = 16 then sys else waiting.getLsbD q && !isActive s q
  let still := r.sysQ.filter wants
  still ++ ((16 :: List.range 16).filter fun q => wants q && !still.contains q)

/-- Who is granted a slot of an owner: a partition's traffic, 16 for the system's own work, or no one (R99, R543: the traffic of inactive
partitions takes system slots only). -/
def grantee (s : State) (r : Regulator) (owner : Nat) (waiting : BitVec 16) (sys : Bool) : Option Nat :=
  if owner < 16 then
    (if waiting.getLsbD owner then some owner else if isSealed s owner then none else nextLend s r waiting)
  else match sysWaiting s r waiting sys with
    | q :: _ => some q
    | [] => nextLend s r waiting

/-- Counts of a grant: lent and borrowed slots. A system slot, and a slot of a trunk's regulator, count in BORROWED like any slot that is not the
partition's own (log entry 110); the traffic of an inactive partition borrows nothing. -/
def countGrant (s : State) (owner : Nat) (g : Option Nat) : State :=
  match g with
  | none => s
  | some q =>
    if q = owner || q = 16 || !isActive s q then s
    else
      let s := if owner < 16 then updPst s owner fun x => { x with lent := satInc x.lent } else s
      updPst s q fun x => { x with borrowed := satInc x.borrowed }

/-- Waits of partitions that wait: those not granted have waited one slot more. -/
def stepWaits (w : Tbl Nat) (waiting : BitVec 16) (g : Option Nat) : Tbl Nat :=
  (List.range 16).foldl (fun t q => if waiting.getLsbD q && g != some q then tput t q (tget 0 w q + 1) else t) []

/-- The longest waits of fabric requests (R103). -/
def countWaits (s : State) (w : Tbl Nat) : State :=
  w.foldl (fun s x => updPst s x.1 fun y => { y with waitMax := BitVec.ofNat 16 (min 0xFFFF (max y.waitMax.toNat x.2)) }) s

/-- REGULATOR_SLOT: at a frame's first fabric slot the level decides whether the frame is withheld; in a withheld frame no path grants; else
the slot is granted, and a fabric slot advances its owner's budget clock and the watchdogs of its contexts (R249). -/
def execRegulatorSlot (p : Path) (waiting : BitVec 16) (sys : Bool) (s : State) : Res :=
  let k := pathIx p
  let r := regOf s k
  let fabric := k == 1
  let starts := fabric && r.pos == 0
  let held := if starts then withheldAt (throttleLevel s) r.frame else (regOf s 1).withheld
  let owner := (r.table[r.pos]?).getD 16
  let g := if held then none else grantee s r owner waiting sys
  let s := if starts && held then updPrt s fun t => { t with throttle := satInc t.throttle } else s
  let s := if fabric && !held && owner < 16 then wdAdvance (updPst s owner fun x => { x with budget := x.budget + 1 }) owner else s
  let s := countGrant s owner g
  let lent := match g with
    | some q => if q < 16 && q != owner && isActive s q then q else r.lastLent
    | none => r.lastLent
  let queue := sysWaiting s r waiting sys
  let waits := stepWaits r.waits waiting g
  let s := if fabric then countWaits s waits else s
  let r' : Regulator :=
    { r with pos := (r.pos + 1) % 256, frame := if r.pos = 255 then r.frame + 1 else r.frame
             withheld := if fabric then held else r.withheld, lastLent := lent, waits
             sysQ := if !held && 16 ≤ owner then queue.tail else queue }
  .next (updPrt s fun t => { t with regs := tput t.regs k r' })

end Sys2Proof.Machine
end

