-- ==== Sys2Proof/Machine/Resets.lean ====
section
/-! DEFINITION. Module-level resets (R448-R454): what each source resets, overlaps, the exit, the watchdog, and losses of clock (R443, R445).
Reset takes effect at the assertion and again at the exit, so that nothing done while a source was asserted remains. -/

namespace Sys2Proof.Machine

/-! ### What a source resets (R449) -/

/-- CK00: the timestamp, RST_CAUSE but for the halt bits, the power monitor, REF_LOST, the losses of lock and the sideband counts
(log entry 69); PWR_TRIPS is kept. -/
def resetCk00 (s : State) : State :=
  { s with
    ts := 0
    klv := { s.klv with incarnation := 1, started := false }
    ras := { s.ras with poison := [] }
    clk := { s.clk with refLost := false, unlocks := 0 }
    dbg := { s.dbg with tapIr := 0x02, resp := 0 }
    prt := { s.prt with parts := s.prt.parts.map fun x => (x.1, { x.2 with consent := false }) }
    pwr := { pwrReset with trips := s.pwr.trips, inlet := s.pwr.inlet, outlet := s.pwr.outlet, tj := s.pwr.tj }
    rst := { s.rst with
      cause := s.rst.cause &&& 0x60, partSeen := 0, exitTs := 0, sbGlitch := [], sbDropped := [], sbLast := [], sbRecent := [], tsSync := 0 } }

/-- Straps, loops and sideband masks; loops unlock, and every die is at point 0 again; REF_LOST and the losses of lock counted stay (log entry 69). -/
def resetStraps (s : State) : State :=
  { s with
    clk := { clkReset with source := s.clk.source, refLost := s.clk.refLost, unlocks := s.clk.unlocks }
    pwr := { s.pwr with pPoint := 0, tPoint := [], envSince := none }
    prt := { s.prt with inEnvelope := false }
    rst := { s.rst with sbMask := 0, sbRecent := [] } }

/-- PCIe configuration space, power state and cap. -/
def resetPcie (s : State) : State :=
  { s with prt := { s.prt with vfEnable := false, numVFs := 0 }, nvm := { s.nvm with ps := 0, lastOp := 0, cap := 1800 } }

/-- The firmware store controller stops: what it does is cut off, and nothing waits any more (R473, R479). -/
def stopStore (s : State) : State :=
  updFw (cutStoreOp s) fun f => { f with ops := [], job := none, cur := none, suspended := false, waits := [], warmAsked := false, loadSigned := none }

/-- Volatile state of the security engine; the firmware store controller. -/
def resetSecurity (s : State) : State :=
  updFw { stopStore s with dbg := { s.dbg with locked := true, challenge := none } } fun f => { f with
    busyHit := false, xoHit := false, busyReads := 0, xoReads := 0, brownOut := false }

/-- A controller whose Sage restarts: logs of errors and of self-tests are kept. -/
def ctrlAfter (x : Ctrl) : Ctrl := { ctrlReset with errLog := x.errLog, errCount := x.errCount, stResults := x.stResults }

/-- DRAM keys are made anew for every active partition; KEY_GEN does not count them (log entry 50). -/
def renewDramKeys (s : State) : State :=
  (List.range 16).foldl (fun s p =>
    if isActive s p then
      updPst { s with prt := { s.prt with keyCount := s.prt.keyCount + 1 } } p fun x => { x with dramKey := s.prt.keyCount + 1 }
    else s) s

/-- Sage, Tilir, mailboxes, controllers, DRAM contents, clusters, Fennel, Dill, channels and link MACs. What is on flash is kept: objects
but VOLATILE ones, indexes, sources and catalogues. -/
def resetSage (s : State) : State :=
  let s := (List.range 17).foldl (fun s f => endSelfTest s f 2 0) s
  let mem := (List.range 32).foldl (fun m c => mclear m (storeBase c) storeLen) (mclear s.mem 0 dramEnd)
  let obj (o : Obj) : Obj := { o with t1 := [], root := [], mdirty := [], promotes := [] }
  let group (g : Group) : Group := { g with st := 0, folding := false, reclaiming := false, ops := [], soft := 0, recov := 0, uncorr := 0, rewrites := 0 }
  renewDramKeys { s with
    mem
    klv := { s.klv with mbs := [], cfgEpoch := 0, turn := [] }
    clus := [], slots := []
    arrs := (s.arrs.filter fun x => x.2.failed || x.2.fails != 0).map fun x => (x.1, { arrReset with failed := x.2.failed, fails := x.2.fails })
    coh := cohReset
    sch := schReset
    tie := { tieReset with objs := (s.tie.objs.filter fun x => !oVolatile x.2).map fun x => (x.1, obj x.2), gens := s.tie.gens }
    ing := { parts := s.ing.parts.map fun x => (x.1, { ingPartReset with
               sources := x.2.sources, reuse := x.2.reuse, lastGen := x.2.lastGen, gens := x.2.gens }), engines := [] }
    srch := { s.srch with indexes := s.srch.indexes.map fun x => (x.1, { x.2 with merging := none, held := [] }), parts := [], chans := [], runs := [] }
    lnk := lnkReset
    ras := { rasReset with poison := s.ras.poison.filter fun x => rootBase ≤ x.1 * 64, repairs := s.ras.repairs, dxFree := s.ras.dxFree }
    ftl := { s.ftl with energy := 0, measured := false, pins := [], claims := s.ftl.claims.filter fun c => c.kind != 4, cache := [], chans := [], groups := s.ftl.groups.map fun x => (x.1, group x.2) }
    nvm := { s.nvm with ctrls := s.nvm.ctrls.map fun x => (x.1, ctrlAfter x.2), order := 0, fwImage := [], fwEnd := 0 }
    dbg := { s.dbg with stalled := false, halted := 0, haltedAt := [], cores := [], reserved := [] }
    mi := miReset
    prt := { s.prt with
      loaded := false, applying := none, regs := [], throttle := 0, fwSigned := false
      parts := s.prt.parts.map fun x => (x.1, { x.2 with budget := 0, waitMax := 0, lent := 0, borrowed := 0 }) }
    rst := { s.rst with
      sage := false, ready := false, released := false, blkIndex := 0, blkType := 0, blkBusy := false, blkTimedOut := false
      blkTimeout := 1000, blkFenced := 0 } }

/-- Everything in the reach of a source of a rank (R449). -/
def resetReach (s : State) (rank : Nat) : State :=
  let s := if rank ≤ 2 then resetStraps s else s
  let s := if rank ≤ 3 then resetPcie s else s
  let s := if rank ≤ 4 then resetSecurity s else s
  let s := resetSage s
  if rank = 1 then { s with mem := mclear s.mem rootBase rootLen } else s

/-! ### Assertion and overlaps (R451, R453) -/

/-- RST_CAUSE bit of a rank. -/
def causeBit (rank : Nat) : BitVec 7 := BitVec.ofNat 7 (2 ^ (rank - 1))

/-- A source of a rank takes part in the overlap: W, RST_CAUSE and WIDEST follow, and its reach is reset. -/
def assertSource (s : State) (rank : Nat) : State :=
  let s := if rank = 1 then resetCk00 s else s
  let s := resetReach s rank
  let s := { s with nvm := { s.nvm with nssro := false } }
  updRst s fun r =>
    let w := if r.active then min r.w rank else rank
    { r with active := true, w, widest := w, cause := r.cause ||| causeBit rank }

/-- While the module is halted under R465, every source but POR and MOD_RST_N is ignored. -/
def ignored (s : State) : Bool := s.rst.halt == .thermal

def assertPor (s : State) : State := assertSource (updRst s fun r => { r with por := true, inRange := 0 }) 1
/-- WARM and WDT are held for 100 us (R448). -/
def assertWarm (s : State) : State :=
  if ignored s then s else updRst (assertSource (updRst s fun r => { r with warm := true }) 4) fun r => { r with heldAt := now s }
def assertWdt (s : State) : State :=
  if ignored s then s else updRst (assertSource (updRst s fun r => { r with wdt := true }) 5) fun r => { r with heldAt := now s }

/-- POR_ASSERT: the power monitor asserts POR. -/
def execPorAssert (s : State) : Res := .next (assertPor s)

/-- A level input's filtered level (R467, R468): its bit in RST_SB_STATE. -/
def setLevel (s : State) (i : Nat) (high : Bool) : State :=
  updRst s fun r => { r with sbLevel := if high then r.sbLevel ||| BitVec.ofNat 5 (2 ^ i) else r.sbLevel &&& ~~~ (BitVec.ofNat 5 (2 ^ i)) }
def sbHigh (s : State) (i : Nat) : Bool := s.rst.sbLevel.getLsbD i

/-- A pulse shorter than 1 us is counted (R468). -/
def countGlitch (s : State) (i : Nat) : State := updRst s fun r => { r with sbGlitch := tput r.sbGlitch i (satInc (tget 0 r.sbGlitch i)) }

/-- A sideband input: a short pulse is counted; a level is taken and `f` acts on its change. -/
def sideband (i : Nat) (e : SbEvent) (s : State) (f : State → Bool → State) : Res :=
  match e with
  | .glitch => .next (countGlitch s i)
  | .level high => if sbHigh s i == high then .next s else .next (f (setLevel s i high) high)

/-- MOD_RST_N: low asserts, high releases. -/
def execModRstN (e : SbEvent) (s : State) : Res :=
  sideband 0 e s fun s high =>
    if high then updRst s fun r => { r with modRst := false }
    else assertSource (updRst s fun r => { r with modRst := true }) 2

/-- PERST_N. -/
def execPerstN (e : SbEvent) (s : State) : Res :=
  sideband 1 e s fun s high =>
    if high then updRst s fun r => { r with perst := false }
    else if ignored s then s
    else assertSource (updRst s fun r => { r with perst := true }) 3

/-- WARM: the source follows a CAL WARM_RESET (R487); NSSR and R483 assert it themselves. -/
def execWarm (s : State) : Res := if s.fw.warmAsked then .next (assertWarm (updFw s fun f => { f with warmAsked := false })) else .next s

/-- NSSR: NVMe on controller 0 asserts WARM (R362); CSTS.NSSRO tells of it afterwards (log entry 23). -/
def execNssr (fn : Fn) (v : Word) (s : State) : Res :=
  if fn.val = 0 && v == 0x4E564D65 && !s.rst.active && !ignored s then
    let s := assertWarm s
    .next { s with nvm := { s.nvm with nssro := true } }
  else .next s

/-- WDT: no kick for 2.0 s since the last kick or halt (R454); WARM in its place while the running block is in trial (R483). -/
def execWdt (s : State) : Res :=
  if !s.rst.sage || s.rst.active || s.dbg.halted != 0 then .next s
  else
    let s := reach s (s.rst.kickAt + 2000000000)
    .next (if s.fw.trial then assertWarm s else assertWdt s)

/-- KICK: RST_WDT written (R454). -/
def kickWrite (s : State) (v : Word) : State := if v.getLsbD 0 then updRst s fun r => { r with kickAt := now s } else s
def execKick (v : Word) (s : State) : Res := .next (kickWrite s v)

/-! ### Pins and transmitters (R28, R450, R458) -/

/-- The output pins are driven: no module-level source is asserted and Tilir has loaded the active configuration; high-impedance otherwise. FAULT_N
alone is driven in every reset (R526). PART and BLOCK change nothing here. -/
def pinsDriven (s : State) : Bool := s.rst.released && !s.rst.active

/-- The PCIe transmitters are not in electrical idle: they leave it in the exit sequence, before Sage is released (R452, R458). A link's transmitter
is `transmits`. -/
def pcieTransmits (s : State) : Bool := !s.rst.active && s.rst.halt == .no

/-! ### Exit (R451, R452) -/

/-- Straps as the pins stand (R27, R457). -/
def sampleStraps (s : State) : State :=
  let p := s.rst.strapPins.toNat
  { s with
    rst := { s.rst with bootSel := bits p 1 0, clkMode := bitAt p 2, groupPos := bits p 5 3 }
    clk := { s.clk with source := bitAt p 2 } }

/-- The sensors are below 95.0 degrees, which ends a halt of R465. -/
def isCool (s : State) : Bool := s.pwr.tj.all fun x => decide (x.2 < 950)

/-- RESET_EXIT: once every source is released, WARM and WDT after their 100 us, the exit sequence of W runs to the release of Sage; a
module halted by heat waits until it is cool, and a PERST_N still low then asserts. -/
def execResetExit (s : State) : Res :=
  if !s.rst.active || s.rst.por || s.rst.modRst || s.rst.perst then .next s
  else if s.rst.halt == .thermal && !isCool s then .next s
  else
    let s := if s.rst.warm || s.rst.wdt then reach s (s.rst.heldAt + 100000) else s
    let s := updRst s fun r => { r with warm := false, wdt := false, halt := .no }
    if !sbHigh s 1 then .next (assertSource (updRst s fun r => { r with perst := true }) 3)
    else
      let s := resetReach s s.rst.w
      let s := if s.rst.w ≤ 2 then sampleStraps s else s
      let s := applyRepairs s fun x => x.kind != 4 || decide (s.rst.w ≤ 2)
      let s := { s with clk := { s.clk with locked := 0x3FFFF } }
      .next (updRst s fun r => { r with active := false, sage := true, exitTs := s.ts, kickAt := now s })

/-! ### Clocks (R443, R445) -/

/-- Blocks of R456 clocked by a domain: the clusters of a die, tile movers, channels, link MACs, engines. -/
def domainBlocks (d : Nat) : List (Nat × Nat) :=
  if 2 ≤ d && d ≤ 5 then (List.range 8).map fun i => (0, 8 * (d - 2) + i)
  else if d = 10 then (List.range 8).map fun i => (4, i)
  else if d = 11 then (List.range 128).map fun i => (2, i)
  else if d = 15 then (List.range 96).map fun i => (3, i)
  else if d = 16 then (List.range 64).map fun i => (1, i)
  else []

/-- A loop loses lock: it is counted and logged; CK01 asserts WDT, a domain with blocks resets them, any other domain asserts WARM (R443;
log entry 51). CK00 has no loop. -/
def execPllLockLoss (d : Fin 18) (s : State) : Res :=
  if d.val = 0 || s.rst.active || !s.clk.locked.getLsbD d.val then .next s
  else
    let s := { s with clk := { s.clk with locked := s.clk.locked &&& ~~~ (BitVec.ofNat 18 (2 ^ d.val)), unlocks := satInc s.clk.unlocks } }
    let s := logErr s { source := 6, severity := 3, part := none, unit := d.val }
    if d.val = 1 then .next (assertWdt s)
    else
      match domainBlocks d.val with
      | [] => .next (assertWarm s)
      | l =>
        let s := l.foldl (fun s b => blockFence s b.1 b.2) s
        .next { s with clk := { s.clk with locked := s.clk.locked ||| BitVec.ofNat 18 (2 ^ d.val) } }

/-- REFCLK_LOST: with CLK_MODE 0, CK00 goes over to the local oscillator until the straps are sampled again (R445). -/
def execRefclkLost (s : State) : Res :=
  if s.rst.clkMode || s.clk.source then .next s else .next { s with clk := { s.clk with source := true, refLost := true } }

end Sys2Proof.Machine
end

