-- ==== Sys2Proof/Machine/Boot.lean ====
section
/-! DEFINITION. From the release of Sage to Klova ready (R482-R485), and recovery boot. -/

namespace Sys2Proof.Machine

/-! ### Selection (R482) -/

/-- A block that verifies, else the other with a SELECT that says so, else recovery. -/
def bootOrFall (s : State) (b : Nat) : State × Nat :=
  if blockVerifies s b then (s, b)
  else if blockVerifies s (1 - b) then (appendRec s 1 (selBytes (1 - b) b 0 0 1), 1 - b)
  else (s, 2)

/-- The block the boot loader chooses; every change of selection is one record appended. -/
def selectBlock (s : State) : State × Nat :=
  match s.rst.bootSel with
  | 3 => (s, 2)
  | 1 => (s, if blockVerifies s 0 then 0 else 2)
  | 2 => (s, if blockVerifies s 1 then 1 else 2)
  | _ =>
    let sel := selection s
    let a := fld sel 0 1
    let f := fld sel 1 1
    let n := fld sel 3 1
    if fld sel 2 1 != 1 then bootOrFall s a
    else if n = 0 then bootOrFall (appendRec s 1 (selBytes f a 0 0 1)) f
    else bootOrFall (appendRec s 1 (selBytes a f 1 (n - 1) 0)) a

/-- The running block is in trial: the selection in force names it, on trial, and was not overridden by the strap (R483). -/
def onTrial (s : State) (b : Nat) : Bool :=
  let sel := selection s
  s.rst.bootSel == 0 && fld sel 2 1 == 1 && fld sel 0 1 == b

/-- Sectors of the log without their marker that hold no record are erased again (R479). -/
def mendLog (s : State) : State :=
  ((List.range 64).filter fun i => !(sectorOf s i).erasedOk && !(s.fw.recs.any fun r => r.sector == i)).foldl (fun s i => queueOp s (.erase i)) s

/-! ### Steps 3 to 7 (R484) -/

/-- The governing configuration, whether its record carries its activation mark, and its NEW_KEYS bits (R484; log entry 56). -/
def storedCfg (s : State) : Cfg × Bool × Half :=
  match governing s 2 with
  | none => (factoryCfg s.ident s.rst.groupPos, true, 0)
  | some r =>
    let e := fld r.body 0xC 4
    (decodeCfg r.body e, configMarked s e || s.prt.cfg.epoch.toNat == e, newKeysOf r.body)

/-- The configuration loaded; steps 5 to 10 of R90 first if it was never activated (R92). -/
def loadCfg (s : State) : State :=
  let (c, marked, nk) := storedCfg s
  let aff := affectedBits s c nk
  let s := if marked then s else moveUnits s c nk
  let s := if marked then s else
    ((List.range 16).filter fun p => aff.getLsbD p).foldl (fun s p => updPst s p fun x => { x with consent := false, budget := 0 }) s
  let s := updPrt s fun t => { t with cfg := c, loaded := true, regs := loadTables t.regs c }
  let s := { s with klv := { s.klv with cfgEpoch := c.epoch } }
  if marked then s else queueAppend (detachGone s) 2 (encodeCfg s c 0)

/-- A group recovers its map; superblocks whose erase was cut off are erased again (R400, R401). -/
def startGroup (s : State) (g : Nat) : State :=
  let cut := ((grp s g).sbs.filter fun x => x.2.st == .erasing).map (·.1)
  let ops := cut.flatMap fun k => ((List.range 216).filter fun m => !(sbOf (grp s g) k).retired.contains m).map fun m =>
    ({ kind := .erase, die := m / 6, plane := m % 6, sb := k, page := 0, owner := none } : DieOp)
  recoverGrp (updGrp s g fun x => { x with ops := x.ops ++ ops }) g

/-- One chunk of a MAPPED object read from its frame; a faulty one is logged, and its lines are poisoned (log entry 57). -/
def reloadChunk (key : Nat) (o : Obj) (s : State) (c : Nat) : State :=
  let a := o.daddr + c * 65536
  match flashChunks s o [c] with
  | some (s, l) => l.foldl (fun s x => ncWrite s a x.2) s
  | none =>
    let s := logFrame s (oPart key) 0
    { s with ras := { s.ras with poison := (List.range 1024).foldl (fun t i => tput t (a / 64 + i) true) s.ras.poison } }

/-- MAPPED objects hold in DRAM again what their extents hold (R263). -/
def reloadObjects (s : State) : State :=
  s.tie.objs.foldl (fun s x =>
    if mappedHeld s x.1 x.2 then
      updObj ((List.range (objChunks x.2)).foldl (reloadChunk x.1 x.2) s) x.1 fun o => { o with mdirty := [] }
    else s) s

/-- FAILED arrays are those the governing ARRAY_STATE record names (R166, R477, R484). -/
def loadArrays (s : State) : State :=
  let body := ((governing s 4).map (·.body)).getD []
  (List.range 32).foldl (fun s c => (List.range 4).foldl (fun s k =>
    if (arr s c k).failed == bitAt (fld body c 1) k then s else updArr s c k fun a => { a with failed := !a.failed }) s) s

/-- KLV_INCARNATION after a start of Tilir: 1 at the first since POR, one more at each later one (R35). -/
def nextIncarnation (s : State) : Word := if s.klv.started then s.klv.incarnation + 1 else s.klv.incarnation

/-- The log begins with the reset: its first entry records RST_CAUSE (R453, R501; log entry 124). -/
def firstEntry (s : State) : State :=
  let s := updRas s fun x => { x with log := [], seq := 0, ceLast := [], ceTimes := [] }
  logErr s { source := 8, severity := 3, part := none, detail := s.rst.cause.toNat + s.rst.widest * 256 }

/-- Tilir starts: steps 3 to 7 of R484. A mailbox that passes to another function with the configuration loaded is reset (R33). -/
def startTilir (s : State) (signed : Bool) : State :=
  let before := s
  let s := { s with klv := { s.klv with incarnation := nextIncarnation s, started := true } }
  let s := updPrt s fun t => { t with fwSigned := signed }
  let s := firstEntry s
  let good := Config.factoryGood s.free
  let s := loadArrays (drawn s)
  let s := updFw s fun f => { f with
    factoryOk := good
    offsets := match governing s 3 with
      | some r => if good then calOfBody r.body else []
      | none => [] }
  let s := ownerChange before (loadCfg s)
  let s := (List.range 32).foldl thymeCluster s
  let s := (thymeCheck (thymeCheck s 32 none).1 33 none).1
  let s := if s.fw.factoryOk then s else logErr s { source := 0x0A, severity := 3, part := none }
  let s := ((List.range 32).filter (groupPopulated s)).foldl startGroup s
  let s := reloadObjects s
  let s := { s with nvm := { s.nvm with ctrls := s.nvm.ctrls.map fun x => (x.1, { x.2 with rdy := x.2.rdy || x.2.cc.getLsbD 0 }) } }
  let s := healthWatch s
  applyLinks before (updRst s fun r => { r with ready := true, readyAt := now s, released := true, kickAt := now s })

/-- BOOT: the block is selected, but after a WDT start the one that ran runs again; it is verified and started, or recovery boot begins. -/
def execBoot (s : State) : Res :=
  if !s.rst.sage || s.rst.ready || s.rst.active || s.rst.halt != .no then .next s
  else
    let s := mendLog s
    let (s, b) := if s.rst.w = 5 then (s, s.fw.running.val) else selectBlock s
    let trial := if s.rst.w = 5 then s.fw.trial else onTrial s b
    let s := updFw s fun f => { f with running := if b = 0 then 0 else if b = 1 then 1 else 2, trial, recovered := false }
    if b = 2 then .next (updRst s fun r => { r with ready := true, readyAt := now s }) else .next (startTilir s true)

/-! ### Recovery boot (R485) -/

/-- An image loaded in recovery starts, once nothing of it is left to write. -/
def startLoaded (s : State) : State :=
  match s.fw.loadSigned with
  | some signed =>
    if s.fw.job.isSome then s
    else startTilir (updFw s fun f => { f with loadSigned := none, recovered := true }) signed
  | none => s

/-- RECOVERY_LOAD: the image is verified, written if asked, and started after the completion; with debug unlocked one that fails only the
signature check starts too, and is not written (R485, R487). -/
def execRecoveryLoad (r : ReqId) (s : State) : Res :=
  runReq s r 0x0B 6 fun s x =>
    if !inRecovery s then finish s r (ansErr 0x0102)
    else if s.fw.loadSigned.isSome then s
    else
      withIn s r x fun s img =>
        let code := verifyImage s img
        let unsigned := code = 3 && !s.dbg.locked
        if code != 0 && !unsigned then finish s r (ansErr 0x0101 code)
        else
          let s := updFw (commit s r) fun f => { f with loadSigned := some !unsigned, loadVersion := slice img 0x10 16 }
          let a := bitAt (prm x 0x20 1) 0
          let b := bitAt (prm x 0x20 1) 1
          if unsigned || (!a && !b) then startLoaded (finish s r (ansOk 0))
          else
            beginJob s { block := if a then 0 else 1, image := img.take (fld img 8 4), select := none, erased := 0, paged := 0, cmd := none
                         req := some r, also := if a && b then some 1 else none }

/-- FIRMWARE_STORE_OP_DONE: an operation of the firmware store completes; an image of recovery boot then starts (R473, R476, R485). -/
def execFirmwareStoreOpDone (ok : Bool) (s : State) : Res := .next (startLoaded (storeOpDone ok s))

end Sys2Proof.Machine
end

