-- ==== Sys2Proof/Machine/Debug.lean ====
section
/-! DEFINITION. Debug (chapter 18): halting Sage cores, the DBG block, and class DEBUG: challenge, unlock, relock, consent. -/

namespace Sys2Proof.Machine

def updDbg (s : State) (f : Dbg → Dbg) : State := { s with dbg := f s.dbg }

/-! ### Halting Sage cores (R515-R517) -/

/-- Core `c` is halted. -/
def isHalted (s : State) (c : Nat) : Bool := s.dbg.halted.getLsbD c

/-- The architectural state of a core that has stopped: what Tilir left in its 66 registers is free, and its reservation is cleared (R516; log
entry 5). -/
def coreStopped (s : State) (c : Nat) : State :=
  let s := (List.range 66).foldl (fun s i => drawn (updDbg s fun d => { d with cores := tput d.cores (c * 128 + i) (freeVal s) })) s
  updDbg s fun d => { d with reserved := tput d.reserved c false }

/-- Core `c` halts. -/
def haltCore (s : State) (c : Nat) : State :=
  if isHalted s c then s
  else coreStopped (updDbg s fun d => { d with halted := d.halted ||| BitVec.twoPow 16 c, haltedAt := tput d.haltedAt c (now s) }) c

/-- The sixteen cores that a value names in its low bits. -/
def coresOf (v : Word) : List Nat := (List.range 16).filter fun c => v.getLsbD c

/-- DBG_HALT written through the debug transport, while debug is unlocked (R515). -/
def haltWrite (s : State) (v : Word) : State := if s.dbg.locked then s else (coresOf v).foldl haltCore s

/-- Once no core is halted, DEBUG_STALLED clears and the watchdog counts from now (R454, R517). -/
def noneHalted (s : State) : State :=
  let s := updRst s fun r => { r with kickAt := now s }
  if s.dbg.stalled then eventAll (updDbg s fun d => { d with stalled := false }) 0x0002 0 else s

/-- Cores resume. -/
def resumeCores (s : State) (cs : List Nat) : State :=
  if s.dbg.halted = 0 then s
  else
    let s := updDbg s fun d => { d with
      halted := cs.foldl (fun h c => h &&& ~~~ (BitVec.twoPow 16 c)) d.halted
      haltedAt := d.haltedAt.filter fun x => !cs.contains x.1
      cores := d.cores.filter fun x => !cs.contains (x.1 / 128) }
    if s.dbg.halted = 0 then noneHalted s else s

/-- DBG_RESUME. -/
def resumeWrite (s : State) (v : Word) : State := if s.dbg.locked then s else resumeCores s (coresOf v)

/-- DBG_STEP: a halted core runs one instruction of Tilir; it ends with the reservation cleared (R516). -/
def stepWrite (s : State) (v : Word) : State :=
  if s.dbg.locked then s else ((coresOf v).filter (isHalted s)).foldl coreStopped s

def execDbgHalt (v : Word) (s : State) : Res := .next (haltWrite s v)
def execDbgResume (v : Word) (s : State) : Res := .next (resumeWrite s v)
def execDbgStep (v : Word) (s : State) : Res := .next (stepWrite s v)

/-- DEBUG_STALLED: a core has been halted for 10 ms (R517). -/
def execDebugStalled (s : State) : Res :=
  if s.dbg.halted = 0 || s.dbg.stalled then .next s
  else
    let first := (s.dbg.haltedAt.map (·.2)).foldl min (2 ^ 64)
    let s := reach s (first + 10000000)
    .next (eventAll (updDbg s fun d => { d with stalled := true }) 0x0002 1)

/-! ### The DBG block (R524) -/

/-- A challenge is valid: recorded, and not 300 s old (R519). -/
def challengeValid (s : State) : Bool := s.dbg.challenge.isSome && decide (now s < s.dbg.challengeAt + 300000000000)

/-- DBG_STATUS. -/
def dbgStatus (s : State) : Nat :=
  bnat s.dbg.locked + 2 * bnat s.dbg.stalled + 4 * bnat (challengeValid s) + s.dbg.halted.toNat * 65536

/-- The value of DBG_CORE[c][i]: of a halted core; of one that runs, zero (R516; log entry 58). -/
def coreReg (s : State) (c i : Nat) : Nat :=
  if !isHalted s c then 0
  else if i < 66 then (tget 0 s.dbg.cores (c * 128 + i)).toNat
  else if i = 66 then bnat (tget false s.dbg.reserved c) else 0

/-- A register of the DBG block by its offset. -/
def dbgReg (s : State) (off : Nat) : Nat :=
  if off = 0x00 then dbgStatus s
  else if off = 0x10 then s.dbg.unlocks.toNat
  else if off = 0x14 then s.dbg.denied.toNat
  else if 0x1000 ≤ off && off < 0x9000 then
    let x := coreReg s ((off - 0x1000) / 0x800) ((off - 0x1000) % 0x800 / 8)
    if off % 8 = 0 then x % 2 ^ 32 else x / 2 ^ 32
  else 0

/-- The effect of reading a register of the DBG block. -/
def dbgClear (s : State) (off : Nat) : State := if off = 0x14 then updDbg s fun d => { d with denied := 0 } else s

/-- A halted core's general register, program counter or status word written, one word of it. -/
def coreWrite (s : State) (off : Nat) (v : Word) : State :=
  let c := (off - 0x1000) / 0x800
  let i := (off - 0x1000) % 0x800 / 8
  if !isHalted s c || 66 ≤ i then s
  else
    let old := tget 0 s.dbg.cores (c * 128 + i)
    updDbg s fun d => { d with cores := tput d.cores (c * 128 + i) (if off % 8 = 0 then setLow old v else setHigh old v) }

/-- A write to the DBG block through the debug transport. -/
def dbgWrite (s : State) (off : Nat) (v : Word) : State :=
  if off = 0x04 then haltWrite s v
  else if off = 0x08 then resumeWrite s v
  else if off = 0x0C then stepWrite s v
  else if 0x1000 ≤ off && off < 0x9000 then coreWrite s off v
  else s

/-! ### Class DEBUG (R518-R523) -/

/-- ERASE_SET: partitions active, sealed and without consent (R519). -/
def eraseList (s : State) : List Nat := (List.range 16).filter fun p => isSealed s p && !(pst s p).consent
def eraseSet (s : State) : Nat := natSum ((eraseList s).map fun p => 2 ^ p)

/-- The challenge record (R519); its nonce is free (log entry 25). -/
def challengeRec (s : State) : List Byte × State :=
  let n0 := freeVal s
  let s1 := drawn s
  let n1 := freeVal s1
  let s2 := drawn s1
  let n2 := freeVal s2
  let s3 := drawn s2
  let n3 := freeVal s3
  let nonce := [n0, n1, n2, n3].flatMap fun x => leBytes 8 x.toNat
  (leBytes 4 0x4C474244 ++ leBytes 1 1 ++ zeros 1 ++ leBytes 2 (eraseSet s) ++ leBytes 8 s.ident.nodeId.toNat ++ fit s.ident.serial 20
    ++ leBytes 4 s.klv.incarnation.toNat ++ leBytes 8 (now s) ++ nonce ++ leBytes 4 s.fw.secMin.toNat ++ zeros 44, drawn s3)

/-- CHALLENGE. -/
def execChallenge (r : ReqId) (s : State) : Res :=
  runReq s r 0x0A 1 fun s _ =>
    let x := challengeRec s
    let s := updDbg (commit x.2 r) fun d => { d with challenge := some x.1, challengeAt := now s }
    finish s r (ansOk 128 x.1)

/-- CHALLENGE_EXPIRE: 300 s after its timestamp. -/
def execChallengeExpire (s : State) : Res :=
  if s.dbg.challenge.isNone then .next s
  else .next (updDbg (reach s (s.dbg.challengeAt + 300000000000)) fun d => { d with challenge := none })

/-- R521 for one partition: it is reset, its keys are new and its namespaces gone, and all its units are cleared. -/
def erasePart (s : State) (p : Nat) : State :=
  let rec' := prec s p
  let s := newKeys (resetPart s p none) p
  let s := ((List.range 32).filter fun c => rec'.clusters.getLsbD c).foldl clearCluster s
  let s := ((List.range 32).filter fun g => rec'.rootSegs.getLsbD g).foldl clearSegment s
  let s := ((List.range 30).filter fun k => rec'.dramSlices.getLsbD k).foldl clearSlice s
  ((List.range 32).filter fun g => rec'.dieGroups.getLsbD g).foldl dropGroup s

/-- The first check of R520 that an UNLOCK payload fails: status and DETAIL; `valid` is the challenge it consumed. -/
def unlockFails (s : State) (valid : Option (List Byte)) (b : List Byte) : Option (Nat × Nat) :=
  if !s.dbg.locked then some (0x0100, 0)
  else if isApplying s then some (0x0101, 0)
  else if valid != some (b.take 128) then some (0x0102, 0)
  else if !Config.unlockSigned (b.take 128) (b.drop 128) then some (0x0103, 0)
  else if fld b 6 2 != eraseSet s then some (0x0104, eraseSet s)
  else none

/-- UNLOCK: the challenge is consumed; after the checks every partition of ERASE_SET is erased, and debug is unlocked. -/
def execUnlock (r : ReqId) (s : State) : Res :=
  runReq s r 0x0A 2 fun s x =>
    let valid := if challengeValid s then s.dbg.challenge else none
    let s := updDbg s fun d => { d with challenge := none }
    withIn s r x fun s b =>
      match unlockFails s valid b with
      | some (st, d) => finish s r (ansErr st d)
      | none =>
        let ps := eraseList s
        let s := ps.foldl erasePart (commit s r)
        let s := updDbg s fun d => { d with locked := false, unlocks := d.unlocks + 1 }
        finish s r (ansOk ps.length)

/-- LOCK: every halted core is resumed, then debug is locked (R522). -/
def execLock (r : ReqId) (s : State) : Res :=
  runReq s r 0x0A 3 fun s _ =>
    let prev := bnat s.dbg.locked
    let s := resumeCores (commit s r) (List.range 16)
    finish (updDbg s fun d => { d with locked := true }) r (ansOk prev)

/-- CONSENT of the partition that holds the mailbox (R518). -/
def execConsent (r : ReqId) (s : State) : Res :=
  runReq s r 0x0A 4 fun s x =>
    let p := reqPart r
    let prev := bnat (pst s p).consent
    finish (updPst (commit s r) p fun y => { y with consent := prm x 0x20 1 == 1 }) r (ansOk prev)

/-- STATUS: the DBG registers from 0x00, as reads of them (R518; log entry 49). -/
def execDebugStatus (r : ReqId) (s : State) : Res :=
  runReq s r 0x0A 5 fun s _ =>
    let bs := (List.range 16).flatMap fun i => leBytes 4 (dbgReg s (4 * i))
    (List.range 16).foldl (fun s i => dbgClear s (4 * i)) (finish s r (ansOk 64 bs))

/-! ### Test access port (R510) -/

/-- The data register an instruction selects, as it would be read out: identification, response, status, or the one bit of BYPASS. -/
def tapData (s : State) : Nat :=
  match s.dbg.tapIr.toNat with
  | 0x02 => 0x05A095AB
  | 0x11 => if s.dbg.locked then 2 ^ 32 else s.dbg.resp.toNat
  | 0x12 => dbgStatus s
  | _ => 0

/-- The boundary-scan register drives the single-ended signals: EXTEST, while debug is unlocked. -/
def inExtest (s : State) : Bool := s.dbg.tapIr == 0x00 && !s.dbg.locked

/-- TAP_INSTRUCTION_UPDATE: the instruction register is loaded; what its data register holds can be shifted out, unless TDO is high-impedance
(R28, R458, R526). -/
def execTapInstructionUpdate (ir : Byte) (s : State) : Res :=
  let s := updDbg s fun d => { d with tapIr := ir }
  .next (if pinsDriven s then emit s (.tap (tapData s)) else s)

/-- TRST_N: Test-Logic-Reset with IDCODE selected. -/
def execTrstN (s : State) : Res := .next (updDbg s fun d => { d with tapIr := 0x02 })

end Sys2Proof.Machine
end

