-- ==== Sys2Proof/Machine/Power.lean ====
section
/-! DEFINITION. Power, temperature and the event inputs (R446, R447, R459-R469, R535, R538). -/

namespace Sys2Proof.Machine

def updPwr (s : State) (f : Pwr → Pwr) : State := { s with pwr := f s.pwr }

/-! ### Caps and operating points -/

/-- PWRBRK_N is held low. -/
def braked (s : State) : Bool := !sbHigh s 2

/-- The cap in force in watts (R26, R463). -/
def capInForce (s : State) : Nat := let w := psWatts s s.nvm.ps.val; if braked s then min w 800 else w

/-- The operating point a die is to run at: lowered by R461 with the others and by R464 alone, down to point 4 (log entry 53). -/
def targetPoint (s : State) (d : Nat) : Nat := min 4 (s.pwr.pPoint + tget 0 s.pwr.tPoint d)

/-- OPERATING_POINT_CHANGE: a die has slewed to its operating point (R447). -/
def execOperatingPointChange (d : Fin 4) (s : State) : Res :=
  .next { s with clk := { s.clk with point := tput s.clk.point d.val (targetPoint s d.val) } }

/-- POWER_THROTTLE began or ended (R466). -/
def noteThrottle (s : State) (on : Bool) : State :=
  if s.pwr.throttling == on then s else eventAll (updPwr s fun p => { p with throttling := on }) 0x0003 (bnat on)

/-- A mean is above its limit; both are at least 5 % below (R461). -/
def overLimit (s : State) : Bool := decide (capInForce s < s.pwr.mean1s.toNat) || decide (11 * capInForce s < 10 * s.pwr.mean10.toNat)
def wellUnder (s : State) : Bool :=
  decide (100 * s.pwr.mean1s.toNat ≤ 95 * capInForce s) && decide (1000 * s.pwr.mean10.toNat ≤ 95 * 11 * capInForce s)

/-- One step down: the dies together, then the withholding level. -/
def lowerPower (p : Pwr) : Pwr := if p.pPoint < 4 then { p with pPoint := p.pPoint + 1 } else { p with pLevel := min 15 (p.pLevel + 1) }

/-- One step back: the level first. -/
def raisePower (p : Pwr) : Pwr := if 0 < p.pLevel then { p with pLevel := p.pLevel - 1 } else { p with pPoint := p.pPoint - 1 }

/-- A millisecond has passed since a step. -/
def stepDue (s : State) (last : Nat) : Bool := decide (last + 1000000 ≤ now s) || last == 0

/-- POWER_CONTROL_TICK (R461): above a limit a step down each millisecond; after 10 ms well under both, a step back each millisecond. -/
def execPowerControlTick (s : State) : Res :=
  if s.rst.por then .next s
  else if overLimit s then
    let s := updPwr s fun p => { p with pCalm := none }
    if stepDue s s.pwr.pStepAt then .next (noteThrottle (updPwr s fun p => { lowerPower p with pStepAt := now s }) true) else .next s
  else if wellUnder s then
    let since := s.pwr.pCalm.getD (now s)
    let s := updPwr s fun p => { p with pCalm := some since }
    if since + 10000000 ≤ now s && stepDue s s.pwr.pStepAt && (s.pwr.pLevel != 0 || s.pwr.pPoint != 0) then
      let s := updPwr s fun p => { raisePower p with pStepAt := now s }
      .next (if s.pwr.pLevel = 0 && s.pwr.pPoint = 0 then noteThrottle s false else s)
    else .next s
  else .next (updPwr s fun p => { p with pCalm := none })

/-- PWRBRK_N (R463): when it falls and a mean is above the brake's cap, steps are taken at once: how many, no one states (log entry 54). -/
def execPwrbrkN (e : SbEvent) (s : State) : Res :=
  sideband 2 e s fun s high =>
    if high || !overLimit s then s
    else
      let v := (freeVal s).toNat
      let s := updPwr (drawn s) fun p =>
        let point := max p.pPoint (v % 5)
        { p with pPoint := point, pLevel := if point = 4 then max p.pLevel (v / 8 % 16) else p.pLevel, pStepAt := now s, pCalm := none }
      if s.pwr.pPoint = 0 then s else noteThrottle s true

/-! ### Samples -/

/-- A reading with a gain in parts per million. -/
def withGain (x : Nat) (ppm : Int) : Nat := ((x : Int) * (1000000 + ppm) / 1000000).toNat

/-- POWER_SAMPLE: the input voltage in 10 mV, its power and the two means in watts, as the sensors give them. A dip of one sample is counted;
POR is released once 10,000 samples in a row lie within 42.0-60.0 V (R448, R459, R460). -/
def execPowerSample (centivolts : Nat) (_watts : Nat) (mean10ms mean1s : Nat) (s : State) : Res :=
  let gv := calEffective s 2 0
  let gi := calEffective s 3 0
  let v := withGain centivolts gv
  let half (x : Nat) : Half := BitVec.ofNat 16 (min x 0xFFFF)
  let s := updPwr s fun p =>
    { p with volts := half v, mean10 := half (withGain (withGain mean10ms gv) gi), mean1s := half (withGain (withGain mean1s gv) gi)
             dips := if 3800 ≤ v && p.low = 1 then satInc p.dips else p.dips, low := if v < 3800 then p.low + 1 else 0 }
  if !s.rst.por then .next s
  else
    let n := if 4200 ≤ v && v ≤ 6000 then s.rst.inRange + 1 else 0
    if n < 10000 then .next (updRst s fun r => { r with inRange := n })
    else .next (updRst { s with ts := 0, ftl := { s.ftl with powerCycles := s.ftl.powerCycles + 1 } } fun r => { r with inRange := 0, por := false })

/-- No die operation is in flight any more. -/
def dropOps (s : State) : State := { s with ftl := { s.ftl with groups := s.ftl.groups.map fun g => (g.1, { g.2 with ops := [] }) } }

/-- Steps 1 to 6 of R401: nothing new is issued, erases in flight are aborted, programs end, and the legacy caches reach SLC; no pin holds an old
entry any more, since no request survives (R398). -/
def stopOnHoldup (s : State) : State :=
  let owners := (s.ftl.groups.flatMap fun g => (g.2.ops.filter fun o => o.kind == .program).filterMap (·.owner)).eraseDups
  let s := owners.foldl finishWrite (dropOps s)
  drainCache { s with ftl := { s.ftl with pins := [] } } fun _ => true

/-- Power fails at once: a program in flight is cut off, so that the pages of its write count for nothing (R370, R400). -/
def tearWrites (s : State) : State :=
  let torn := (pendingPages s).map (· % 2 ^ 38)
  dropOps { s with ftl := { s.ftl with pages := s.ftl.pages.filter fun p => !torn.contains p.1 } }

/-- A controller has completed a shutdown. -/
def shutDown (s : State) : Bool := (ctrl s 0).shst.val == 2

/-- POWER_LOSS (R401, R460): the module runs R401 on the bank, halts, and POR is asserted; at once if the internal rails fail. -/
def execPowerLoss (internalRails : Bool) (s : State) : Res :=
  if s.pwr.low = 0 || s.rst.por then .next s
  else
    let s := updFw s fun f => { f with brownOut := true }
    let s := { s with ftl := { s.ftl with
      powerLosses := satInc s.ftl.powerLosses, unsafeShutdowns := s.ftl.unsafeShutdowns + bnat (!shutDown s) } }
    let s := if internalRails then tearWrites s else stopOnHoldup s
    .next (assertPor (updRst s fun r => { r with cause := r.cause ||| 0x40 }))

/-! ### Temperature (R464-R466, R535) -/

/-- The hottest sensor of a die in tenths of a degree, from readings in hundredths with each sensor's calibration (R486). -/
def hottest (s : State) (temps : List Int) (d : Nat) : Int :=
  let l := (List.range 8).map fun k => (temps[8 * d + k]?.getD 0) + calEffective s 1 (8 * d + k)
  (l.foldl max (l.headD 0)) / 10

/-- A composite sample joins the hour and the lifetime (R411). -/
def noteComposite (s : State) : State :=
  let k := sensorK s 0
  let (sum, n, lo, hi, fl) := s.ftl.hour
  let f := bnat (decide (373 ≤ k)) + 2 * bnat (decide (388 ≤ k)) + 4 * bnat (s.pwr.throttling || s.pwr.thermal)
  let b := min 63 ((k - 273) / 2)
  { s with ftl := { s.ftl with
    hour := (sum + k, n + 1, if n = 0 then k else min lo k, max hi k, fl ||| f), lifetime := tmod 0 s.ftl.lifetime b (· + 1)
    critSamples := s.ftl.critSamples + bnat (decide (388 ≤ k)) } }

/-- The steps of R464 for dies at or above 100.0 degrees: each compute die alone, then the thermal level. -/
def coolDown (s : State) : State :=
  let hot (d : Nat) : Bool := decide (1000 ≤ tget 0 s.pwr.tj d)
  let level := hot 4 || (List.range 4).any fun d => hot d && targetPoint s d == 4
  let tPoint := (List.range 4).foldl (fun t d => if hot d && targetPoint s d < 4 then tput t d (tget 0 t d + 1) else t) s.pwr.tPoint
  updPwr s fun p => { p with tPoint, tLevel := if level then min 15 (p.tLevel + 1) else p.tLevel, tStepAt := now s }

/-- One step back: the level first, then every lowered die. -/
def warmUp (p : Pwr) : Pwr :=
  if 0 < p.tLevel then { p with tLevel := p.tLevel - 1 }
  else { p with tPoint := (p.tPoint.map fun x => (x.1, x.2 - 1)).filter fun x => x.2 != 0 }

/-- THERMAL_LIMIT reached or left (R466). -/
def noteThermal (s : State) : State :=
  let on := s.pwr.tLevel != 0 || !s.pwr.tPoint.isEmpty
  if s.pwr.thermal == on then s else eventAll (updPwr s fun p => { p with thermal := on }) 0x0004 (bnat on)

/-- A sensor at 115.0 degrees: R401, RST_CAUSE.THERM_TRIP, PWR_TRIPS, and the halt that only POR or MOD_RST_N ends (R465). -/
def thermTrip (s : State) : State :=
  let s := resetSage (stopStore (stopOnHoldup s))
  updPwr (updRst s fun r => { r with halt := .thermal, cause := r.cause ||| 0x20 }) fun p => { p with trips := satInc p.trips }

/-- THERMAL_SAMPLE: forty junction readings by 8 d + s, then the coolant's inlet and outlet, in hundredths of a degree. -/
def execThermalSample (temps : List Int) (s : State) : Res :=
  let tj := (List.range 5).map fun d => (d, hottest s temps d)
  let s := updPwr s fun p => { p with tj, inlet := temps[40]?.getD 0 / 10, outlet := temps[41]?.getD 0 / 10 }
  let s := healthWatch (noteComposite s)
  let any (t : Int) : Bool := tj.any fun x => decide (t ≤ x.2)
  if any 1150 then .next (if s.rst.halt == .thermal then s else thermTrip s)
  else if any 1000 then
    let s := updPwr s fun p => { p with tCalm := none }
    .next (if stepDue s s.pwr.tStepAt then noteThermal (coolDown s) else s)
  else if any 950 then .next (updPwr s fun p => { p with tCalm := none })
  else
    let since := s.pwr.tCalm.getD (now s)
    let s := updPwr s fun p => { p with tCalm := some since }
    if since + 10000000 ≤ now s && stepDue s s.pwr.tStepAt && s.pwr.thermal then
      .next (noteThermal (updPwr s fun p => { warmUp p with tStepAt := now s }))
    else .next s

/-- Every quantity of R538 is inside. -/
def insideEnvelope (s : State) : Bool :=
  decide (4000 ≤ s.pwr.volts.toNat) && decide (s.pwr.volts.toNat ≤ 6000) && decide (50 ≤ s.pwr.inlet) && decide (s.pwr.inlet ≤ 450) &&
    (s.pwr.tj.all fun x => decide (x.2 < 1050)) && s.clk.locked == 0x3FFFF && s.fw.factoryOk

/-- ENVELOPE_SAMPLE: IN_ENVELOPE falls at once and rises after 1 s inside; `inlet` is sensor 6 in tenths of a degree. -/
def execEnvelopeSample (inlet : Int) (s : State) : Res :=
  let s := updPwr s fun p => { p with inlet }
  if !insideEnvelope s then .next (updPrt (updPwr s fun p => { p with envSince := none }) fun t => { t with inEnvelope := false })
  else
    let since := s.pwr.envSince.getD (now s)
    let s := updPwr s fun p => { p with envSince := some since }
    .next (if since + 1000000000 ≤ now s then updPrt s fun t => { t with inEnvelope := true } else s)

/-! ### Event inputs (R467-R469) -/

/-- An event of an input is accepted unless it is masked or came within 100 us of the last; the thousandth accepted within 1 s masks the
input, which is logged. -/
def acceptEvent (s : State) (i : Nat) (f : State → State) : State :=
  let b := i - 3
  if s.rst.sbMask.getLsbD b then s
  else if (tfind? s.rst.sbLast i).any fun t => now s < t + 100000 then
    updRst s fun r => { r with sbDropped := tput r.sbDropped i (satInc (tget 0 r.sbDropped i)) }
  else
    let recent := ((tget [] s.rst.sbRecent i).filter fun t => decide (now s < t + 1000000000)) ++ [now s]
    let s := updRst s fun r => { r with sbLast := tput r.sbLast i (now s), sbRecent := tput r.sbRecent i recent }
    let s := if recent.length < 1000 then s
      else logErr (updRst s fun r => { r with sbMask := r.sbMask ||| BitVec.ofNat 2 (2 ^ b) }) { source := 0x0C, severity := 3, part := none, unit := b }
    f s

/-- The inputs that a value has ones for are unmasked, and their events count anew (R469). -/
def unmaskInputs (s : State) (v : Word) : State :=
  updRst s fun r =>
    { r with sbMask := r.sbMask &&& ~~~ (v.setWidth 2)
             sbRecent := r.sbRecent.filter fun x => !(v.getLsbD (x.1 - 3) && r.sbMask.getLsbD (x.1 - 3)) }

/-- TS_SYNC_N: its falling edge captures the timestamp. -/
def execTsSyncN (e : SbEvent) (s : State) : Res :=
  sideband 3 e s fun s high => if high then s else acceptEvent s 3 fun s => updRst s fun r => { r with tsSync := s.ts }

/-- WAKE_REQ_N: the module leaves PS3 or PS4 for the last operational state selected (R381). -/
def execWakeReqN (e : SbEvent) (s : State) : Res :=
  sideband 4 e s fun s high => if high then s else acceptEvent s 4 wakeUp

end Sys2Proof.Machine
end

