-- ==== Sys2Proof/Machine/Regs.lean ====
section
/-! DEFINITION. Register reads and writes (R17, R18): mailbox windows (R30-R38), controller properties (R358), and the register blocks of the
module's address map (R22). -/

namespace Sys2Proof.Machine

/-- The low and the high word of a 64-bit quantity (R17). -/
def lo32 (v : Nat) : Nat := v % 2 ^ 32
def hi32 (v : Nat) : Nat := v / 2 ^ 32 % 2 ^ 32

/-- An integer as 16-bit two's complement. -/
def int16 (x : Int) : Nat := unsign 16 x

/-! ### Blocks of the register region (R22) -/

/-- The register blocks: CLU, ARR, SCH and others by their base in the register region, the distance between blocks, and their count. -/
inductive RegBlock where
  | prt | clu | arr | num | qnt | thy | schClu | schPart | tie | fen | dil | irs | ast | nvm | ftl | ftlModule | lnk | lnkTrunk | lnkModule
  | rst | clk | pwr | fws | cal | ras | dbg
  deriving DecidableEq, Repr

/-- Block, base in the register region, stride, count (R103, R147, R171, R197, R218, R235, R257, R285, R323, R357, R388, R414, R442, R470,
R489, R509, R524). The stride of an ARR block counts arrays: sixteen strides of 0x100 to a cluster. -/
def regBlocks : List (RegBlock × Nat × Nat × Nat) := [
  (.prt, 0x10000, 0x1000, 1), (.clu, 0x100000, 0x1000, 32), (.arr, 0x200000, 0x100, 512), (.num, 0x300000, 0x100, 32),
  (.qnt, 0x400000, 0x100, 32), (.thy, 0x500000, 0x100, 32), (.schClu, 0x600000, 0x100, 32), (.schPart, 0x680000, 0x100, 16),
  (.tie, 0x700000, 0x100, 16), (.fen, 0x800000, 0x40, 64), (.dil, 0x880000, 0x100, 16), (.irs, 0x900000, 0x40, 128),
  (.ast, 0x980000, 0x100, 16), (.nvm, 0xA00000, 0x100, 17), (.ftl, 0xB00000, 0x100, 32), (.ftlModule, 0xB04000, 0x100, 1),
  (.lnk, 0xC00000, 0x40, 96), (.lnkTrunk, 0xC80000, 0x40, 8), (.lnkModule, 0xC90000, 0x100, 1), (.rst, 0xD00000, 0x1000, 1),
  (.clk, 0xD10000, 0x1000, 1), (.pwr, 0xD20000, 0x1000, 1), (.fws, 0xE00000, 0x1000, 1), (.cal, 0xE10000, 0x1000, 1),
  (.ras, 0xF00000, 0x1000, 1), (.dbg, 0xF80000, 0x10000, 1) ]

/-- Base of the register region, and of the window on the firmware store (R22, R472). -/
def regBase : Nat := 0x014000000000
def fwsWindow : Nat := 0x014200000000

/-- The block, index and offset a module address names; none: no register block lies there. -/
def regAt (a : Nat) : Option (RegBlock × Nat × Nat) :=
  let o := a - regBase
  if a < regBase || a % 4 != 0 then none
  else (regBlocks.find? fun b => decide (b.2.1 ≤ o) && decide (o < b.2.1 + b.2.2.1 * b.2.2.2)).map fun b =>
    (b.1, (o - b.2.1) / b.2.2.1, (o - b.2.1) % b.2.2.1)

/-! ### Clusters (R147, R171, R197, R218, R235, R257) -/

def cluReg (s : State) (c off : Nat) : Nat :=
  let k := cluster s c
  if off = 0x000 then c + meshX c * 2 ^ 8 + meshY c * 2 ^ 12 + c / 8 * 2 ^ 16 + workingArrays s c * 2 ^ 20
  else if off = 0x004 then k.segCfg.toNat
  else if 0x010 ≤ off && off < 0x020 then (tget 0 k.xlat ((off - 0x010) / 4)).toNat
  else if 0x020 ≤ off && off < 0x030 then (slot s c ((off - 0x020) / 4)).job.toNat
  else if off = 0x030 then cacheSegs s c + 8 * bnat !k.clearing.isEmpty
  else if off = 0x038 then lo32 k.cacheHit.toNat
  else if off = 0x03C then hi32 k.cacheHit.toNat
  else if off = 0x040 then lo32 k.cacheMiss.toNat
  else if off = 0x044 then hi32 k.cacheMiss.toNat
  else if off = 0x048 then k.backinv.toNat
  else if off = 0x04C then k.nbFault.toNat
  else if off = 0x050 then lo32 k.cycle.toNat
  else if off = 0x054 then hi32 k.cycle.toNat
  else if 0x400 ≤ off && off < 0x800 then (tget 0 (slot s c ((off - 0x400) / 256)).tkt ((off - 0x400) / 4 % 64)).toNat
  else 0

def cluClear (s : State) (c off : Nat) : State :=
  if off = 0x048 then updClu s c fun k => { k with backinv := 0 }
  else if off = 0x04C then updClu s c fun k => { k with nbFault := 0 }
  else s

def cluWrite (s : State) (c off : Nat) (v : Word) : State :=
  if off = 0x004 then
    -- a change obeys R126: the cache is emptied if its segments change in number, and a segment that changes use is cleared
    let use (g : Nat) : Nat := bits v.toNat (3 * g + 2) (3 * g)
    let n := ((List.range 7).filter fun g => use g == 4).length
    assignSegs (if cacheSegs s c == n then s else flushCache s (cluIx c)) c use
  else if 0x010 ≤ off && off < 0x020 then updClu s c fun k => { k with xlat := tput k.xlat ((off - 0x010) / 4) (v &&& 0x00FFFFFF) }
  else if 0x020 ≤ off && off < 0x030 then updSlot s c ((off - 0x020) / 4) fun x => { x with job := v }
  else s

/-- ARR: block `i` is logical array i mod 16 of cluster i / 16; only those present read anything. -/
def arrReg (s : State) (i off : Nat) : Nat :=
  let c := i / 16
  let k := i % 16
  if 4 ≤ k || !arrPresent s c k then 0
  else
    let x := arr s c k
    match off with
    | 0x00 => arrState x + x.slot.val * 4 + 16 * bnat x.held.isSome + 32 * bnat x.pinned + x.shape % 4 * 64
        + ((physList s c)[k]?).getD 0 * 256
    | 0x08 => lo32 x.busy.toNat
    | 0x0C => hi32 x.busy.toNat
    | 0x10 => lo32 x.macs.toNat
    | 0x14 => hi32 x.macs.toNat
    | 0x18 => x.reload.toNat
    | 0x1C => x.lastFault.toNat + x.lastFaultSlot.val * 256
    | 0x20 => x.patterns.toNat
    | 0x24 => x.yields.toNat
    | 0x28 => x.fails.toNat
    | _ => 0

def arrClear (s : State) (i off : Nat) : State :=
  if off = 0x18 && i % 16 < 4 && arrPresent s (i / 16) (i % 16) then updArr s (i / 16) (i % 16) fun x => { x with reload := 0 } else s

def numReg (s : State) (c off : Nat) : Nat :=
  if off < 0x10 then nfBits (slot s c (off / 4)).flags
  else if off = 0x10 then (cluster s c).outNan.toNat
  else if off = 0x14 then (cluster s c).outClip.toNat
  else 0

def numClear (s : State) (c off : Nat) : State :=
  if off = 0x10 then updClu s c fun k => { k with outNan := 0 }
  else if off = 0x14 then updClu s c fun k => { k with outClip := 0 }
  else s

/-- Flags of which a 1 was written are cleared. -/
def nfClear (f : NumFlags) (v : Word) : NumFlags :=
  { nanSeen := f.nanSeen && !v.getLsbD 0, nv := f.nv && !v.getLsbD 1, of := f.of && !v.getLsbD 2 }

def numWrite (s : State) (c off : Nat) (v : Word) : State :=
  if off < 0x10 then updSlot s c (off / 4) fun x => { x with flags := nfClear x.flags v } else s

def qntReg (s : State) (c off : Nat) : Nat :=
  if off < 0x10 then (slot s c (off / 4)).vclip.toNat
  else if off < 0x20 then (slot s c (off / 4 - 4)).vflush.toNat
  else if off = 0x20 then (cluster s c).mxNan.toNat
  else if off = 0x24 then (cluster s c).mxRaised.toNat
  else 0

def qntClear (s : State) (c off : Nat) : State :=
  if off < 0x10 then updSlot s c (off / 4) fun x => { x with vclip := 0 }
  else if off < 0x20 then updSlot s c (off / 4 - 4) fun x => { x with vflush := 0 }
  else if off = 0x20 then updClu s c fun k => { k with mxNan := 0 }
  else if off = 0x24 then updClu s c fun k => { k with mxRaised := 0 }
  else s

def thyReg (s : State) (c off : Nat) : Nat :=
  match off with
  | 0x00 => bnat (cluster s c).katDone + 2 * bnat (cluster s c).katFail
  | 0x08 => lo32 (cluster s c).thyWords.toNat
  | 0x0C => hi32 (cluster s c).thyWords.toNat
  | _ => 0

/-- STATE of SCH_SLOT. -/
def slotCode : SlotState → Nat
  | .empty => 0
  | .running => 1
  | .saving => 2
  | .restoring => 3
  | .teardown => 4

/-- SCH_SLOT (R257). -/
def schSlotReg (s : State) (c i : Nat) : Nat :=
  let x := slot s c i
  let j := slotJob s c i
  let held := natSum ((List.range 4).map fun k => if (arr s c k).st == 1 && (arr s c k).slot.val == i then 2 ^ k else 0)
  slotCode x.st + (j.map fun j => jPriority j * 16 + 64 * bnat (runsTimely j) + 128 * bnat (jPinned j)).getD 0 + x.rank % 32 * 2 ^ 8
    + 2 ^ 13 * bnat x.armed + held * 2 ^ 16 + x.remotes.length * 2 ^ 20

def schCluReg (s : State) (c off : Nat) : Nat :=
  let i := off / 0x20
  if 4 ≤ i then 0
  else match off % 0x20 with
    | 0x00 => schSlotReg s c i
    | 0x04 => lo32 (slot s c i).pos
    | 0x08 => (slot s c i).epoch.toNat
    | 0x0C => (slot s c i).faultCode.toNat
    | _ => 0

def schPartReg (s : State) (p off : Nat) : Nat :=
  let x := schPart s p
  if off < 0x28 then (if off % 8 = 0 then lo32 (tget 0 x.stall (off / 8)).toNat else hi32 (tget 0 x.stall (off / 8)).toNat)
  else match off with
    | 0x28 => x.fallbacks.toNat
    | 0x2C => x.preempts.toNat
    | 0x30 => x.evictions.toNat
    | 0x34 => savedOf s p
    | 0x38 => x.lateDrop.toNat
    | _ => 0

def schPartClear (s : State) (p off : Nat) : State :=
  match off with
  | 0x28 => updSchPart s p fun x => { x with fallbacks := 0 }
  | 0x2C => updSchPart s p fun x => { x with preempts := 0 }
  | 0x30 => updSchPart s p fun x => { x with evictions := 0 }
  | 0x38 => updSchPart s p fun x => { x with lateDrop := 0 }
  | _ => s

/-! ### Services (R285, R323, R357) -/

/-- Copies in a partition's pool. -/
def poolCopies (s : State) (p : Nat) : List TileCopy := (objsOf s p).flatMap fun x => x.2.t1.map (·.2)

/-- Granules that cannot be freed: of referenced copies, and of chunk tables. -/
def poolPinned (s : State) (p : Nat) : Nat :=
  natSum ((objsOf s p).map fun x => tableGranules x.2) + natSum (((poolCopies s p).filter fun t => !t.refs.isEmpty).map copyGranules)

def tieReg (s : State) (p off : Nat) : Nat :=
  let x := tiePart s p
  match off with
  | 0x00 => lo32 x.poolBase
  | 0x04 => hi32 x.poolBase
  | 0x08 => x.poolLen
  | 0x0C => poolUsed s p
  | 0x10 => poolPinned s p
  | 0x14 => min (2 ^ 32 - 1) (natSum ((objsOf s p).map fun y => (dirtyChunks y.2).length))
  | 0x18 => x.rootPin.toNat
  | 0x20 => x.srcRoot.toNat
  | 0x24 => x.srcT1.toNat
  | 0x28 => x.srcT2.toNat
  | 0x2C => x.srcT3.toNat
  | 0x30 => x.bypass.toNat
  | 0x34 => x.fail.toNat
  | 0x38 => x.cancelled.toNat
  | 0x40 => lo32 x.wb.toNat
  | 0x44 => hi32 x.wb.toNat
  | 0x48 => lo32 (natSum ((poolCopies s p).map fun t => t.chunks.length * 65536))
  | 0x4C => hi32 (natSum ((poolCopies s p).map fun t => t.chunks.length * 65536))
  | 0x50 => lo32 (natSum ((poolCopies s p).map fun t => copyGranules t * 256))
  | 0x54 => hi32 (natSum ((poolCopies s p).map fun t => copyGranules t * 256))
  | _ => 0

def tieClear (s : State) (p off : Nat) : State :=
  match off with
  | 0x20 => updTiePart s p fun x => { x with srcRoot := 0 }
  | 0x24 => updTiePart s p fun x => { x with srcT1 := 0 }
  | 0x28 => updTiePart s p fun x => { x with srcT2 := 0 }
  | 0x2C => updTiePart s p fun x => { x with srcT3 := 0 }
  | 0x30 => updTiePart s p fun x => { x with bypass := 0 }
  | 0x34 => updTiePart s p fun x => { x with fail := 0 }
  | 0x38 => updTiePart s p fun x => { x with cancelled := 0 }
  | _ => s

/-- The codec of the sample an engine decodes: the owner's engines take the next samples of the batch being built in ascending order (log entry
61). -/
def engineSample (s : State) (e : Nat) : Option Nat :=
  match engineOwner s e with
  | none => none
  | some p =>
    match (ingPart s p).run, findIx (· == e) (enginesOf s p) with
    | some r, some k =>
      if mayDecode r then
        ((batchPositions r r.batch)[r.samples.length + k]?).map fun y => (((elemClip s r y.2).bind (clipAt r.gen)).map fun x => x.1.info.codec).getD 0
      else none
    | _, _ => none

/-- FEN (R323). -/
def fenReg (s : State) (e off : Nat) : Nat :=
  let x := tget fennelReset s.ing.engines e
  match off with
  | 0x00 => bnat (engineSample s e).isSome + (engineOwner s e).getD 0 * 16 + ((engineSample s e).getD 0) % 8 * 256
  | 0x08 => lo32 x.pictures
  | 0x0C => hi32 x.pictures
  | 0x10 => x.errors.toNat
  | _ => 0

def fenClear (s : State) (e off : Nat) : State :=
  if off = 0x10 then { s with ing := { s.ing with engines := tmod fennelReset s.ing.engines e fun x => { x with errors := 0 } } } else s

/-- DIL_RUN.STATE: a run whose batches are all built drains. -/
def dilState (r : Option Run) : Nat :=
  match r with
  | none => 0
  | some r => if r.batch < r.stop then 1 else 2

def dilReg (s : State) (p off : Nat) : Nat :=
  let x := ingPart s p
  let next := match x.run with
    | some r => nextBatchOf r
    | none => x.nextBatch
  match off with
  | 0x00 => dilState x.run
  | 0x08 => lo32 next
  | 0x0C => hi32 next
  | 0x10 => lo32 x.scanned
  | 0x14 => hi32 x.scanned
  | 0x18 => x.damaged.toNat
  | 0x1C => x.unreadable.toNat
  | 0x20 => (x.run.map fun r => r.staged.length).getD 0
  | 0x24 => x.tgtFailed.toNat
  | 0x28 => x.packets.toNat
  | _ => 0

def dilClear (s : State) (p off : Nat) : State :=
  match off with
  | 0x18 => updIng s p fun x => { x with damaged := 0 }
  | 0x1C => updIng s p fun x => { x with unreadable := 0 }
  | 0x28 => updIng s p fun x => { x with packets := 0 }
  | _ => s

/-- IRS (R357); the channels of groups that the module does not carry read zero (R2). -/
def irsReg (s : State) (h off : Nat) : Nat :=
  let x := tget irisChanReset s.srch.chans h
  if !groupPopulated s (h / 4) then 0
  else match off with
  | 0x00 => (groupOwner s (h / 4)).getD 0 + 16 * min 4 (programsOn s h)
  | 0x08 => lo32 x.records
  | 0x0C => hi32 x.records
  | 0x10 => lo32 x.passed
  | 0x14 => hi32 x.passed
  | 0x18 => x.waits.toNat
  | _ => 0

def irsClear (s : State) (h off : Nat) : State :=
  if off = 0x18 then { s with srch := { s.srch with chans := tmod irisChanReset s.srch.chans h fun x => { x with waits := 0 } } } else s

/-- Side entries and deletions held, over all indexes of a partition. -/
def sideEntries (s : State) (p : Nat) : Nat :=
  natSum ((indexesOf s p).map fun k => (k.2.recs.filter (·.side)).length + k.2.dels.length)

def astReg (s : State) (p off : Nat) : Nat :=
  let x := astPart s p
  match off with
  | 0x00 => lo32 x.queries
  | 0x04 => hi32 x.queries
  | 0x08 => x.short.toNat
  | 0x0C => x.widened.toNat
  | 0x10 => lo32 (sideEntries s p)
  | 0x14 => x.merges.toNat
  | 0x18 => lo32 x.scored
  | 0x1C => hi32 x.scored
  | 0x20 => lo32 x.filtered
  | 0x24 => hi32 x.filtered
  | _ => 0

def astClear (s : State) (p off : Nat) : State :=
  match off with
  | 0x08 => updAst s p fun x => { x with short := 0 }
  | 0x0C => updAst s p fun x => { x with widened := 0 }
  | 0x14 => updAst s p fun x => { x with merges := 0 }
  | _ => s

/-! ### Storage (R388, R414) -/

def nvmReg (s : State) (f off : Nat) : Nat :=
  let x := ctrl s f
  match off with
  | 0x00 => bnat x.rdy + 2 * bnat x.selfTest.isSome + (ctrlPart s f).getD 0 * 16 + (x.sqs.filter fun q => q.1 != 0).length * 2 ^ 8
  | 0x04 => x.cmds.length + (x.cmds.filter (·.urgent)).length * 2 ^ 16
  | 0x08 => x.regUrgMax.toNat
  | 0x0C => x.regUrgOver.toNat
  | 0x10 => x.aborted.toNat
  | 0x14 => x.conflicts.toNat
  | 0x18 => x.suspends % 2 ^ 14
  | 0x1C => x.stalls.toNat
  | _ => 0

def nvmClear (s : State) (f off : Nat) : State :=
  match off with
  | 0x08 => updCtrl s f fun x => { x with regUrgMax := 0 }
  | 0x0C => updCtrl s f fun x => { x with regUrgOver := 0 }
  | 0x10 => updCtrl s f fun x => { x with aborted := 0 }
  | 0x14 => updCtrl s f fun x => { x with conflicts := 0 }
  | 0x1C => updCtrl s f fun x => { x with stalls := 0 }
  | _ => s

/-- FTL of a die group (R414). What recovery finds out reads 0, its reset value, while the group is RECOVERING. -/
def ftlReg (s : State) (g off : Nat) : Nat :=
  let x := grp s g
  if !groupPopulated s g || x.st == 0 && [0x04, 0x08, 0x0C, 0x40, 0x44].contains off then 0
  else match off with
    | 0x00 => x.st.val + (groupOwner s g).getD 0 * 4 + 64 * bnat x.folding + 128 * bnat x.reclaiming
    | 0x18 => x.spare + x.retired * 2 ^ 16
    | 0x2C => x.thresh.toNat
    | 0x30 => lo32 x.hostUnits
    | 0x34 => hi32 x.hostUnits
    | 0x38 => lo32 x.mediaUnits
    | 0x3C => hi32 x.mediaUnits
    | 0x40 => lo32 x.ckptSeq
    | 0x44 => hi32 x.ckptSeq
    | 0x1C => x.soft.toNat
    | 0x20 => x.recov.toNat
    | 0x24 => x.uncorr.toNat
    | 0x28 => x.rewrites.toNat
    | _ => if 0x04 ≤ off && off ≤ 0x14 then (groupCounts s g).getD (off / 4 - 1) 0 else 0

def ftlClear (s : State) (g off : Nat) : State :=
  if !groupPopulated s g then s
  else match off with
    | 0x1C => updGrp s g fun x => { x with soft := 0 }
    | 0x20 => updGrp s g fun x => { x with recov := 0 }
    | 0x24 => updGrp s g fun x => { x with uncorr := 0 }
    | 0x28 => updGrp s g fun x => { x with rewrites := 0 }
    | _ => s

def ftlWriteReg (s : State) (g off : Nat) (v : Word) : State :=
  if off = 0x2C && groupPopulated s g then updGrp s g fun x => { x with thresh := v.setWidth 8 } else s

def ftlModuleReg (s : State) (off : Nat) : Nat :=
  match off with
  | 0x00 => s.ftl.energy.toNat + 2 ^ 16 * bnat (decide (600 ≤ s.ftl.energy.toNat))
  | 0x04 => s.ftl.powerLosses.toNat
  | _ => 0

/-! ### Links (R442) -/

/-- The codeword counts of a link as they read: what the PHY met since the last read, which no command reports, is a free value
(log entry 62). -/
def fecCorrNow (s : State) (l : Nat) : Dword := (link s l).fecCorr + freeVal s
def fecUncorrNow (s : State) (l : Nat) : Word := BitVec.ofNat 32 (min 0xFFFFFFFF ((link s l).fecUncorr.toNat + (freeVal s).toNat))

def lnkReg (s : State) (l off : Nat) : Nat :=
  let x := link s l
  match off with
  | 0x00 => x.st.val + x.partnerPos % 8 * 16 + x.partnerLink % 128 * 2 ^ 8 + (portOf s l).getD 0xF * 2 ^ 16
  | 0x08 => lo32 x.partnerNode.toNat
  | 0x0C => hi32 x.partnerNode.toNat
  | 0x10 => x.downs.toNat
  | 0x14 => if x.st == 2 then min 0xFFFF (ceilDiv (x.holdUntil - now s) 1000000) else 0
  | 0x18 => lo32 (fecCorrNow s l).toNat
  | 0x1C => hi32 (fecCorrNow s l).toNat
  | 0x20 => (fecUncorrNow s l).toNat
  | _ => 0

def lnkClear (s : State) (l off : Nat) : State :=
  match off with
  | 0x10 => updLink s l fun x => { x with downs := 0 }
  | 0x18 => drawn (updLink s l fun x => { x with fecCorr := fecCorrNow s l })
  | 0x1C => drawn (updLink s l fun x => { x with fecCorr := fecCorrNow s l })
  | 0x20 => drawn (updLink s l fun x => { x with fecUncorr := 0 })
  | _ => s

def trunkReg (s : State) (q off : Nat) : Nat :=
  let x := trunk s q
  let up := (upLinks s q).length
  match off with
  | 0x00 => up + 16 * bnat (decide (up ≠ 0))
  | 0x04 => (x.incarnation.getD 0).toNat
  | 0x08 => natSum ((List.range 16).map fun p => (conn s q p).msgs.length)
  | 0x0C => x.retx.toNat
  | 0x10 => x.dup.toNat
  | 0x14 => x.fail.toNat
  | 0x18 => x.rnr.toNat
  | 0x1C => x.bad.toNat
  | _ => 0

def trunkClear (s : State) (q off : Nat) : State :=
  match off with
  | 0x0C => updTrunk s q fun x => { x with retx := 0 }
  | 0x10 => updTrunk s q fun x => { x with dup := 0 }
  | 0x14 => updTrunk s q fun x => { x with fail := 0 }
  | 0x18 => updTrunk s q fun x => { x with rnr := 0 }
  | 0x1C => updTrunk s q fun x => { x with bad := 0 }
  | _ => s

def lnkModuleReg (s : State) (off : Nat) : Nat :=
  match off with
  | 0x00 => lo32 s.ident.nodeId.toNat
  | 0x04 => hi32 s.ident.nodeId.toNat
  | 0x08 => lo32 s.ident.macBase.toNat
  | 0x0C => hi32 s.ident.macBase.toNat
  | _ => 0

/-! ### Reset, clocks, power (R470) -/

def rstReg (s : State) (off : Nat) : Nat :=
  let x := s.rst
  if 0x50 ≤ off && off < 0x64 then (tget 0 x.sbGlitch ((off - 0x50) / 4)).toNat
  else match off with
    | 0x00 => x.cause.toNat + x.widest % 8 * 256
    | 0x04 => x.partSeen.toNat
    | 0x08 => lo32 x.exitTs.toNat
    | 0x0C => hi32 x.exitTs.toNat
    | 0x20 => x.blkIndex.toNat + x.blkType.toNat * 256
    | 0x24 => bnat x.blkBusy + 2 * bnat x.blkTimedOut
    | 0x28 => x.blkTimeout.toNat
    | 0x2C => x.blkFenced.toNat
    | 0x40 => x.sbLevel.toNat
    | 0x44 => x.sbMask.toNat
    | 0x70 => (tget 0 x.sbDropped 3).toNat
    | 0x74 => (tget 0 x.sbDropped 4).toNat
    | 0x80 => lo32 x.tsSync.toNat
    | 0x84 => hi32 x.tsSync.toNat
    | _ => 0

def rstClear (s : State) (off : Nat) : State :=
  if 0x50 ≤ off && off < 0x64 then updRst s fun x => { x with sbGlitch := tput x.sbGlitch ((off - 0x50) / 4) 0 }
  else match off with
    | 0x2C => updRst s fun x => { x with blkFenced := 0 }
    | 0x70 => updRst s fun x => { x with sbDropped := tput x.sbDropped 3 0 }
    | 0x74 => updRst s fun x => { x with sbDropped := tput x.sbDropped 4 0 }
    | _ => s

/-- RST_BLOCK_TIMEOUT takes 10 to 65,535 us; a smaller value is not taken (log entry 63). -/
def rstWrite (s : State) (off : Nat) (v : Word) : State :=
  match off with
  | 0x00 => updRst s fun x => { x with cause := x.cause &&& ~~~ (v.setWidth 7) }
  | 0x04 => updRst s fun x => { x with partSeen := x.partSeen &&& ~~~ (v.setWidth 16) }
  | 0x10 => kickWrite s v
  | 0x20 => blockReqWrite s v
  | 0x24 => if v.getLsbD 1 then updRst s fun x => { x with blkTimedOut := false } else s
  | 0x28 => if 10 ≤ bits v.toNat 15 0 then updRst s fun x => { x with blkTimeout := v.setWidth 16 } else s
  | 0x44 => unmaskInputs s v
  | _ => s

def clkReg (s : State) (off : Nat) : Nat :=
  if 0x10 ≤ off && off < 0x20 then
    let d := (off - 0x10) / 4
    tget 0 s.clk.point d % 8 + 8 * bnat (decide (tget 0 s.pwr.tPoint d ≠ 0))
  else match off with
    | 0x00 => s.clk.locked.toNat + 2 ^ 18 * bnat s.clk.refLost + 2 ^ 19 * bnat s.clk.source
    | 0x04 => s.clk.unlocks.toNat
    | _ => 0

def clkClear (s : State) (off : Nat) : State := if off = 0x04 then { s with clk := { s.clk with unlocks := 0 } } else s

def clkWrite (s : State) (off : Nat) (v : Word) : State :=
  if off = 0x00 && v.getLsbD 18 then { s with clk := { s.clk with refLost := false } } else s

def pwrReg (s : State) (off : Nat) : Nat :=
  let x := s.pwr
  if 0x20 ≤ off && off < 0x34 then int16 (tget 0 x.tj ((off - 0x20) / 4))
  else match off with
    | 0x00 => capInForce s + s.nvm.ps.val * 2 ^ 11
    | 0x04 => x.mean10.toNat + x.volts.toNat * 2 ^ 16
    | 0x08 => x.mean1s.toNat
    | 0x0C => throttleLevel s % 16 + 16 * bnat (decide (x.pPoint ≠ 0 ∨ x.pLevel ≠ 0))
        + 32 * bnat (decide (x.tLevel ≠ 0) || x.tPoint.any fun y => y.2 != 0) + 64 * bnat (braked s)
    | 0x40 => x.dips.toNat
    | 0x44 => x.trips.toNat
    | _ => 0

def pwrClear (s : State) (off : Nat) : State := if off = 0x40 then updPwr s fun x => { x with dips := 0 } else s

/-! ### Firmware store, calibration, errors (R489, R509) -/

def fwsReg (s : State) (off : Nat) : Nat :=
  let x := s.fw
  match off with
  | 0x00 => bnat x.cur.isSome + 2 * bnat x.suspended + 4 * bnat x.busyHit + 8 * bnat x.xoHit + x.running.val * 16 + 64 * bnat x.trial
      + 128 * bnat (fld (selection s) 4 1 == 1)
  | 0x04 => x.busyReads.toNat
  | 0x08 => x.xoReads.toNat
  | 0x0C => x.secMin.toNat
  | 0x10 => logFree s
  | 0x14 => x.progFails.toNat
  | 0x18 => lo32 x.erases.toNat
  | 0x1C => hi32 x.erases.toNat
  | _ => 0

def fwsClear (s : State) (off : Nat) : State :=
  match off with
  | 0x04 => updFw s fun x => { x with busyReads := 0 }
  | 0x08 => updFw s fun x => { x with xoReads := 0 }
  | _ => s

def fwsWrite (s : State) (off : Nat) (v : Word) : State :=
  if off = 0x00 then updFw s fun x => { x with busyHit := x.busyHit && !v.getLsbD 2, xoHit := x.xoHit && !v.getLsbD 3 } else s

def calReg (s : State) (off : Nat) : Nat :=
  match off with
  | 0x00 => (s.fw.offsets.filter fun x => x.2 != 0).length + 256 * bnat s.fw.factoryOk
  | 0x04 => s.fw.clamped.toNat
  | _ => 0

def calClear (s : State) (off : Nat) : State := if off = 0x04 then updFw s fun x => { x with clamped := 0 } else s

def rasReg (s : State) (off : Nat) : Nat :=
  let x := s.ras
  match off with
  | 0x00 => x.seq.toNat
  | 0x04 => x.ceDram.toNat
  | 0x08 => x.ceStore.toNat
  | 0x0C => x.ceRoot.toNat
  | 0x10 => x.ueDram.toNat
  | 0x14 => x.ueStore.toNat
  | 0x18 => x.ueRoot.toNat
  | 0x1C => x.addrErr.toNat
  | 0x20 => x.ceDropped.toNat
  | 0x24 => x.scrubDrop.toNat
  | 0x28 => x.dramPasses.toNat
  | 0x2C => (x.repairs.filter fun y => !y.inEffect).length + x.dxFree * 2 ^ 9
  | _ => 0

def rasClear (s : State) (off : Nat) : State :=
  match off with
  | 0x04 => updRas s fun x => { x with ceDram := 0 }
  | 0x08 => updRas s fun x => { x with ceStore := 0 }
  | 0x0C => updRas s fun x => { x with ceRoot := 0 }
  | 0x10 => updRas s fun x => { x with ueDram := 0 }
  | 0x14 => updRas s fun x => { x with ueStore := 0 }
  | 0x18 => updRas s fun x => { x with ueRoot := 0 }
  | 0x1C => updRas s fun x => { x with addrErr := 0 }
  | 0x20 => updRas s fun x => { x with ceDropped := 0 }
  | 0x24 => updRas s fun x => { x with scrubDrop := 0 }
  | _ => s

/-! ### Every block -/

/-- The value of a register of a block. -/
def blockReg (s : State) (b : RegBlock) (i off : Nat) : Nat :=
  match b with
  | .prt => prtReg s off
  | .clu => cluReg s i off
  | .arr => arrReg s i off
  | .num => numReg s i off
  | .qnt => qntReg s i off
  | .thy => thyReg s i off
  | .schClu => schCluReg s i off
  | .schPart => schPartReg s i off
  | .tie => tieReg s i off
  | .fen => fenReg s i off
  | .dil => dilReg s i off
  | .irs => irsReg s i off
  | .ast => astReg s i off
  | .nvm => nvmReg s i off
  | .ftl => ftlReg s i off
  | .ftlModule => ftlModuleReg s off
  | .lnk => lnkReg s i off
  | .lnkTrunk => trunkReg s i off
  | .lnkModule => lnkModuleReg s off
  | .rst => rstReg s off
  | .clk => clkReg s off
  | .pwr => pwrReg s off
  | .fws => fwsReg s off
  | .cal => calReg s off
  | .ras => rasReg s off
  | .dbg => dbgReg s off

/-- The effect of reading a register: its read-clear fields clear (R18). -/
def blockClear (s : State) (b : RegBlock) (i off : Nat) : State :=
  match b with
  | .prt => prtClear s off
  | .clu => cluClear s i off
  | .arr => arrClear s i off
  | .num => numClear s i off
  | .qnt => qntClear s i off
  | .schPart => schPartClear s i off
  | .tie => tieClear s i off
  | .fen => fenClear s i off
  | .dil => dilClear s i off
  | .irs => irsClear s i off
  | .ast => astClear s i off
  | .nvm => nvmClear s i off
  | .ftl => ftlClear s i off
  | .lnk => lnkClear s i off
  | .lnkTrunk => trunkClear s i off
  | .rst => rstClear s off
  | .clk => clkClear s off
  | .pwr => pwrClear s off
  | .fws => fwsClear s off
  | .cal => calClear s off
  | .ras => rasClear s off
  | .dbg => dbgClear s off
  | .thy | .schClu | .ftlModule | .lnkModule => s

/-- The effect of a write by Sage: RW, RW1C and WO fields act as their types define, everything else ignores it; the DBG block takes no write
of Sage (R18, R514). -/
def blockWrite (s : State) (b : RegBlock) (i off : Nat) (v : Word) : State :=
  match b with
  | .clu => cluWrite s i off v
  | .num => numWrite s i off v
  | .ftl => ftlWriteReg s i off v
  | .rst => rstWrite s off v
  | .clk => clkWrite s off v
  | .fws => fwsWrite s off v
  | .prt | .arr | .qnt | .thy | .schClu | .schPart | .tie | .fen | .dil | .irs | .ast | .nvm | .ftlModule | .lnk | .lnkTrunk | .lnkModule | .pwr
  | .cal | .ras | .dbg => s

/-- A module register, or a word of the store window, as an ordinary read: its value and the state after; none: nothing lies there. -/
def modRead (s : State) (a : Nat) : Option (Word × State) :=
  if fwsWindow ≤ a && a < fwsWindow + 0x10000000 then some (storeData s (a - fwsWindow))
  else (regAt a).map fun b => (BitVec.ofNat 32 (blockReg s b.1 b.2.1 b.2.2), blockClear s b.1 b.2.1 b.2.2)

/-! ### Mailbox windows (R32, R35-R38) -/

/-- The mailbox whose window an offset of a function's BAR2 lies in, and the offset in the window (R30): on the physical function window n is
that of mailbox n, on a virtual function window k that of the k-th mailbox of the partition assigned to it. -/
def windowOf (s : State) (fn : Fn) (off : Nat) : Option (Fin 256 × Nat) :=
  if fn.val = 0 then some (Fin.ofNat 256 (off / 0x10000), off % 0x10000)
  else if off < 0x100000 && vfExists s fn.val then
    (partOfVf s fn.val).map fun p => (Fin.ofNat 256 (16 * p + off / 0x10000), off % 0x10000)
  else none

/-- KLV_CTRL and KLV_STS as they read. -/
def klvCtrl (m : Mailbox) : Nat :=
  bnat m.en + 2 * bnat m.dmaBlock + 4 * bnat m.msixEn + m.reqLog2.toNat * 2 ^ 8 + m.cplLog2.toNat * 2 ^ 12 + m.msixVec.toNat * 2 ^ 16
def klvSts (s : State) (n : Nat) : Nat :=
  let m := mbox s n
  bnat (mbEnabled s n) + 2 * bnat m.active + 4 * bnat m.resetting + 8 * bnat m.cfgErr + 16 + 32 * bnat s.dbg.stalled + m.ver.toNat * 256

/-- A register of a mailbox window, as its owner reads it. -/
def klvReg (s : State) (n off : Nat) : Nat :=
  let m := mbox s n
  match off with
  | 0x1000 => klvCtrl m
  | 0x1004 => klvSts s n
  | 0x1008 => lo32 m.reqBase.toNat
  | 0x100C => hi32 m.reqBase.toNat
  | 0x1010 => lo32 m.cplBase.toNat
  | 0x1014 => hi32 m.cplBase.toNat
  | 0x1018 => m.hseqBase.toNat
  | 0x101C => m.defTimeout.toNat
  | 0x1020 => m.nextHseq.toNat
  | 0x1024 => m.nextDseq.toNat
  | 0x1028 => m.reqHead.toNat
  | 0x102C => m.cplTail.toNat
  | 0x1030 => (m.execs.filter fun x => !x.oow).length
  | 0x1034 => s.klv.cfgEpoch.toNat
  | 0x1038 => s.klv.incarnation.toNat
  | 0x103C => m.lateCnt.toNat
  | 0x1040 => m.heldCnt.toNat
  | _ => 0

def klvClear (s : State) (n off : Nat) : State :=
  match off with
  | 0x103C => updMb s n fun m => { m with lateCnt := 0 }
  | 0x1040 => updMb s n fun m => { m with heldCnt := 0 }
  | _ => s

/-- A field that takes writes only while ENABLED is 0; else the write sets CFG_ERR (R36). -/
def guardedWrite (s : State) (n : Nat) (f : Mailbox → Mailbox) : State :=
  updMb s n fun m => if m.enabled then { m with cfgErr := true } else f m

/-- A register of a mailbox window written by its owner. -/
def klvWrite (s : State) (n : Fin 256) (off : Nat) (v : Word) : State :=
  match off with
  | 0x0000 => updMb s n.val (reqDoorbell v)
  | 0x0004 => cplDbWrite s n.val v
  | 0x1000 => klvCtrlWrite s n v
  | 0x1004 => if v.getLsbD 3 then updMb s n.val fun m => { m with cfgErr := false } else s
  | 0x1008 => guardedWrite s n.val fun m => { m with reqBase := setLow m.reqBase v }
  | 0x100C => guardedWrite s n.val fun m => { m with reqBase := setHigh m.reqBase v }
  | 0x1010 => guardedWrite s n.val fun m => { m with cplBase := setLow m.cplBase v }
  | 0x1014 => guardedWrite s n.val fun m => { m with cplBase := setHigh m.cplBase v }
  | 0x1018 => guardedWrite s n.val fun m => { m with hseqBase := v }
  | 0x101C => updMb s n.val fun m => { m with defTimeout := v }
  | _ => s

/-! ### Controller properties (R358, R361, R362) -/

/-- CC written: enabling, a controller reset, a shutdown request, or its other fields. -/
def ccWrite (s : State) (fn : Fn) (v : Word) : Res :=
  let was := (ctrl s fn.val).cc.getLsbD 0
  if v.getLsbD 0 && !was then execCcEnSet fn v s
  else if !v.getLsbD 0 && was then execControllerReset fn v s
  else if bits v.toNat 15 14 != 0 && was then execShutdown fn v s
  else .next (updCtrl s fn.val fun x => { x with cc := ccFields v })

/-- A word of a doorbell: even ones are submission tails, odd ones completion heads, of queue q (R358: DSTRD 0). -/
def doorbellWrite (s : State) (fn : Fn) (off : Nat) (v : Word) : Res :=
  let i := (off - 0x1000) / 4
  if i % 2 = 0 then execSqDoorbell fn (i / 2) (v.setWidth 16) s else execCqHeadDoorbell fn (i / 2) (v.setWidth 16) s

/-- A property written. -/
def propWrite (s : State) (fn : Fn) (off : Nat) (v : Word) : Res :=
  let upd (g : Ctrl → Ctrl) : Res := .next (updCtrl s fn.val g)
  if !ctrlExists s fn.val || s.rst.active then .next s
  else if 0x1000 ≤ off then doorbellWrite s fn off v
  else match off with
    | 0x0C => upd fun x => { x with intm := x.intm ||| v }
    | 0x10 => upd fun x => { x with intm := x.intm &&& ~~~ v }
    | 0x14 => ccWrite s fn v
    | 0x1C => .next (if fn.val = 0 && v.getLsbD 4 then { s with nvm := { s.nvm with nssro := false } } else s)
    | 0x20 => execNssr fn v s
    | 0x24 => upd fun x => { x with aqa := v &&& 0x0FFF0FFF }
    | 0x28 => upd fun x => { x with asq := setLow x.asq (v &&& 0xFFFFF000) }
    | 0x2C => upd fun x => { x with asq := setHigh x.asq v }
    | 0x30 => upd fun x => { x with acq := setLow x.acq (v &&& 0xFFFFF000) }
    | 0x34 => upd fun x => { x with acq := setHigh x.acq v }
    | _ => .next s

/-! ### The rows (R18) -/

/-- Sage accesses a module address where nothing lies: an address fault, which is logged (R23, R76, R498; log entry 136). -/
def sageFaults (s : State) (r : RegRef) : Option Nat :=
  match r with
  | .module a =>
    let a := a.toNat
    let window := decide (fwsWindow ≤ a) && decide (a < fwsWindow + 0x10000000)
    if s.rst.sage && !populated a 4 && !window && (regAt a).isNone then some a else none
  | _ => none
def logSage (s : State) (a : Nat) : State := logErr s { source := 9, severity := 1, part := none, eflags := 2, address := a, requester := 0x41 }

/-- REGISTER_WRITE: by the host through BAR0 or BAR2, by Sage to a module address. -/
def execRegisterWrite (r : RegRef) (v : Word) (s : State) : Res :=
  match r with
  | .bar0 fn off => propWrite s fn (off.toNat / 4 * 4) v
  | .bar2 fn off =>
    match windowOf s fn off.toNat with
    | some (n, o) => .next (ownedWrite fn n s fun s => klvWrite s n o v)
    | none => .next s
  | .module a =>
    if !s.rst.sage then .next s
    else match regAt a.toNat, sageFaults s r with
      | some b, _ => .next (blockWrite s b.1 b.2.1 b.2.2 v)
      | none, some a => .next (logSage s a)
      | none, none => .next s

/-- An ordinary read of a register: its value, and the state after its read-clear fields have cleared (R18). A function that does not own a
mailbox, or Sage before it runs, reads zero. -/
def regRead (s : State) (r : RegRef) : Nat × State :=
  match r with
  | .bar0 fn off => (if !ctrlExists s fn.val || s.rst.active then 0 else propRead s fn.val (off.toNat / 4 * 4), s)
  | .bar2 fn off =>
    match windowOf s fn off.toNat with
    | some (n, o) => if ownerOf s n.val != fn.val || s.rst.active then (0, s) else (klvReg s n.val o, klvClear s n.val o)
    | none => (0, s)
  | .module a =>
    if !s.rst.sage then (0, s)
    else match modRead s a.toNat with
      | some x => (x.1.toNat, x.2)
      | none => (0, s)

/-- The register that follows (R17). -/
def regAfter (r : RegRef) : RegRef :=
  match r with
  | .bar0 fn off => .bar0 fn (off + 4)
  | .bar2 fn off => .bar2 fn (off + 4)
  | .module a => .module (a + 4)

/-- RC_READ: an ordinary read of a register, or of two that follow each other, both words from one instant (R17, R18; log entry 92); one that meets an
address fault returns nothing (R23, R498). -/
def execRcRead (r : RegRef) (wide : Bool) (s : State) : Res :=
  let x := regRead s r
  match (sageFaults s r).or (if wide then sageFaults s (regAfter r) else none) with
  | some a => .next (logSage s a)
  | none =>
  if wide then
    .next { (regRead x.2 (regAfter r)).2 with rdata := BitVec.ofNat 64 (x.1 % 2 ^ 32 + 2 ^ 32 * (regRead s (regAfter r)).1) }
  else .next { x.2 with rdata := BitVec.ofNat 64 x.1 }

end Sys2Proof.Machine
end

