-- ==== Sys2Proof/Machine/DebugAccess.lean ====
section
/-! DEFINITION. The debug transport (R511-R514): reads and writes of module addresses through the test access port. -/

namespace Sys2Proof.Machine

/-- STATUS of DBG_RESP (R511). -/
inductive DbgStatus where
  | ok | locked | denied | fault | reserved
  deriving DecidableEq, Repr

def dbgCode : DbgStatus → Nat
  | .ok => 0
  | .locked => 1
  | .denied => 2
  | .fault => 3
  | .reserved => 5

/-- DBG_RESP set by an access; one denied is counted (R524). -/
def dbgAnswer (s : State) (st : DbgStatus) (data : Word) : State :=
  updDbg s fun d => { d with
    resp := BitVec.ofNat 64 (data.toNat + dbgCode st * 2 ^ 32)
    denied := if st == .denied then satInc d.denied else d.denied }

/-- The partition that owns the unit of an address: a DRAM slice, a root segment, a cluster. -/
def unitOwnerAt (s : State) (a : Nat) : Option Nat :=
  if inDram a 4 then sliceOwner s (sliceOf a)
  else if inRoot a 4 then rootSegOwner s (rootSegOf a)
  else (List.range 32).findSome? fun c => if storeBase c ≤ a && a < storeBase c + 0x08000000 then clusterOwner s c else none

/-- The partition whose cluster's registers an address reads: what a cluster holds is not visible either (R514). -/
def blockPart (s : State) (b : RegBlock) (i : Nat) : Option Nat :=
  match b with
  | .clu | .num | .qnt | .thy | .schClu => clusterOwner s i
  | .arr => clusterOwner s (i / 16)
  | _ => none

/-- A sealed partition that has not consented hides its clusters, stores, slices and segments (R514). -/
def hiddenPart (s : State) (p : Option Nat) : Bool := p.any fun p => isSealed s p && !(pst s p).consent

/-- An access is denied: an XO section, or a unit of a hidden partition. -/
def debugDenied (s : State) (a : Nat) : Bool :=
  if fwsWindow ≤ a && a < fwsWindow + 0x10000000 then isXo s (a - fwsWindow)
  else match regAt a with
    | some b => hiddenPart s (blockPart s b.1 b.2.1)
    | none => hiddenPart s (unitOwnerAt s a)

/-- A read of memory met uncorrectable data: it is logged as for a Sage service, requester 33 (R496, R512). -/
def debugPoison (s : State) (a : Nat) : State :=
  if inDram a 4 then logDram s (unitOwnerAt s a) a 0
  else logErr s { source := if inRoot a 4 then 3 else 2, severity := 1, part := unitOwnerAt s a, address := a / 64 * 64, requester := 33 }

/-- A read of memory: DRAM as a non-caching read, stores as they stand. -/
def debugRead (s : State) (a : Nat) : State :=
  let s := if inDram a 4 then ncRead s a 4 else s
  if poisoned s a 4 then dbgAnswer (debugPoison s a) .fault 0 else dbgAnswer s .ok (BitVec.ofNat 32 (mnat s.mem a 4))

/-- A write of memory: DRAM as a non-caching write, stores with the write guard. -/
def debugWrite (s : State) (a : Nat) (v : Word) : State :=
  let bs := leBytes 4 v.toNat
  dbgAnswer (if inDram a 4 then ncWrite s a bs else storeWrite s a bs) .ok 0

/-- A read of a register: with EFFECT 0 a peek, which changes nothing, the access's own denial count apart (R513). -/
def debugPeek (s : State) (a : Nat) (effect : Bool) : State :=
  match modRead s a with
  | some x => dbgAnswer (if effect then x.2 else s) .ok x.1
  | none => dbgAnswer s .fault 0

/-- A write of a register: as Sage's, and the DBG block is written here alone (R514). -/
def debugPoke (s : State) (a : Nat) (v : Word) : State :=
  match regAt a with
  | some b => dbgAnswer (if b.1 == .dbg then dbgWrite s b.2.2 v else blockWrite s b.1 b.2.1 b.2.2 v) .ok 0
  | none => if fwsWindow ≤ a && a < fwsWindow + 0x10000000 then dbgAnswer s .ok 0 else dbgAnswer s .fault 0

/-- A read of an XO section sets XO_HIT, if it performs the effects of a read (R474, R513; log entry 64). -/
def xoTouch (s : State) (a : Nat) (effect : Bool) : State :=
  if effect && fwsWindow ≤ a && a < fwsWindow + 0x10000000 then (storeData s (a - fwsWindow)).2 else s

/-- A debug access (R511-R514). -/
def debugAccess (s : State) (v : BitVec 128) : State :=
  let n := v.toNat
  let a := bits n 47 0
  let w : Word := BitVec.ofNat 32 (bits n 95 64)
  let wr := bitAt n 96
  if s.dbg.locked then dbgAnswer s .locked 0
  else if bits n 63 48 != 0 || bits n 127 98 != 0 || a % 4 != 0 then dbgAnswer s .reserved 0
  else if debugDenied s a then dbgAnswer (xoTouch s a (!wr && bitAt n 97)) .denied 0
  else if regBase ≤ a then (if wr then debugPoke s a w else debugPeek s a (bitAt n 97))
  else if !populated a 4 then dbgAnswer s .fault 0
  else if wr then debugWrite s a w else debugRead s a

/-- DBG_CMD: while debug is locked the code selects BYPASS, and DBG_RESP reads STATUS 1 (R510, R511). -/
def execDbgCmd (v : BitVec 128) (s : State) : Res := .next (debugAccess s v)

end Sys2Proof.Machine
end

