-- ==== Sys2Proof/Machine/Functions.lean ====
section
/-! DEFINITION. PCIe functions (R95, R361): function-level resets, and virtual functions that exist or cease to exist. -/

namespace Sys2Proof.Machine

/-- FUNCTION_LEVEL_RESET: the function's controller is reset; EN is cleared and DMA_BLOCK set on every mailbox it owns (R361). -/
def execFunctionLevelReset (fn : Fn) (s : State) : Res :=
  if !ctrlExists s fn.val || s.rst.active then .next s else .next (resetCtrl (flrMailboxes s fn) fn.val)

/-- The SR-IOV capability written: VFs that cease to exist have their controllers reset as by a function-level reset, and mailboxes that pass
to another function are reset (R31, R33, R95). -/
def sriovWrite (s : State) (enable : Bool) (n : Nat) : State :=
  let new := updPrt s fun t => { t with vfEnable := enable, numVFs := n }
  let gone := (List.range 17).filter fun v => vfExists s v && !vfExists new v
  let came := (List.range 17).filter fun v => !vfExists s v && vfExists new v
  let new := (gone ++ came).foldl resetCtrl new
  ownerChange s new

/-- Some VF exists before and not after, or after and not before. -/
def vfsChange (s : State) (enable : Bool) (n : Nat) (come : Bool) : Bool :=
  let new := updPrt s fun t => { t with vfEnable := enable, numVFs := n }
  (List.range 17).any fun v => if come then !vfExists s v && vfExists new v else vfExists s v && !vfExists new v

/-- VF_ENABLE: a write to the capability by which some VF exists again, with CC.EN clear. -/
def execVfEnable (enable : Bool) (numVFs : Fin 17) (s : State) : Res :=
  if s.rst.active || !vfsChange s enable numVFs.val true then .next s else .next (sriovWrite s enable numVFs.val)

/-- VF_DISABLE: a write to the capability by which some VF ceases to exist. -/
def execVfDisable (enable : Bool) (numVFs : Fin 17) (s : State) : Res :=
  if s.rst.active || !vfsChange s enable numVFs.val false then .next s else .next (sriovWrite s enable numVFs.val)

end Sys2Proof.Machine
end

