-- ==== Sys2Proof/Machine/LineCheck.lean ====
section
/-! DEFINITION. Errors that a step meets as it reads: lines of DRAM and of the cluster stores (R491, R492, R494, R496), and the structures under
SEC-DED (R497). -/

namespace Sys2Proof.Machine

/-- A cluster is reset for an error of its own: Tilir's block reset begins (R455), or, while another block's is in progress, the cluster is
fenced and reset at once (log entry 118). -/
def raiseClusterReset (s : State) (c : Nat) : State :=
  if s.rst.blkBusy then blockFence s 0 c else blockReqWrite s (BitVec.ofNat 32 (c + 2 ^ 11))

/-- A SEC-DED error of a structure in cluster `c` (R497). -/
def clusterSecDed (s : State) (c : Nat) : SecDed → State
  | .clean => s
  | .corrected => logNewCorrected s { source := 0x0D, severity := 0, part := clusterOwner s c, unit := c } fun _ x => x
  | .uncorrectable => raiseClusterReset (logErr s { source := 0x0D, severity := 2, part := clusterOwner s c, unit := c }) c

/-- A SEC-DED error of a shared structure of DX (R497). -/
def sharedSecDed (s : State) : SecDed → State
  | .clean => s
  | .corrected => logNewCorrected s { source := 0x0D, severity := 0, part := none } fun _ x => x
  | .uncorrectable => assertWdt (logErr s { source := 0x0D, severity := 2, part := none })

/-- The access a bank serves in cycle `t`, with its row's module address (R115). -/
def servedAccess (s : State) (c t : Nat) (g : Fin 7) (b : Fin 64) : Option (RowAccess × Nat) :=
  let l := (cluster s c).ports
  ((accessFor l (portAt ((t + b.val) % 64)) g b).bind fun i => l[i]?).map fun x => (x.1, rowAddr c x.1)

/-- A row of a store as a bank finds it when it serves a read or a masked write: checked, and the data a read returns is the checked data;
none where it is uncorrectable (R492, R494, R496). -/
def findRow (c t : Nat) (s : State) (x : RowFound) : State :=
  match servedAccess s c t x.seg x.bank with
  | none => s
  | some (y, a) =>
    if y.write && y.mask == BitVec.allOnes 64 then s else checkLine c s 2 a (some x.row) fun s _ => s

/-- The row a served read returns where its bank found `x`. -/
def foundData (a : Nat) (x : RowFound) : List Byte :=
  match lineOutcome a x.row.data x.row.side.toNat with
  | .clean | .corrected _ =>
    if metaPoison (correctedMeta a x.row.data x.row.side.toNat) then [] else correctedData a x.row.data x.row.side.toNat
  | _ => []

/-- A row as its bank reads it: what `found` says of it, else as written; none where it is poisoned (R496). -/
def lookRow (found : List RowFound) (s : State) (g : Fin 7) (b : Fin 64) (a : Nat) : List Byte :=
  match found.find? fun x => x.seg == g && x.bank == b with
  | some x => foundData a x
  | none => if poisoned s a 64 then [] else mread s.mem a 64

/-- CLUSTER_CYCLE: the banks serve their ports; banks that serve a row find there what the input says, and every other row is as written; the
cluster's own structures show what it says (R115, R492, R497). -/
def execClusterCycle (c : Clu) (x : CycleInput) (s : State) : Res :=
  let t := (cluster s c.val).cycle.toNat % 64
  let s := x.found.foldl (findRow c.val t) (joinPorts s c.val x.arrivals)
  let s := serveBanks s c.val t (lookRow x.found)
  .next (clusterSecDed (endCycle s c.val) c.val x.ecc)

/-- Tilir's own data: a line of a DRAM slice that Sage reserves (R77). -/
def tilirData (s : State) (a : Nat) : Bool := inDram a 64 && decide (assignableSlices s.ident ≤ sliceOf a)

/-- Sage or DX's DMA reads a line of Tilir's own data that is uncorrectable: WDT is asserted (R496). -/
def tilirRead (s : State) (line : LineNo) (ids : List AgentId) : State :=
  if tilirData s (lineAddr line) && poisoned s (lineAddr line) 64 && ids.any (fun r => decide (32 ≤ r.val)) then assertWdt s else s

/-- The home agent reads the line in DRAM for a request, unless a cache owns it (R138). -/
def homeReads (s : State) (line : LineNo) : Bool :=
  inDram (lineAddr line) 64 && (match (tget dirReset s.coh.dir line).st with
    | .o _ => false
    | _ => true)

/-- Requests of a line reach its home agent, which reads and checks the line first if the request needs its data (R138, R492, R496, R497). -/
def homeRow (line : LineNo) (ids : List AgentId) (reads : Bool) (h : HomeInput) (s : State) (f : State → State) : State :=
  let who := (ids.head?.map (·.val)).getD 33
  let s := if reads && homeReads s line then checkLine who s 1 (lineAddr line) h.found fun s _ => s else s
  sharedSecDed (if reads then tilirRead (f s) line ids else f s) h.ecc

def execRdS (line : LineNo) (q : CohInput) (s : State) : Res :=
  .next (homeRow line q.ids true q.home s (cohRow .rdS line q.ids q.home.more))
def execRdX (line : LineNo) (q : CohInput) (s : State) : Res :=
  .next (homeRow line q.ids true q.home s (cohRow .rdX line q.ids q.home.more))
def execUpg (line : LineNo) (q : CohInput) (s : State) : Res :=
  .next (homeRow line q.ids true q.home s (cohRow .upg line q.ids q.home.more))
def execRdNc (line : LineNo) (q : NcInput) (s : State) : Res :=
  .next (homeRow line [q.r] true q.home s (ncRow .rdNc line q.r 0 [] q.home.more))
def execWrNc (line : LineNo) (q : NcInput) (data : List Byte) (s : State) : Res :=
  .next (homeRow line [q.r] false q.home s (ncRow .wrNc line q.r (BitVec.allOnes 64) (fit data 64) q.home.more))
def execWrNcPart (line : LineNo) (q : NcInput) (mask : Dword) (data : List Byte) (s : State) : Res :=
  .next (homeRow line [q.r] true q.home s (ncRow .wrNcPart line q.r mask (fit data 64) q.home.more))

end Sys2Proof.Machine
end

