-- ==== Sys2Proof/Machine/Mi.lean ====
section
/-! DEFINITION. The NVMe-MI endpoint (R469, R533-R535): its commands and addresses. Responses stand as the endpoint's message bytes; what the
NVMe-MI specification lays out and the spec does not restate is taken from there (log entry 65). -/

namespace Sys2Proof.Machine

/-- The endpoint answers from step 3 of the boot sequence until the next module-level reset (R534). -/
def miAnswers (s : State) : Bool := s.rst.ready && !s.rst.active && (s.fw.running != 2 || s.fw.recovered)

/-- Response statuses: success, invalid command opcode, invalid parameter (log entry 65). -/
def miOk (bs : List Byte) : List Byte := leBytes 1 0 ++ zeros 3 ++ bs
def miBadOpcode : List Byte := leBytes 1 3 ++ zeros 3
def miBadParam : List Byte := leBytes 1 4 ++ zeros 3

/-- A command answered with a response and a change of state, if the endpoint answers at all. -/
def miRow (s : State) (f : State → List Byte × State) : Res :=
  if miAnswers s then let r := f s; .next (emit r.2 (.mi r.1)) else .next s

/-- The response to a command that the endpoint does not support. -/
def miUnsupported (s : State) : List Byte × State := (miBadOpcode, s)

/-- SMBus frequencies: 1 for 100, 2 for 400, 3 for 1,000 kHz (R533). -/
def freqOk (v : Nat) : Bool := decide (1 ≤ v) && decide (v ≤ 3)

/-- Configuration Set (R469, R534): C0h unmasks event inputs, C1h clears RST_CAUSE bits, 01h sets the SMBus frequency, and 03h takes a
transmission unit of 64 alone. -/
def configSet (id : Byte) (v : Word) (s : State) : List Byte × State :=
  match id.toNat with
  | 0x01 => let f := bits v.toNat 11 8
            if freqOk f then (miOk [], { s with mi := { s.mi with smbusFreq := BitVec.ofNat 8 f } }) else (miBadParam, s)
  | 0x03 => if bits v.toNat 31 16 = 64 then (miOk [], s) else (miBadParam, s)
  | 0xC0 => (miOk [], unmaskInputs s v)
  | 0xC1 => (miOk [], updRst s fun r => { r with cause := r.cause &&& ~~~ (v.setWidth 7) })
  | _ => miUnsupported s

def execConfigurationSet (id : Byte) (v : Word) (s : State) : Res := miRow s (configSet id v)

/-- Configuration Get (R469, R534). -/
def configGet (id : Byte) (s : State) : List Byte × State :=
  match id.toNat with
  | 0x01 => (miOk (leBytes 4 s.mi.smbusFreq.toNat), s)
  | 0x03 => (miOk (leBytes 4 64), s)
  | 0xC0 => (miOk (leBytes 4 s.rst.sbMask.toNat), s)
  | 0xC1 => (miOk (leBytes 4 (s.rst.cause.toNat + s.rst.widest % 8 * 256)), s)
  | _ => miUnsupported s

def execConfigurationGet (id : Byte) (s : State) : Res := miRow s (configGet id)

/-- READ_NVME_MI_DATA_STRUCTURE: the subsystem (one port, version 1.2), the port, the controllers, and the commands supported. -/
def miStructure (dtyp : Byte) (s : State) : List Byte × State :=
  let cs := (List.range 17).filter (ctrlExists s)
  match dtyp.toNat with
  | 0x00 => (miOk (leBytes 1 1 ++ leBytes 1 1 ++ leBytes 1 2 ++ zeros 29), s)
  | 0x01 => (miOk (leBytes 1 2 ++ zeros 1 ++ leBytes 2 64 ++ zeros 4 ++ leBytes 1 0 ++ leBytes 1 3
                ++ leBytes 1 (0x60 + s.rst.groupPos) ++ zeros 21), s)
  | 0x02 => (miOk (leBytes 2 cs.length ++ cs.flatMap (leBytes 2)), s)
  | 0x03 => (miOk (zeros 2 ++ leBytes 2 0 ++ leBytes 2 cs.length), s)
  | 0x04 => (miOk (leBytes 2 6 ++ [0, 1, 2, 5, 3, 4].flatMap fun o => zeros 1 ++ leBytes 1 o), s)
  | _ => (miBadParam, s)

def execReadNvmeMiDataStructure (dtyp : Byte) (s : State) : Res := miRow s (miStructure dtyp)

/-- NVM Subsystem Health: the SMART warnings inverted, the composite temperature, the percentage used (R409, R535). -/
def subsystemHealth (s : State) : List Byte × State :=
  let gs := (coveredParts s 0).flatMap (partGroups s)
  let k := sensorK s 0
  (miOk (leBytes 1 0x38 ++ leBytes 1 (255 - criticalWarning s gs) ++ leBytes 1 (k - 273) ++ leBytes 1 (pctUsed s gs) ++ zeros 4), s)

def execSubsystemHealthStatusPoll (s : State) : Res := miRow s subsystemHealth

/-- Controller Health: of each controller its status, temperature, use, spare and warnings. -/
def controllerHealth (s : State) : List Byte × State :=
  let one (f : Nat) : List Byte :=
    let gs := (coveredParts s f).flatMap (partGroups s)
    leBytes 2 f ++ leBytes 2 (cstsOf (ctrl s f)) ++ leBytes 2 (sensorK s 0) ++ leBytes 1 (pctUsed s gs) ++ leBytes 1 (spareMin s gs)
      ++ leBytes 1 (criticalWarning s gs) ++ zeros 7
  let cs := (List.range 17).filter (ctrlExists s)
  (miOk (leBytes 1 cs.length ++ zeros 3 ++ cs.flatMap one), s)

def execControllerHealthStatusPoll (s : State) : Res := miRow s controllerHealth

/-- VPD: part number, serial and FW_VERSION, then NODE_ID and MAC_BASE, in 256 bytes (R534). -/
def vpd (s : State) : List Byte :=
  fit (partNumber s.ident ++ fit s.ident.serial 20 ++ runningVersion s ++ leBytes 8 s.ident.nodeId.toNat ++ leBytes 6 s.ident.macBase.toNat) 256

/-- VPD_READ of a range within the 256 bytes. -/
def vpdAns (off len : Nat) (s : State) : List Byte × State :=
  if 256 < off + len then (miBadParam, s) else (miOk (slice (vpd s) off len), s)

def execVpdRead (off len : Nat) (s : State) : Res := miRow s (vpdAns off len)

/-- The completion of a tunnelled command: DW0, reserved, the status in DW3, then its data. -/
def tunnelled (st : Nat × Nat) (dw0 : Nat) (bs : List Byte) : List Byte :=
  miOk (leBytes 4 dw0 ++ zeros 4 ++ leBytes 4 ((st.2 + st.1 * 256) * 2 ^ 17) ++ bs)

/-- TUNNELLED_ADMIN: Identify, Get Log Page and Get Features of controller 0; any other command is answered with Invalid Command Opcode. -/
def tunnelAns (e : List Byte) (s : State) : List Byte × State :=
  let data (x : Except (Nat × Nat) (List Byte)) : List Byte :=
    match x with
    | .error st => tunnelled st 0 []
    | .ok bs => tunnelled stOk 0 bs
  if !([0x02, 0x06, 0x0A] : List Nat).contains (sqOpc e) then (tunnelled stOpcode 0 [], s)
  else match fetchRefusal s 0 0 e with
  | some st => (tunnelled st 0 [], s)
  | none =>
  match sqOpc e with
  | 0x06 => (data (identifyAns s 0 e), s)
  | 0x02 =>
    match logAns s 0 e with
    | .error st => (tunnelled st 0 [], s)
    | .ok bs => (tunnelled stOk 0 bs, logRead s 0 e)
  | 0x0A =>
    match featureAns s 0 e with
    | .error st => (tunnelled st 0 [], s)
    | .ok (dw0, bs) => (tunnelled stOk dw0 bs, s)
  | _ => (tunnelled stOpcode 0 [], s)

def execTunnelledAdmin (sqe : List Byte) (s : State) : Res := miRow s (tunnelAns sqe)

/-- DYNAMIC_ADDRESS_ASSIGNMENT: an I3C controller gives the endpoint a dynamic address (R533). -/
def execDynamicAddressAssignment (addr : BitVec 7) (s : State) : Res :=
  if miAnswers s then .next { s with mi := { s.mi with dynamicAddr := some addr } } else .next s

/-- FAULT_N is low exactly while the module is halted under R465 (R526). -/
def faultN (s : State) : Bool := s.rst.halt != .thermal

end Sys2Proof.Machine
end

