-- ==== Sys2Proof/Machine/Dispatch.lean ====
section
/-! DEFINITION. One arm per command: each a call of that command's meaning. -/

namespace Sys2Proof.Machine

/-- The effect of a command on everything but the queue. -/
def exec (i : Instr) (s : State) : Host.Outcome State Fault Refusal :=
  match i with
  -- registers and mailboxes (R18, R35-R41, R44, R57, R66, R67)
  | .registerWrite r v => Sys2Proof.Machine.execRegisterWrite r v s
  | .rcRead r wide => Sys2Proof.Machine.execRcRead r wide s
  | .klvReqDb fn mb v => Sys2Proof.Machine.execKlvReqDb fn mb v s
  | .klvCplDb fn mb v => Sys2Proof.Machine.execKlvCplDb fn mb v s
  | .enSet fn mb v => Sys2Proof.Machine.execEnSet fn mb v s
  | .enabledRise mb => Sys2Proof.Machine.execEnabledRise mb s
  | .enClear fn mb v => Sys2Proof.Machine.execEnClear fn mb v s
  | .enabledFall mb => Sys2Proof.Machine.execEnabledFall mb s
  | .activeFall mb => Sys2Proof.Machine.execActiveFall mb s
  | .dmaBlock fn mb v => Sys2Proof.Machine.execDmaBlock fn mb v s
  | .mreset fn mb v => Sys2Proof.Machine.execMreset fn mb v s
  | .mresetDone mb => Sys2Proof.Machine.execMresetDone mb s
  | .requestConsume mb => Sys2Proof.Machine.execRequestConsume mb s
  | .completionPost mb => Sys2Proof.Machine.execCompletionPost mb s
  | .upperTimeout r => Sys2Proof.Machine.execUpperTimeout r s
  | .lateResult mb => Sys2Proof.Machine.execLateResult mb s
  | .hello r => Sys2Proof.Machine.execHello r s
  | .identify r => Sys2Proof.Machine.execIdentify r s
  | .abort r => Sys2Proof.Machine.execAbort r s
  | .readRecords r => Sys2Proof.Machine.execReadRecords r s
  | .eventWait r => Sys2Proof.Machine.execEventWait r s
  | .nop r => Sys2Proof.Machine.execNop r s
  | .functionLevelReset fn => Sys2Proof.Machine.execFunctionLevelReset fn s
  | .vfDisable enable numVFs => Sys2Proof.Machine.execVfDisable enable numVFs s
  | .vfEnable enable numVFs => Sys2Proof.Machine.execVfEnable enable numVFs s
  -- partitions (R85-R90, R98)
  | .configRead r => Sys2Proof.Machine.execConfigRead r s
  | .configApply r => Sys2Proof.Machine.execConfigApply r s
  | .configActivate => Sys2Proof.Machine.execConfigActivate s
  | .partReset r => Sys2Proof.Machine.execPartReset r s
  | .readState r => Sys2Proof.Machine.execReadState r s
  | .slotTable r => Sys2Proof.Machine.execSlotTable r s
  | .regulatorSlot p waiting sys => Sys2Proof.Machine.execRegulatorSlot p waiting sys s
  -- clusters (R115-R146)
  | .clusterCycle c x => Sys2Proof.Machine.execClusterCycle c x s
  | .dispatchWord c ready => Sys2Proof.Machine.execDispatchWord c ready s
  | .commandFinish c sl e => Sys2Proof.Machine.execCommandFinish c sl e s
  | .dmaCopy c sl => Sys2Proof.Machine.execDmaCopy c sl s
  | .dmaFill c sl => Sys2Proof.Machine.execDmaFill c sl s
  | .cacheOp c sl => Sys2Proof.Machine.execCacheOp c sl s
  | .vadd c sl => Sys2Proof.Machine.execVadd c sl s
  | .vsub c sl => Sys2Proof.Machine.execVsub c sl s
  | .vmul c sl => Sys2Proof.Machine.execVmul c sl s
  | .vfma c sl => Sys2Proof.Machine.execVfma c sl s
  | .vmax c sl => Sys2Proof.Machine.execVmax c sl s
  | .vmin c sl => Sys2Proof.Machine.execVmin c sl s
  | .vexp c sl => Sys2Proof.Machine.execVexp c sl s
  | .vlog c sl => Sys2Proof.Machine.execVlog c sl s
  | .vrcp c sl => Sys2Proof.Machine.execVrcp c sl s
  | .vrsqrt c sl => Sys2Proof.Machine.execVrsqrt c sl s
  | .vtanh c sl => Sys2Proof.Machine.execVtanh c sl s
  | .vsigm c sl => Sys2Proof.Machine.execVsigm c sl s
  | .vrsum c sl => Sys2Proof.Machine.execVrsum c sl s
  | .vrmax c sl => Sys2Proof.Machine.execVrmax c sl s
  | .vcvt c sl => Sys2Proof.Machine.execVcvt c sl s
  -- coherence (R136-R142); `ids` of a request row are the requesters whose requests arrive in one cycle (R139)
  | .rdS line q => Sys2Proof.Machine.execRdS line q s
  | .rdX line q => Sys2Proof.Machine.execRdX line q s
  | .upg line q => Sys2Proof.Machine.execUpg line q s
  | .rdNc line q => Sys2Proof.Machine.execRdNc line q s
  | .wrNc line q data => Sys2Proof.Machine.execWrNc line q data s
  | .wrNcPart line q mask data => Sys2Proof.Machine.execWrNcPart line q mask data s
  | .inv line o => Sys2Proof.Machine.execInv line o s
  | .recall line o => Sys2Proof.Machine.execRecall line o s
  | .downgrade line o => Sys2Proof.Machine.execDowngrade line o s
  | .wb line o data => Sys2Proof.Machine.execWb line o data s
  | .cleanEvict line o => Sys2Proof.Machine.execCleanEvict line o s
  | .invAck line o => Sys2Proof.Machine.execInvAck line o s
  | .dataM line o data => Sys2Proof.Machine.execDataM line o data s
  | .dataClean line o data => Sys2Proof.Machine.execDataClean line o data s
  | .ackWb line o => Sys2Proof.Machine.execAckWb line o s
  | .wbCommit line => Sys2Proof.Machine.execWbCommit line s
  | .gntS line o data => Sys2Proof.Machine.execGntS line o data s
  | .gntE line o data => Sys2Proof.Machine.execGntE line o data s
  | .gntX line o data => Sys2Proof.Machine.execGntX line o data s
  | .gntUpg line o => Sys2Proof.Machine.execGntUpg line o s
  | .wbAck line o => Sys2Proof.Machine.execWbAck line o s
  | .ncData line r data => Sys2Proof.Machine.execNcData line r data s
  | .ncAck line r => Sys2Proof.Machine.execNcAck line r s
  -- arrays (R152-R169)
  | .arrLayout c sl k => Sys2Proof.Machine.execArrLayout c sl k s
  | .arrMm c sl k => Sys2Proof.Machine.execArrMm c sl k s
  | .arrayGrant c k => Sys2Proof.Machine.execArrayGrant c k s
  | .arrayQuantumExpire c k => Sys2Proof.Machine.execArrayQuantumExpire c k s
  | .arrayTest r => Sys2Proof.Machine.execArrayTest r s
  | .arrayStatus r => Sys2Proof.Machine.execArrayStatus r s
  | .testPatternEnd c k fail => Sys2Proof.Machine.execTestPatternEnd c k fail s
  | .testResume c k => Sys2Proof.Machine.execTestResume c k s
  | .thyFill c sl => Sys2Proof.Machine.execThyFill c sl s
  -- synchronisation and context commands (R248-R252)
  | .syncNop c sl => Sys2Proof.Machine.execSyncNop c sl s
  | .barrier c sl => Sys2Proof.Machine.execBarrier c sl s
  | .remotePut c sl => Sys2Proof.Machine.execRemotePut c sl s
  | .remoteGet c sl => Sys2Proof.Machine.execRemoteGet c sl s
  | .rwait c sl => Sys2Proof.Machine.execRwait c sl s
  | .dlArm c sl => Sys2Proof.Machine.execDlArm c sl s
  | .dlCheck c sl => Sys2Proof.Machine.execDlCheck c sl s
  | .dlEnd c sl => Sys2Proof.Machine.execDlEnd c sl s
  | .deadlineExpire c sl => Sys2Proof.Machine.execDeadlineExpire c sl s
  | .pathStore c sl => Sys2Proof.Machine.execPathStore c sl s
  | .jump c sl => Sys2Proof.Machine.execJump c sl s
  | .loop c sl => Sys2Proof.Machine.execLoop c sl s
  | .yield c sl => Sys2Proof.Machine.execYield c sl s
  | .streamEnd c sl => Sys2Proof.Machine.execStreamEnd c sl s
  | .watchdogExpire c sl => Sys2Proof.Machine.execWatchdogExpire c sl s
  | .remoteResponse x => Sys2Proof.Machine.execRemoteResponse x s
  | .jobTeardown job => Sys2Proof.Machine.execJobTeardown job s
  | .load r => Sys2Proof.Machine.execLoad r s
  | .jobRun r => Sys2Proof.Machine.execJobRun r s
  | .suspend r => Sys2Proof.Machine.execSuspend r s
  | .resume r => Sys2Proof.Machine.execResume r s
  | .kill r => Sys2Proof.Machine.execKill r s
  | .jobStatus r => Sys2Proof.Machine.execJobStatus r s
  | .unload r => Sys2Proof.Machine.execUnload r s
  | .jobPlace job => Sys2Proof.Machine.execJobPlace job s
  | .jobEvict job => Sys2Proof.Machine.execJobEvict job s
  | .jobRestore job => Sys2Proof.Machine.execJobRestore job s
  -- memory tiers (R259-R283)
  | .tierCreate r => Sys2Proof.Machine.execTierCreate r s
  | .tierDelete r => Sys2Proof.Machine.execTierDelete r s
  | .promote r => Sys2Proof.Machine.execPromote r s
  | .evict r => Sys2Proof.Machine.execEvict r s
  | .tierFlush r => Sys2Proof.Machine.execTierFlush r s
  | .share r => Sys2Proof.Machine.execShare r s
  | .unshare r => Sys2Proof.Machine.execUnshare r s
  | .schedule r => Sys2Proof.Machine.execSchedule r s
  | .tierInfo r => Sys2Proof.Machine.execTierInfo r s
  | .pool r => Sys2Proof.Machine.execPool r s
  | .store job ecc => Sys2Proof.Machine.execStore job ecc s
  | .stage job => Sys2Proof.Machine.execStage job s
  | .writeback job => Sys2Proof.Machine.execWriteback job s
  | .release job => Sys2Proof.Machine.execRelease job s
  | .tileCopyDone obj tile root ecc => Sys2Proof.Machine.execTileCopyDone obj tile root ecc s
  | .dirtyWritebackTimer obj chunk => Sys2Proof.Machine.execDirtyWritebackTimer obj chunk s
  -- video ingest (R286-R322)
  | .addSource r => Sys2Proof.Machine.execAddSource r s
  | .removeSource r => Sys2Proof.Machine.execRemoveSource r s
  | .ingestCommit r => Sys2Proof.Machine.execIngestCommit r s
  | .sourceInfo r => Sys2Proof.Machine.execSourceInfo r s
  | .target r => Sys2Proof.Machine.execTarget r s
  | .ingestRun r => Sys2Proof.Machine.execIngestRun r s
  | .fetch r => Sys2Proof.Machine.execFetch r s
  | .sampleDecode p e ecc => Sys2Proof.Machine.execSampleDecode p e ecc s
  | .pieceWrite p => Sys2Proof.Machine.execPieceWrite p s
  | .pieceSend p t => Sys2Proof.Machine.execPieceSend p t s
  | .roceAck p t psn => Sys2Proof.Machine.execRoceAck p t psn s
  | .roceNak p t psn k => Sys2Proof.Machine.execRoceNak p t psn k s
  | .roceAckTimeout p t => Sys2Proof.Machine.execRoceAckTimeout p t s
  | .creditWrite p t consumed => Sys2Proof.Machine.execCreditWrite p t consumed s
  | .cnp p t => Sys2Proof.Machine.execCnp p t s
  | .rateRecoveryTimer p t => Sys2Proof.Machine.execRateRecoveryTimer p t s
  -- filter and search (R324-R356)
  | .scan r bad => Sys2Proof.Machine.execScan r bad s
  | .searchCreate r => Sys2Proof.Machine.execSearchCreate r s
  | .drop r => Sys2Proof.Machine.execDrop r s
  | .insert r => Sys2Proof.Machine.execInsert r s
  | .searchDelete r => Sys2Proof.Machine.execSearchDelete r s
  | .searchCommit r => Sys2Proof.Machine.execSearchCommit r s
  | .query r => Sys2Proof.Machine.execQuery r s
  | .merge r => Sys2Proof.Machine.execMerge r s
  | .searchInfo r => Sys2Proof.Machine.execSearchInfo r s
  -- NVMe (R358-R387)
  | .sqDoorbell fn sq v => Sys2Proof.Machine.execSqDoorbell fn sq v s
  | .sqFetch fn sq => Sys2Proof.Machine.execSqFetch fn sq s
  | .ccEnSet fn cc => Sys2Proof.Machine.execCcEnSet fn cc s
  | .controllerReset fn cc => Sys2Proof.Machine.execControllerReset fn cc s
  | .shutdown fn cc => Sys2Proof.Machine.execShutdown fn cc s
  | .nssr fn v => Sys2Proof.Machine.execNssr fn v s
  | .createIoSq k => Sys2Proof.Machine.execCreateIoSq k s
  | .deleteIoSq k => Sys2Proof.Machine.execDeleteIoSq k s
  | .createIoCq k => Sys2Proof.Machine.execCreateIoCq k s
  | .deleteIoCq k => Sys2Proof.Machine.execDeleteIoCq k s
  | .getLogPage k => Sys2Proof.Machine.execGetLogPage k s
  | .nvmeIdentify k => Sys2Proof.Machine.execNvmeIdentify k s
  | .nvmeAbort k => Sys2Proof.Machine.execNvmeAbort k s
  | .setFeatures k => Sys2Proof.Machine.execSetFeatures k s
  | .getFeatures k => Sys2Proof.Machine.execGetFeatures k s
  | .asynchronousEventRequest k => Sys2Proof.Machine.execAsynchronousEventRequest k s
  | .namespaceManagement k => Sys2Proof.Machine.execNamespaceManagement k s
  | .namespaceAttachment k => Sys2Proof.Machine.execNamespaceAttachment k s
  | .firmwareImageDownload k => Sys2Proof.Machine.execFirmwareImageDownload k s
  | .firmwareCommit k => Sys2Proof.Machine.execFirmwareCommit k s
  | .deviceSelfTest k => Sys2Proof.Machine.execDeviceSelfTest k s
  | .selfTestStep fn o => Sys2Proof.Machine.execSelfTestStep fn o s
  | .selfTestResume fn => Sys2Proof.Machine.execSelfTestResume fn s
  | .formatNvm k => Sys2Proof.Machine.execFormatNvm k s
  | .nvmeFlush k => Sys2Proof.Machine.execNvmeFlush k s
  | .write k => Sys2Proof.Machine.execWrite k s
  | .read k ecc latency => Sys2Proof.Machine.execRead k ecc latency s
  | .writeZeroes k => Sys2Proof.Machine.execWriteZeroes k s
  | .datasetManagement k => Sys2Proof.Machine.execDatasetManagement k s
  -- flash media (R382-R413)
  | .channelFrameSlot ch w => Sys2Proof.Machine.execChannelFrameSlot ch w s
  | .nandOpDone g die kind ok => Sys2Proof.Machine.execNandOpDone g die kind ok s
  | .fold g => Sys2Proof.Machine.execFold g s
  | .garbageCollect g => Sys2Proof.Machine.execGarbageCollect g s
  | .rewrite g => Sys2Proof.Machine.execRewrite g s
  | .patrolRead g nsid unit ecc => Sys2Proof.Machine.execPatrolRead g nsid unit ecc s
  | .checkpoint g => Sys2Proof.Machine.execCheckpoint g s
  | .holdupMeasure energy => Sys2Proof.Machine.execHoldupMeasure energy s
  | .tempHistoryInterval => Sys2Proof.Machine.execTempHistoryInterval s
  | .nsCommit r => Sys2Proof.Machine.execNsCommit r s
  | .nsMode r => Sys2Proof.Machine.execNsMode r s
  | .nsInfo r => Sys2Proof.Machine.execNsInfo r s
  | .groupInfo r => Sys2Proof.Machine.execGroupInfo r s
  | .holdupTest r energy => Sys2Proof.Machine.execHoldupTest r energy s
  -- links and Evsel (R415-R440)
  | .linkUp l f => Sys2Proof.Machine.execLinkUp l f s
  | .linkDown l => Sys2Proof.Machine.execLinkDown l s
  | .flapHoldExpire l => Sys2Proof.Machine.execFlapHoldExpire l s
  | .helloTx l => Sys2Proof.Machine.execHelloTx l s
  | .lldpTx l => Sys2Proof.Machine.execLldpTx l s
  | .helloTimeout l => Sys2Proof.Machine.execHelloTimeout l s
  | .evselHello l f => Sys2Proof.Machine.execEvselHello l f s
  | .evselData l f => Sys2Proof.Machine.execEvselData l f s
  | .evselAck l f => Sys2Proof.Machine.execEvselAck l f s
  | .nackSeq l f => Sys2Proof.Machine.execNackSeq l f s
  | .nackRnr l f => Sys2Proof.Machine.execNackRnr l f s
  | .cancel l f => Sys2Proof.Machine.execCancel l f s
  | .ackTimer k => Sys2Proof.Machine.execAckTimer k s
  | .gapTimer k => Sys2Proof.Machine.execGapTimer k s
  | .rnrResendTimer k => Sys2Proof.Machine.execRnrResendTimer k s
  | .rtoExpire k => Sys2Proof.Machine.execRtoExpire k s
  | .msgTimeoutExpire k => Sys2Proof.Machine.execMsgTimeoutExpire k s
  | .klovaReq k => Sys2Proof.Machine.execKlovaReq k s
  | .klovaCpl k => Sys2Proof.Machine.execKlovaCpl k s
  | .put k m => Sys2Proof.Machine.execPut k m s
  | .getReq k m => Sys2Proof.Machine.execGetReq k m s
  | .getData k x => Sys2Proof.Machine.execGetData k x s
  | .signal k job rank sig => Sys2Proof.Machine.execSignal k job rank sig s
  | .linkInfo r => Sys2Proof.Machine.execLinkInfo r s
  | .neighbours r => Sys2Proof.Machine.execNeighbours r s
  | .forward r => Sys2Proof.Machine.execForward r s
  | .hold r => Sys2Proof.Machine.execHold r s
  | .linkRelease r => Sys2Proof.Machine.execLinkRelease r s
  -- reset, clocks, power, sideband (R443-R469)
  | .porAssert => Sys2Proof.Machine.execPorAssert s
  | .modRstN e => Sys2Proof.Machine.execModRstN e s
  | .perstN e => Sys2Proof.Machine.execPerstN e s
  | .warm => Sys2Proof.Machine.execWarm s
  | .wdt => Sys2Proof.Machine.execWdt s
  | .kick v => Sys2Proof.Machine.execKick v s
  | .resetExit => Sys2Proof.Machine.execResetExit s
  | .pllLockLoss d => Sys2Proof.Machine.execPllLockLoss d s
  | .refclkLost => Sys2Proof.Machine.execRefclkLost s
  | .blockReset v => Sys2Proof.Machine.execBlockReset v s
  | .blockIdle => Sys2Proof.Machine.execBlockIdle s
  | .blockResetTimeout => Sys2Proof.Machine.execBlockResetTimeout s
  | .powerSample centivolts watts mean10ms mean1s => Sys2Proof.Machine.execPowerSample centivolts watts mean10ms mean1s s
  | .powerLoss internalRails => Sys2Proof.Machine.execPowerLoss internalRails s
  | .powerControlTick => Sys2Proof.Machine.execPowerControlTick s
  | .operatingPointChange d => Sys2Proof.Machine.execOperatingPointChange d s
  | .thermalSample temps => Sys2Proof.Machine.execThermalSample temps s
  | .envelopeSample inlet => Sys2Proof.Machine.execEnvelopeSample inlet s
  | .pwrbrkN e => Sys2Proof.Machine.execPwrbrkN e s
  | .tsSyncN e => Sys2Proof.Machine.execTsSyncN e s
  | .wakeReqN e => Sys2Proof.Machine.execWakeReqN e s
  | .configurationSet id v => Sys2Proof.Machine.execConfigurationSet id v s
  | .configurationGet id => Sys2Proof.Machine.execConfigurationGet id s
  | .readNvmeMiDataStructure dtyp => Sys2Proof.Machine.execReadNvmeMiDataStructure dtyp s
  | .subsystemHealthStatusPoll => Sys2Proof.Machine.execSubsystemHealthStatusPoll s
  | .controllerHealthStatusPoll => Sys2Proof.Machine.execControllerHealthStatusPoll s
  | .vpdRead off len => Sys2Proof.Machine.execVpdRead off len s
  | .tunnelledAdmin sqe => Sys2Proof.Machine.execTunnelledAdmin sqe s
  -- firmware store and boot (R471-R489)
  | .boot => Sys2Proof.Machine.execBoot s
  | .trialConfirm => Sys2Proof.Machine.execTrialConfirm s
  | .logCompact => Sys2Proof.Machine.execLogCompact s
  | .storeReadBusy off => Sys2Proof.Machine.execStoreReadBusy off s
  | .calRead r => Sys2Proof.Machine.execCalRead r s
  | .calWrite r => Sys2Proof.Machine.execCalWrite r s
  | .calClear r => Sys2Proof.Machine.execCalClear r s
  | .warmReset r => Sys2Proof.Machine.execWarmReset r s
  | .bootStatus r => Sys2Proof.Machine.execBootStatus r s
  | .recoveryLoad r => Sys2Proof.Machine.execRecoveryLoad r s
  -- error protection (R490-R508)
  | .dramScrub ch x => Sys2Proof.Machine.execDramScrub ch x s
  | .storeScrub c seg x => Sys2Proof.Machine.execStoreScrub c seg x s
  | .rootScrub x => Sys2Proof.Machine.execRootScrub x s
  | .logRead r => Sys2Proof.Machine.execLogRead r s
  | .retire r => Sys2Proof.Machine.execRetire r s
  | .repairStatus r => Sys2Proof.Machine.execRepairStatus r s
  -- debug (R510-R523)
  | .dbgCmd v => Sys2Proof.Machine.execDbgCmd v s
  | .dbgHalt v => Sys2Proof.Machine.execDbgHalt v s
  | .dbgResume v => Sys2Proof.Machine.execDbgResume v s
  | .dbgStep v => Sys2Proof.Machine.execDbgStep v s
  | .debugStalled => Sys2Proof.Machine.execDebugStalled s
  | .challenge r => Sys2Proof.Machine.execChallenge r s
  | .challengeExpire => Sys2Proof.Machine.execChallengeExpire s
  | .unlock r => Sys2Proof.Machine.execUnlock r s
  | .lock r => Sys2Proof.Machine.execLock r s
  | .consent r => Sys2Proof.Machine.execConsent r s
  | .debugStatus r => Sys2Proof.Machine.execDebugStatus r s
  -- store controller, completion doorbell, test port, management bus
  | .firmwareStoreOpDone ok => Sys2Proof.Machine.execFirmwareStoreOpDone ok s
  | .storeBrownOut => Sys2Proof.Machine.execStoreBrownOut s
  | .cqHeadDoorbell fn cq v => Sys2Proof.Machine.execCqHeadDoorbell fn cq v s
  | .tapInstructionUpdate ir => Sys2Proof.Machine.execTapInstructionUpdate ir s
  | .trstN => Sys2Proof.Machine.execTrstN s
  | .dynamicAddressAssignment addr => Sys2Proof.Machine.execDynamicAddressAssignment addr s

end Sys2Proof.Machine
end

