-- ==== Sys2Proof/WellFormed.lean ====
section
/-! DEFINITION. Well-formed commands: what an outside agent can send. Indices are bounded by their types; the plain data of a command has the
sizes its message or record has. -/

namespace Sys2Proof

/-- Populated memory of the module map (R22, R76): no register lies there. -/
def isMemory (a : Nat) : Bool :=
  decide (a < 0x007800000000) ||
    (decide (0x010000000000 ≤ a) && decide (a < 0x010100000000) && decide (a % 0x08000000 < 0x07000000)) ||
    (decide (0x012000000000 ≤ a) && decide (a < 0x012020000000))

/-- Registers are at 4-byte-aligned addresses (R17); a module address may also be one where nothing lies (R23). -/
def refOk : RegRef → Bool
  | .bar0 _ off => off.toNat % 4 == 0
  | .bar2 fn off => off.toNat % 4 == 0 && (fn.val == 0 || decide (off.toNat < 0x100000))
  | .module a => a.toNat % 4 == 0 && !isMemory a.toNat

/-- A line of usable DRAM (R76, R136). -/
def lineOk (line : LineNo) : Bool := decide (line < 0x007800000000 / 64)

/-- At least one requester, none twice (R139). -/
def idsOk (ids : List AgentId) : Bool := !ids.isEmpty && decide ids.Nodup

/-- A line's 64 bytes (R136). -/
def dataOk (data : List Byte) : Bool := decide (data.length = 64)

/-- A read brings no data, a write 64 bytes (R116). -/
def accessOk (x : RowAccess) : Bool := if x.write then dataOk x.data else x.data.isEmpty

/-- What an ECC read finds: a line of 64 bytes (R490). -/
def lineReadOk (x : Option LineRead) : Bool := x.all fun y => dataOk y.data

/-- An Evsel frame: a header of 32 bytes and a payload of at most 4,096 (R424, R425). -/
def frameOk (f : EvFrame) : Bool := decide (f.header.length = 32) && decide (f.payload.length ≤ 4096)

/-- A rank of a job, and data within a landing area (R236, R248). -/
def respOk (x : RemoteResp) : Bool := decide (x.rank < 32) && decide (x.data.length < 2 ^ 32)
def putOk (m : PutMsg) : Bool := decide (m.rank < 32) && decide (m.off + m.data.length < 2 ^ 32)
def getOk (m : GetMsg) : Bool := decide (m.rank < 32) && decide (m.fromRank < 32) && decide (m.off + m.len < 2 ^ 33)

/-- A submission queue identifier (R363). -/
def keyOk (k : CmdKey) : Bool := decide (k.sq ≤ 256)

/-- A well-formed command. -/
def Instr.wf (i : Instr) : Bool :=
  match i with
  | .registerWrite r _ => refOk r
  | .rcRead r _ => refOk r
  | .klvReqDb _ _ _ => true
  | .klvCplDb _ _ _ => true
  | .enSet _ _ _ => true
  | .enabledRise _ => true
  | .enClear _ _ _ => true
  | .enabledFall _ => true
  | .activeFall _ => true
  | .dmaBlock _ _ _ => true
  | .mreset _ _ _ => true
  | .mresetDone _ => true
  | .requestConsume _ => true
  | .completionPost _ => true
  | .upperTimeout _ => true
  | .lateResult _ => true
  | .hello _ => true
  | .identify _ => true
  | .abort _ => true
  | .readRecords _ => true
  | .eventWait _ => true
  | .nop _ => true
  | .functionLevelReset _ => true
  | .vfDisable _ _ => true
  | .vfEnable _ _ => true
  | .configRead _ => true
  | .configApply _ => true
  | .configActivate => true
  | .partReset _ => true
  | .readState _ => true
  | .slotTable _ => true
  | .regulatorSlot _ _ _ => true
  | .clusterCycle _ x => x.arrivals.all accessOk && x.found.all fun x => dataOk x.row.data
  | .dispatchWord _ _ => true
  | .commandFinish _ _ _ => true
  | .dmaCopy _ _ => true
  | .dmaFill _ _ => true
  | .cacheOp _ _ => true
  | .vadd _ _ => true
  | .vsub _ _ => true
  | .vmul _ _ => true
  | .vfma _ _ => true
  | .vmax _ _ => true
  | .vmin _ _ => true
  | .vexp _ _ => true
  | .vlog _ _ => true
  | .vrcp _ _ => true
  | .vrsqrt _ _ => true
  | .vtanh _ _ => true
  | .vsigm _ _ => true
  | .vrsum _ _ => true
  | .vrmax _ _ => true
  | .vcvt _ _ => true
  | .rdS line q => lineOk line && idsOk q.ids && lineReadOk q.home.found
  | .rdX line q => lineOk line && idsOk q.ids && lineReadOk q.home.found
  | .upg line q => lineOk line && idsOk q.ids && lineReadOk q.home.found
  | .rdNc line q => lineOk line && lineReadOk q.home.found
  | .wrNc line q data => lineOk line && dataOk data && lineReadOk q.home.found
  | .wrNcPart line q _ data => lineOk line && dataOk data && lineReadOk q.home.found
  | .inv line _ => lineOk line
  | .recall line _ => lineOk line
  | .downgrade line _ => lineOk line
  | .wb line _ data => lineOk line && dataOk data
  | .cleanEvict line _ => lineOk line
  | .invAck line _ => lineOk line
  | .dataM line _ data => lineOk line && dataOk data
  | .dataClean line _ data => lineOk line && dataOk data
  | .ackWb line _ => lineOk line
  | .wbCommit line => lineOk line
  | .gntS line _ data => lineOk line && dataOk data
  | .gntE line _ data => lineOk line && dataOk data
  | .gntX line _ data => lineOk line && dataOk data
  | .gntUpg line _ => lineOk line
  | .wbAck line _ => lineOk line
  | .ncData line _ data => lineOk line && (data.isEmpty || dataOk data)
  | .ncAck line _ => lineOk line
  | .arrLayout _ _ _ => true
  | .arrMm _ _ _ => true
  | .arrayGrant _ _ => true
  | .arrayQuantumExpire _ _ => true
  | .arrayTest _ => true
  | .arrayStatus _ => true
  | .testPatternEnd _ _ _ => true
  | .testResume _ _ => true
  | .thyFill _ _ => true
  | .syncNop _ _ => true
  | .barrier _ _ => true
  | .remotePut _ _ => true
  | .remoteGet _ _ => true
  | .rwait _ _ => true
  | .dlArm _ _ => true
  | .dlCheck _ _ => true
  | .dlEnd _ _ => true
  | .deadlineExpire _ _ => true
  | .pathStore _ _ => true
  | .jump _ _ => true
  | .loop _ _ => true
  | .yield _ _ => true
  | .streamEnd _ _ => true
  | .watchdogExpire _ _ => true
  | .remoteResponse x => respOk x
  | .jobTeardown _ => true
  | .load _ => true
  | .jobRun _ => true
  | .suspend _ => true
  | .resume _ => true
  | .kill _ => true
  | .jobStatus _ => true
  | .unload _ => true
  | .jobPlace _ => true
  | .jobEvict _ => true
  | .jobRestore _ => true
  | .tierCreate _ => true
  | .tierDelete _ => true
  | .promote _ => true
  | .evict _ => true
  | .tierFlush _ => true
  | .share _ => true
  | .unshare _ => true
  | .schedule _ => true
  | .tierInfo _ => true
  | .pool _ => true
  | .store _ _ => true
  | .stage _ => true
  | .writeback _ => true
  | .release _ => true
  | .tileCopyDone _ tile _ _ => decide (tile < 2 ^ 32)
  | .dirtyWritebackTimer _ chunk => decide (chunk < 2 ^ 32)
  | .addSource _ => true
  | .removeSource _ => true
  | .ingestCommit _ => true
  | .sourceInfo _ => true
  | .target _ => true
  | .ingestRun _ => true
  | .fetch _ => true
  | .sampleDecode _ _ _ => true
  | .pieceWrite _ => true
  | .pieceSend _ _ => true
  | .roceAck _ _ _ => true
  | .roceNak _ _ _ _ => true
  | .roceAckTimeout _ _ => true
  | .creditWrite _ _ _ => true
  | .cnp _ _ => true
  | .rateRecoveryTimer _ _ => true
  | .scan _ _ => true
  | .searchCreate _ => true
  | .drop _ => true
  | .insert _ => true
  | .searchDelete _ => true
  | .searchCommit _ => true
  | .query _ => true
  | .merge _ => true
  | .searchInfo _ => true
  | .sqDoorbell _ sq _ => decide (sq < 65536)
  | .sqFetch _ sq => decide (sq < 65536)
  | .ccEnSet _ _ => true
  | .controllerReset _ _ => true
  | .shutdown _ _ => true
  | .nssr _ _ => true
  | .createIoSq k => keyOk k
  | .deleteIoSq k => keyOk k
  | .createIoCq k => keyOk k
  | .deleteIoCq k => keyOk k
  | .getLogPage k => keyOk k
  | .nvmeIdentify k => keyOk k
  | .nvmeAbort k => keyOk k
  | .setFeatures k => keyOk k
  | .getFeatures k => keyOk k
  | .asynchronousEventRequest k => keyOk k
  | .namespaceManagement k => keyOk k
  | .namespaceAttachment k => keyOk k
  | .firmwareImageDownload k => keyOk k
  | .firmwareCommit k => keyOk k
  | .deviceSelfTest k => keyOk k
  | .selfTestStep _ _ => true
  | .selfTestResume _ => true
  | .formatNvm k => keyOk k
  | .nvmeFlush k => keyOk k
  | .write k => keyOk k
  | .read k _ latency => keyOk k && decide (latency < 2 ^ 64)
  | .writeZeroes k => keyOk k
  | .datasetManagement k => keyOk k
  | .channelFrameSlot _ _ => true
  | .nandOpDone _ _ _ _ => true
  | .fold _ => true
  | .garbageCollect _ => true
  | .rewrite _ => true
  | .patrolRead _ _ unit _ => decide (unit < 2 ^ 34)
  | .checkpoint _ => true
  | .holdupMeasure energy => decide (energy < 65536)
  | .tempHistoryInterval => true
  | .nsCommit _ => true
  | .nsMode _ => true
  | .nsInfo _ => true
  | .groupInfo _ => true
  | .holdupTest _ energy => decide (energy < 65536)
  | .linkUp _ f => frameOk f
  | .linkDown _ => true
  | .flapHoldExpire _ => true
  | .helloTx _ => true
  | .lldpTx _ => true
  | .helloTimeout _ => true
  | .evselHello _ f => frameOk f
  | .evselData _ f => frameOk f
  | .evselAck _ f => frameOk f
  | .nackSeq _ f => frameOk f
  | .nackRnr _ f => frameOk f
  | .cancel _ f => frameOk f
  | .ackTimer _ => true
  | .gapTimer _ => true
  | .rnrResendTimer _ => true
  | .rtoExpire _ => true
  | .msgTimeoutExpire _ => true
  | .klovaReq _ => true
  | .klovaCpl _ => true
  | .put _ m => putOk m
  | .getReq _ m => getOk m
  | .getData _ x => respOk x
  | .signal _ _ rank _ => decide (rank < 32)
  | .linkInfo _ => true
  | .neighbours _ => true
  | .forward _ => true
  | .hold _ => true
  | .linkRelease _ => true
  | .porAssert => true
  | .modRstN _ => true
  | .perstN _ => true
  | .warm => true
  | .wdt => true
  | .kick _ => true
  | .resetExit => true
  | .pllLockLoss _ => true
  | .refclkLost => true
  | .blockReset _ => true
  | .blockIdle => true
  | .blockResetTimeout => true
  | .powerSample centivolts watts mean10ms mean1s => decide (centivolts < 65536) && decide (watts < 65536) && decide (mean10ms < 65536) && decide (mean1s < 65536)
  | .powerLoss _ => true
  | .powerControlTick => true
  | .operatingPointChange _ => true
  | .thermalSample temps => decide (temps.length = 42)
  | .envelopeSample _ => true
  | .pwrbrkN _ => true
  | .tsSyncN _ => true
  | .wakeReqN _ => true
  | .configurationSet _ _ => true
  | .configurationGet _ => true
  | .readNvmeMiDataStructure _ => true
  | .subsystemHealthStatusPoll => true
  | .controllerHealthStatusPoll => true
  | .vpdRead off len => decide (off < 65536) && decide (len < 65536)
  | .tunnelledAdmin sqe => decide (sqe.length = 64)
  | .boot => true
  | .trialConfirm => true
  | .logCompact => true
  | .storeReadBusy off => decide (off < 0x10000000)
  | .calRead _ => true
  | .calWrite _ => true
  | .calClear _ => true
  | .warmReset _ => true
  | .bootStatus _ => true
  | .recoveryLoad _ => true
  | .dramScrub _ x => lineReadOk x
  | .storeScrub _ _ x => lineReadOk x
  | .rootScrub x => lineReadOk x
  | .logRead _ => true
  | .retire _ => true
  | .repairStatus _ => true
  | .dbgCmd _ => true
  | .dbgHalt _ => true
  | .dbgResume _ => true
  | .dbgStep _ => true
  | .debugStalled => true
  | .challenge _ => true
  | .challengeExpire => true
  | .unlock _ => true
  | .lock _ => true
  | .consent _ => true
  | .debugStatus _ => true
  | .firmwareStoreOpDone _ => true
  | .storeBrownOut => true
  | .cqHeadDoorbell _ cq _ => decide (cq < 65536)
  | .tapInstructionUpdate _ => true
  | .trstN => true
  | .dynamicAddressAssignment _ => true

end Sys2Proof
end

