-- ==== Sys2Proof/Safety.lean ====
section
/-! DEFINITION. What a safe run keeps, and the terms the statements are written in: memories in canonical form, what a command leaves
alone, requests at their turn and the completions they give. -/

namespace Sys2Proof.Machine

/-- Every memory of the state is in its canonical form. -/
abbrev State.memOk (s : State) : Prop :=
  Memory.wf s.mem = true ∧ Memory.wf s.hmem = true ∧ Memory.wf s.fw.nor = true ∧ Memory.wf s.nvm.fwImage = true

/-! ### Mailboxes -/

/-- A write by function `fn` reaches the window of mailbox `n`: `fn` owns it, the module is not in reset, and it is no Evsel mailbox. -/
abbrev Writable (s : State) (fn : Fn) (n : Mb) : Prop :=
  ownerOf s n.val = fn.val ∧ s.rst.active = false ∧ isEvselMb s n.val = false

/-- `t` is `s` but for mailbox `n`. -/
def OnlyMailbox (s t : State) (n : Nat) : Prop :=
  (∀ k, k ≠ n → mbox t k = mbox s k) ∧ { t with klv := s.klv } = s ∧ { t.klv with mbs := s.klv.mbs } = s.klv

/-- `t` is `s` but for mailbox `n` and what its transfers do: host memory, the bus transactions, and the free bytes drawn for out-buffers. -/
def OnlyMailboxAndHost (s t : State) (n : Nat) : Prop :=
  (∀ k, k ≠ n → mbox t k = mbox s k) ∧ { t with klv := s.klv, hmem := s.hmem, bus := s.bus, free := s.free } = s ∧
  { t.klv with mbs := s.klv.mbs } = s.klv

/-- Everything but the mailboxes and what their transfers do is unchanged. -/
def OutsideKlovaSame (s t : State) : Prop := { t with klv := s.klv, hmem := s.hmem, bus := s.bus, free := s.free } = s

/-- The bus transactions from `s` to `t` carry the requester ID of function `fn` (R80). -/
def BusBy (s t : State) (fn : Nat) : Prop := ∃ l, t.bus = s.bus ++ l ∧ ∀ x ∈ l, x.fn = fn

/-! ### Requests -/

/-- Request `x`, named `r`, is executing with CLASS `cls` and OPCODE `op` and may begin (R58), in the configuration of its acceptance where
its class is another than PART (R93). -/
abbrev AtTurn (s : State) (r : ReqId) (x : Exec) (cls op : Nat) : Prop :=
  findExec s r = some x ∧ entCls x.entry = cls ∧ entOp x.entry = op ∧ canBegin r (mbox s r.mb.val).execs x = true ∧
  (cls = 2 ∨ x.cfg = s.prt.cfg)

/-- The state with request `r` begun (R58). -/
def begunExec (s : State) (r : ReqId) : State := updExec s r fun y => { y with begun := true }

/-- The completions and payloads of the request's mailbox go out: EN is 1, DMA_BLOCK is 0, no host memory fails, and the request is a local
one. -/
abbrev Outlet (s : State) (r : ReqId) (x : Exec) : Prop :=
  (mbox s r.mb.val).en = true ∧ (mbox s r.mb.val).dmaBlock = false ∧ x.evsel = none ∧ s.hdead = []

/-- The completion of `x` that answers `a`; `done`: with its commit point passed. -/
def cplDone (s : State) (x : Exec) (done : Bool) (a : Ans) : Cpl := cplOf s.ts { x with committed := x.committed || done } a

/-- Host memory from `hm` to `hm'` has taken what answer `a` leaves in the out-buffers of entry `e`: the out-payload, or, after a status other
than OK and SHORT with no out-payload, bytes that are left open (R49). -/
def Buffers (hm hm' : Memory) (e : List Byte) (a : Ans) : Prop :=
  ∃ bs, hm' = scatter hm (regions hm e) bs ∧ (a.out ≠ [] ∨ a.status < 2 → bs = a.out)

/-- From `s` to `t` request `r` has completed, once, with `a`: it no longer executes, its completion (and its replays) wait after those
already waiting, and its out-payload stands in host memory. -/
def Completes (s t : State) (r : ReqId) (x : Exec) (done : Bool) (a : Ans) : Prop :=
  (mbox t r.mb.val).execs = dropFirst (isReq r) (mbox s r.mb.val).execs ∧
  (mbox t r.mb.val).waiting = (mbox s r.mb.val).waiting ++ waitingOf (cplDone s x done a) x a.out ∧
  Buffers s.hmem t.hmem x.entry a

/-- No request of the partition accepted before `x` still waits to begin, so that it is next at every lock (R281). -/
abbrev NothingEarlier (s : State) (r : ReqId) (x : Exec) : Prop :=
  ∀ n ∈ mbsOf (reqPart r), ∀ y ∈ (mbox s n.val).execs, y.begun = true ∨ x.order ≤ y.order

/-- `t` posts the completion of `x` with `a`. -/
def Posts (s t : State) (r : ReqId) (x : Exec) (done : Bool) (a : Ans) : Prop :=
  ∃ w ∈ (mbox t r.mb.val).waiting, w.cpl = cplDone s x done a ∧ w.replay = false ∧ w.outPayload = a.out

/-! ### Clusters -/

/-- Every slot but slot `i` of cluster `c` is as before. -/
def OtherSlotsSame (s t : State) (c i : Nat) : Prop := ∀ c' i', c' * 4 + i' ≠ c * 4 + i → slot t c' i' = slot s c' i'

/-- A slot after its command `w` has finished at budget clock `b`: its watchdog starts again, and its ticket is posted if POST_EN is set, with
the clock at which it reached its count (R120, R249, R252). -/
def finishedSlot (b : Dword) (sl : Slot) (w : List Byte) : Slot :=
  let n : Half := tget 0 sl.tkt (wPostTkt w) + 1
  if wPostEn w then
    { sl with wd := 0, tkt := tput sl.tkt (wPostTkt w) n, postAt := tput sl.postAt (wPostTkt w * 65536 + n.toNat) b }
  else { sl with wd := 0 }

/-- A command done with its accesses, as it waits to finish (R121). -/
def doneCmd (e : Engine) (q : QCmd) (f : NumFlags) : Done := { eng := e, cmd := q, flags := f }

/-- The vector queue's head `q` runs next on the unit: the word has this opcode, and the unit takes this slot's command next, for which the
context is RUNNING, the wait met, and the command before it finished (R129, R244). -/
abbrev VecReady (s : State) (c : Clu) (i : SlotIx) (op : Nat) (q : QCmd) (l : List QCmd) : Prop :=
  (slot s c.val i.val).vecQ = q :: l ∧ wOp q.word = op ∧ vecTurn s c.val = some i.val

/-- The DMA queue's head `q` runs next on the engine. -/
abbrev DmaReady (s : State) (c : Clu) (i : SlotIx) (op : Nat) (q : QCmd) (l : List QCmd) : Prop :=
  (slot s c.val i.val).dmaQ = q :: l ∧ wOp q.word = op ∧ dmaTurn s c.val = some i.val

/-- `t` has the clusters of `s`, but that cluster `c` is `k`. -/
def CluSet (s t : State) (c : Nat) (k : Cluster) : Prop := cluster t c = k ∧ ∀ d, d ≠ c → cluster t d = cluster s d

/-- The head `q` of the slot's queue for array `k` may run. -/
abbrev ArrReady (s : State) (c : Clu) (i : SlotIx) (k : ArrIx) (op : Nat) (q : QCmd) (l : List QCmd) : Prop :=
  tget [] (slot s c.val i.val).arrQ k.val = q :: l ∧ running s c.val i.val = true ∧ wOp q.word = op ∧
    waitMet (slot s c.val i.val) q.word = true ∧ engineFree s c.val i.val (.arr k) = true

/-- The dispatcher of a RUNNING context holds the well-formed synchronisation command `q`, with its wait met. -/
abbrev SyncHeld (s : State) (c : Clu) (i : SlotIx) (op : Nat) (q : QCmd) (j : Job) : Prop :=
  (slot s c.val i.val).cur = some q ∧ slotJob s c.val i.val = some j ∧ running s c.val i.val = true ∧ wOp q.word = op ∧
    syncReserved q.word = false ∧ waitMet (slot s c.val i.val) q.word = true

/-- An address lies in one of the pieces of a view range. -/
def InPieces (ps : List (Nat × Nat)) (a : Nat) : Prop := ∃ p ∈ ps, p.1 ≤ a ∧ a < p.1 + p.2

/-- The store of cluster `c` is the only memory that changed. -/
def OnlyStore (s t : State) (c : Nat) : Prop := ∀ a, a < storeBase c ∨ storeBase c + storeLen ≤ a → mget t.mem a = mget s.mem a

/-- The plain vector commands with their opcodes (R145). -/
def vectorRows (c : Clu) (i : SlotIx) : List (Instr × Nat) :=
  [(.vadd c i, 0x60), (.vsub c i, 0x61), (.vmul c i, 0x62), (.vfma c i, 0x63), (.vmax c i, 0x64), (.vmin c i, 0x65), (.vexp c i, 0x68),
   (.vlog c i, 0x69), (.vrcp c i, 0x6A), (.vrsqrt c i, 0x6B), (.vtanh c i, 0x6C), (.vsigm c i, 0x6D), (.vrsum c i, 0x70), (.vrmax c i, 0x71)]

/-! ### Coherence -/

/-- What a home agent finds as a request reaches it alone in its cycle, with no error. -/
def quietHome : HomeInput := { more := false, found := none, ecc := .clean }

/-- Caching requests of `ids` for a line, arriving so. -/
def cohQuiet (ids : List AgentId) : CohInput := { ids, home := quietHome }

/-- A non-caching request of `r`, arriving so. -/
def ncQuiet (r : AgentId) : NcInput := { r, home := quietHome }

/-- No message is under way between agent `o` and the home agent of a line. -/
def PairQuiet (s : State) (line : Nat) (o : AgentId) : Prop := ∀ x ∈ s.coh.net, x.2.1 = o → homeOf x.1 ≠ homeOf line

/-- Between `s` and `t` no cluster changed but in which lines its cache's ways hold and its replacement trees. -/
def OnlyWays (s t : State) : Prop := ∀ c, { cluster t c with ways := (cluster s c).ways, trees := (cluster s c).trees } = cluster s c

/-- The way that a fill of the line takes in the agent's cache is free, or holds the line already (R134). -/
def WayFree (s : State) (a : AgentId) (line : Nat) : Prop :=
  32 ≤ a.val ∨ cacheSegs s a.val = 0 ∨
  (let set := cacheSet (cacheSegs s a.val) line
   let w := (wayOf s a.val set line).getD (treeWay (tget 0 (cluster s a.val).trees set))
   tfind? (cluster s a.val).ways (set * 16 + w) = none ∨ tfind? (cluster s a.val).ways (set * 16 + w) = some line)

/-- The directory region of a line has room for a new entry (R142). -/
def RegionRoom (s : State) (line : Nat) : Prop :=
  ∀ p, sliceOwner s (sliceOf (lineAddr line)) = some p →
    (s.coh.dir.filter fun x => x.2.st != .u && sliceOwner s (sliceOf (lineAddr x.1)) == some p).length < dirCapacity s p

/-- A line of DRAM at rest: nothing of it is under way, no other request reaches its home agent in this cycle, and it has an entry or there is
room for one. -/
abbrev LineRests (s : State) (line : Nat) : Prop :=
  lineBusy s line = false ∧ inDram (lineAddr line) 64 = true ∧ (∀ a, (dirOf s line).st ≠ .wbp a) ∧
  (∀ x ∈ s.coh.arrivals, homeOf x.1 ≠ homeOf line) ∧ ((dirOf s line).st ≠ .u ∨ RegionRoom s line)

/-- The line holds no poison, so that no read of it is answered without data (R496). -/
abbrev LineSound (s : State) (line : Nat) : Prop := poisoned s (lineAddr line) 64 = false

/-- Outside the coherence state nothing changed, and no other line's directory entry did. -/
def OnlyLine (s t : State) (line : Nat) : Prop := { t with coh := s.coh } = s ∧ ∀ l, l ≠ line → dirOf t l = dirOf s l

/-- Outside the coherence state and the ways of the clusters' caches nothing changed, and no other line's directory entry did. -/
def OnlyLineWays (s t : State) (line : Nat) : Prop :=
  { t with coh := s.coh, clus := s.clus } = s ∧ OnlyWays s t ∧ ∀ l, l ≠ line → dirOf t l = dirOf s l

/-- The home agent has answered: the line is not busy, its entry holds `st`, and the one message `m` went to agent `a`. -/
def LineAnswered (s t : State) (line : Nat) (a : AgentId) (m : CohMsg) (st : DirState) : Prop :=
  t.coh.net = s.coh.net ++ [(line, a, m)] ∧ (dirOf t line).st = st ∧ (dirOf t line).txn = none ∧ t.coh.caches = s.coh.caches

/-- The home agent has sent the probes `ps`: the line is busy awaiting their answers, and its entry and every cache are as before. -/
def LineProbed (s t : State) (line : Nat) (q : CohReq) (ps : List (AgentId × CohMsg)) : Prop :=
  t.coh.net = s.coh.net ++ ps.map (fun p => (line, p.1, p.2)) ∧ (dirOf t line).st = (dirOf s line).st ∧
  (∃ x, (dirOf t line).txn = some x ∧ x.req = q ∧ x.await = ps.map (·.1)) ∧ t.coh.caches = s.coh.caches

/-! ### Tiers -/

/-- The job's schedule is being performed, and `e`, its entry `i`, is the next of kind `kind` (R273). -/
abbrev NextEntry (s : State) (h : Word) (kind : Nat) (j : Job) (x : Schedule) (i : Nat) (e : List Byte) : Prop :=
  jobOf s h.toNat = some j ∧ tfind? s.tie.scheds (jobKey h.toNat) = some x ∧ j.st = .running ∧ j.ending = none ∧
  (x.repeatN = 0 ∨ x.pass < x.repeatN) ∧ nextEntry s j kind x.doneIx 0 [] x.entries = some (i, e)

/-- Entry `i` of the schedule is finished, and nothing else of it changed; after the last the next pass begins (R273). -/
def EntryFinished (t : State) (h : Word) (x : Schedule) (i : Nat) : Prop :=
  tfind? t.tie.scheds (jobKey h.toNat) = some (if x.entries.length ≤ x.doneIx.length + 1 then { x with pass := x.pass + 1, doneIx := [], begun := [] }
    else { x with doneIx := i :: x.doneIx, begun := x.begun.filter (· != i) })

/-! ### Search -/

/-- Between `s` and `t` nothing changed but request `r`'s mailbox, what its transfers do, the registers of Iris, and which SCANs and QUERYs execute with which
pins. -/
def SearchKept (s t : State) (r : ReqId) : Prop :=
  OnlyMailboxAndHost { s with srch := t.srch, ftl := t.ftl } t r.mb.val ∧
  { t.srch with runs := s.srch.runs, chans := s.srch.chans } = s.srch ∧ { t.ftl with pins := s.ftl.pins } = s.ftl

/-- Request `r` executes as `y`: its program has a place on every channel it reads, or it waits, counted once on each channel that has none free
(R325). It has not completed, and nothing else changed. -/
def ProgramTaken (s t : State) (r : ReqId) (y : SearchRun) : Prop :=
  searchRun t r = some y ∧ y.req = r ∧ (findExec t r).isSome = true ∧ (mbox t r.mb.val).waiting = (mbox s r.mb.val).waiting ∧
  ((∀ c ∈ y.chans, programsOn s c < 4) → y.loaded = true ∧ t.srch.chans = s.srch.chans) ∧
  ((∃ c ∈ y.chans, 4 ≤ programsOn s c) → y.loaded = false ∧ y.waited = true) ∧ SearchKept s t r

/-- Module memory outside the T1 area of an index, and every job and slot, are as before. -/
def IndexQuiet (s t : State) (d : List Byte) : Prop :=
  (∀ a, a < iT1Base d ∨ iT1Base d + iT1Len d ≤ a → mget t.mem a = mget s.mem a) ∧ t.slots = s.slots ∧ t.sch = s.sch

/-! ### NVMe -/

/-- Command `x` of `k` is outstanding on its controller, which is in no reset, among others that are not done; its queue `q` is not ordered, and
its completion queue `c` has room. -/
abbrev NvmeTurn (s : State) (k : CmdKey) (x : NCmd) (before after : List NCmd) (q : Sq) (c : Cq) : Prop :=
  (ctrl s k.ctrl.val).cmds = before ++ x :: after ∧ (ctrl s k.ctrl.val).resetting = false ∧ x.key = k ∧ x.done = none ∧ x.ordered = false ∧
  (∀ y ∈ before ++ after, y.key ≠ k ∧ y.done = none) ∧ tfind? (ctrl s k.ctrl.val).sqs k.sq = some q ∧
  tfind? (ctrl s k.ctrl.val).cqs q.cqid = some c ∧ cqFull c = false

/-- The command has completed: it is outstanding no more, and its completion entry stands in the completion queue over host memory `hm`. -/
def NvmeDone (s t : State) (k : CmdKey) (before after : List NCmd) (q : Sq) (c : Cq) (hm : Memory) (st : Nat × Nat) (dw0 : Nat)
    (dnr : Bool) : Prop :=
  (ctrl t k.ctrl.val).cmds = before ++ after ∧
  t.hmem = mwrite hm (c.base + c.tail * 16)
    (cqeBytes { key := k, dw0 := dw0, sct := st.1, sc := st.2, dnr := dnr && !(st == stOk) } q.head c.phase) ∧
  t.out = s.out ++ (if c.ien then [.msix k.ctrl.val c.iv] else [])

/-- What an NVMe command leaves alone, whatever it answers: the mailboxes, the jobs, and module memory. -/
def NvmeFrame (s t : State) : Prop := t.klv = s.klv ∧ t.sch = s.sch ∧ t.mem = s.mem ∧ t.slots = s.slots

/-- No controller's shutdown waits for the volatile cache (R361). -/
abbrev NoShutdownWaits (s : State) : Prop := ∀ f, f < 17 → (ctrl s f).shst ≠ 1

/-- The SLC buffer of the group that keeps a namespace's records has a page to write next. -/
abbrev RecordPage (s : State) (ns : Nat) : Prop :=
  ∃ k i, writeSb (grp s (unitGroup s ns 0)) true = some k ∧ nextSlot k (sbOf (grp s (unitGroup s ns 0)) k) = some i

/-- State `s` after a measurement of the hold-up bank that finds it sound. -/
def bankSound (s : State) (energy : Nat) : State :=
  { s with ftl := { s.ftl with energy := BitVec.ofNat 16 (min energy 0xFFFF), measured := true } }

/-! ### Links -/

/-- An event has been told to every mailbox: one that is not registered is as before, and one that is, with no EVENT_WAIT waiting, has it
queued last (R71). -/
def Told (s t : State) (code detail : Nat) : Prop :=
  ∀ n : Mb, ((mbox s n.val).registered = false → mbox t n.val = mbox s n.val) ∧
    ((mbox s n.val).registered = true → eventWaiters (mbox s n.val) = [] →
      mbox t n.val = { mbox s n.val with events := pushEvent (mbox s n.val).events code detail })

/-- `t` is `s` but for link `l`, which is `k`, what events do to mailboxes, and the time. -/
def LinkSet (s t : State) (l : Nat) (k : Link) : Prop :=
  link t l = k ∧ (∀ i, i ≠ l → link t i = link s i) ∧ t.lnk.trunks = s.lnk.trunks ∧ t.lnk.conns = s.lnk.conns ∧
  { t with klv := s.klv, hmem := s.hmem, bus := s.bus, free := s.free, lnk := s.lnk, ts := s.ts } = s

/-- A link that leaves UP at time `tm`: the departure is counted, and the eighth within 10 s holds the link for 30 s (R423). -/
def departed (k : Link) (tm : Nat) : Link :=
  let recent := k.recent.filter (fun x => decide (tm < x + 10000000000)) ++ [tm]
  if 8 ≤ recent.length then { k with st := 2, downs := satInc k.downs, recent := [], holdUntil := tm + 30000000000 }
  else { k with st := 0, downs := satInc k.downs, recent := recent }

/-- Every link is as before, but for the bytes queued on it. -/
def LinksSame (s t : State) : Prop := ∀ l, { link t l with txEnd := (link s l).txEnd } = link s l

/-- `t` is `s` but for the connection with `q` for partition `p`, which is `c`, and the frames sent. -/
def ConnSet (s t : State) (q p : Nat) (c : Conn) : Prop :=
  conn t q p = c ∧ (∀ i, i ≠ q * 16 + p → tget connReset t.lnk.conns i = tget connReset s.lnk.conns i) ∧ LinksSame s t ∧
  { t with lnk := s.lnk, out := s.out, ts := s.ts } = s

/-- A good frame of type `ty` has come in on an UP link of the trunk to `q`, for partition `p`, in the epoch the connection is in. -/
abbrev FrameAt (s : State) (l : LinkIx) (f : EvFrame) (ty q p : Nat) : Prop :=
  (facing s l.val).map (·.1) = some q ∧ isTrunk s l.val = true ∧ (link s l.val).st = 1 ∧ frameBad f = false ∧ fld f.header 1 1 = ty ∧
  fld f.header 3 1 = p ∧ (conn s q p).rxEpoch = some (fld f.header 4 4)

/-- An ACK_PSN that acknowledges something new of what is sent (R426). -/
abbrev AckNew (c : Conn) (a : Nat) : Prop := a ≠ c.acked ∧ psnDist a c.acked < 2 ^ 31 ∧ psnDist c.nextPsn a < 2 ^ 31

/-- No message waits to be sent to the partner at `q`. -/
abbrev NoneWaits (s : State) (q : Nat) : Prop := ∀ p, p < 16 → (conn s q p).waiting = []

/-- Packets of a connection sent and not acknowledged. -/
def unackedCount (c : Conn) : Nat := natSum (c.msgs.map fun m => (unackedOf c m).length)

/-- A connection whose oldest message has been consumed, with `rest` left: an acknowledgement is due (R431). -/
def consumedConn (s : State) (c : Conn) (rest : List InMsg) : Conn :=
  { c with inbox := rest, unacked := max 1 c.unacked, unackedAt := if c.unacked = 0 then now s else c.unackedAt }

/-! ### Resets -/

/-- A reset source of rank `k` has been asserted on `s` and its reach reset (R449, R451, R453). -/
def Asserted (s t : State) (k : Nat) : Prop :=
  t.rst.active = true ∧ t.rst.w = (if s.rst.active then min s.rst.w k else k) ∧ t.rst.widest = t.rst.w ∧
  t.rst.cause = (if k = 1 then s.rst.cause &&& 0x60 else s.rst.cause) ||| BitVec.ofNat 7 (2 ^ (k - 1)) ∧
  t.rst.sage = false ∧ t.rst.ready = false ∧ t.rst.released = false ∧ t.ts = (if k = 1 then 0 else s.ts) ∧
  t.klv.mbs = [] ∧ t.slots = [] ∧ t.clus = [] ∧ t.coh = cohReset ∧ t.sch = schReset ∧ t.lnk = lnkReset ∧ t.mi = miReset ∧
  (∀ a, a < dramEnd → mget t.mem a = 0) ∧
  (∀ a, rootBase ≤ a → a < rootBase + rootLen → mget t.mem a = if k = 1 then 0 else mget s.mem a) ∧
  (if k ≤ 2 then t.clk.locked = 0 else t.clk = s.clk) ∧
  (if k ≤ 3 then t.prt.vfEnable = false ∧ t.prt.numVFs = 0 ∧ t.nvm.ps = 0
    else t.prt.vfEnable = s.prt.vfEnable ∧ t.prt.numVFs = s.prt.numVFs ∧ t.nvm.ps = s.nvm.ps) ∧
  (if k ≤ 4 then t.dbg.locked = true ∧ t.dbg.challenge = none ∧ t.fw.cur = none ∧ t.fw.ops = []
    else t.dbg.locked = s.dbg.locked ∧ t.dbg.challenge = s.dbg.challenge ∧ t.fw = s.fw)

/-- A level input's filtered level in RST_SB_STATE is set to `high`, and nothing else changes (R467, R468). -/
def LevelSet (s t : State) (i : Nat) (high : Bool) : Prop :=
  t.rst.sbLevel.getLsbD i = high ∧ (∀ j, j < 5 → j ≠ i → t.rst.sbLevel.getLsbD j = s.rst.sbLevel.getLsbD j)

end Sys2Proof.Machine
end

