-- ==== Sys2Proof/Certificates/Slice0/Obligations.lean ====
section
/-! DEFINITION. The statements for the provers. -/

open Sys2Proof Sys2Proof.Machine

/-- R37: a write to KLV_REQ_DB or KLV_CPL_DB by the owner is ignored and sets CFG_ERR where its index is not below the ring's entries or
ENABLED is 0; otherwise it sets the request tail, or the completion head. A KLV_CPL_DB taken re-arms MSI-X (R41): where a message fell due while
none was armed, MSIX_EN is set, and completions stand that the host has not consumed, the message is sent to the owner at once; else the
mailbox is armed and sends none. Nothing else changes. -/
def Obligations.Doorbells : Prop :=
  ∀ (s : State) (fn : Fn) (n : Mb) (v : Word), Writable s fn n →
    (let m := mbox s n.val
     let ok := m.enabled = true ∧ v.toNat % 4096 < 2 ^ m.reqLog2.toNat
     ∃ t, exec (.klvReqDb fn n v) s = .next t ∧ OnlyMailbox s t n.val ∧
       (ok → mbox t n.val = { m with reqTail := v.toNat % 4096 }) ∧ (¬ok → mbox t n.val = { m with cfgErr := true })) ∧
    (let m := mbox s n.val
     let ok := m.enabled = true ∧ v.toNat % 4096 < 2 ^ m.cplLog2.toNat
     ∃ t, exec (.klvCplDb fn n v) s = .next t ∧ (∀ k, k ≠ n.val → mbox t k = mbox s k) ∧ { t with klv := s.klv, out := s.out } = s ∧
       (ok →
         (let sig := m.msixDue && m.msixEn && v.toNat % 4096 != m.cplTail.toNat
          t.out = s.out ++ (if sig then [.msix (ownerOf s n.val) m.msixVec.toNat] else []) ∧
          mbox t n.val = { m with cplHead := v.toNat % 4096, msixArmed := !sig, msixDue := m.msixDue && !sig })) ∧
       (¬ok → t.out = s.out ∧ mbox t n.val = { m with cfgErr := true }))

/-- A function that does not own a mailbox cannot change it: its writes to the window, whatever row they are, change nothing, and its reads
return zero (R32); so does an access to an offset of BAR2 at which the function has no window (R30). -/
def Obligations.NotOwned : Prop :=
  (∀ (s : State) (fn : Fn) (n : Mb) (v : Word), ownerOf s n.val ≠ fn.val →
    exec (.klvReqDb fn n v) s = .next s ∧ exec (.klvCplDb fn n v) s = .next s ∧ exec (.enSet fn n v) s = .next s ∧
    exec (.enClear fn n v) s = .next s ∧ exec (.dmaBlock fn n v) s = .next s ∧ exec (.mreset fn n v) s = .next s) ∧
  (∀ (s : State) (fn : Fn) (off : BitVec 24) (v : Word), (∀ n o, windowOf s fn off.toNat = some (n, o) → ownerOf s n.val ≠ fn.val) →
    exec (.registerWrite (.bar2 fn off) v) s = .next s ∧ exec (.rcRead (.bar2 fn off) false) s = .next { s with rdata := 0 })

/-- EN_SET (R36, R38): a write of KLV_CTRL with EN 1 and MRESET 0 to a mailbox whose EN and ENABLED are 0 sets the other fields as written;
EN becomes 1 where both LOG2 fields lie in 6-12, both bases are nonzero and RESETTING is 0; otherwise EN stays 0 and CFG_ERR is set.
EN_CLEAR and DMA_BLOCK (R36, R39): on an enabled mailbox, a write of KLV_CTRL that carries the guarded fields as they stand and MRESET 0
sets EN, DMA_BLOCK and MSIX_EN as written and sets no error; where EN goes from 1 to 0, the completions that wait inside the device are
given up and KLV_HELD_CNT counts them, saturating. The records and the executing requests stay.
MRESET (R40): on an enabled mailbox it is ignored and sets CFG_ERR; on a disabled one with no request executing it sets RESETTING. -/
def Obligations.ControlWrites : Prop :=
  (∀ (s : State) (fn : Fn) (n : Mb) (v : Word), Writable s fn n → v.getLsbD 0 = true → v.getLsbD 3 = false →
    (mbox s n.val).en = false → (mbox s n.val).enabled = false →
    ∃ t, exec (.enSet fn n v) s = .next t ∧ OnlyMailbox s t n.val ∧
      (let m := mbox s n.val
       let q := v.toNat / 256 % 16
       let c := v.toNat / 4096 % 16
       let base := { m with reqLog2 := BitVec.ofNat 4 q, cplLog2 := BitVec.ofNat 4 c, msixVec := BitVec.ofNat 11 (v.toNat / 65536 % 2048)
                            dmaBlock := v.getLsbD 1, msixEn := v.getLsbD 2 }
       mbox t n.val =
         if 6 ≤ q ∧ q ≤ 12 ∧ 6 ≤ c ∧ c ≤ 12 ∧ 4096 ≤ m.reqBase.toNat ∧ 4096 ≤ m.cplBase.toNat ∧ m.resetting = false
         then { base with en := true, rising := true } else { base with cfgErr := true })) ∧
  (∀ (s : State) (fn : Fn) (n : Mb) (v : Word), Writable s fn n → v.getLsbD 3 = false →
    (mbox s n.val).enabled = true → (mbox s n.val).en = true →
    v.toNat / 256 % 16 = (mbox s n.val).reqLog2.toNat → v.toNat / 4096 % 16 = (mbox s n.val).cplLog2.toNat →
    v.toNat / 65536 % 2048 = (mbox s n.val).msixVec.toNat →
    (v.getLsbD 0 = false → ∃ t, exec (.enClear fn n v) s = .next t ∧ OnlyMailbox s t n.val ∧
      mbox t n.val = { mbox s n.val with
        en := false, rising := false, dmaBlock := v.getLsbD 1, msixEn := v.getLsbD 2, waiting := []
        heldCnt := if (mbox s n.val).heldCnt.toNat + (mbox s n.val).waiting.length < 2 ^ 32
          then (mbox s n.val).heldCnt + BitVec.ofNat 32 (mbox s n.val).waiting.length else 0xFFFFFFFF#32 }) ∧
    (v.getLsbD 0 = true → v.getLsbD 1 = true → ∃ t, exec (.dmaBlock fn n v) s = .next t ∧ OnlyMailbox s t n.val ∧
      mbox t n.val = { mbox s n.val with dmaBlock := true, msixEn := v.getLsbD 2 })) ∧
  (∀ (s : State) (fn : Fn) (n : Mb) (v : Word), Writable s fn n → v.getLsbD 0 = false → v.getLsbD 3 = true →
    (mbox s n.val).en = false → v.toNat / 256 % 16 = (mbox s n.val).reqLog2.toNat →
    v.toNat / 4096 % 16 = (mbox s n.val).cplLog2.toNat → v.toNat / 65536 % 2048 = (mbox s n.val).msixVec.toNat →
    ((mbox s n.val).enabled = true → ∃ t, exec (.mreset fn n v) s = .next t ∧ OnlyMailbox s t n.val ∧
      mbox t n.val = { mbox s n.val with cfgErr := true, dmaBlock := v.getLsbD 1, msixEn := v.getLsbD 2 }) ∧
    ((mbox s n.val).enabled = false → (∀ x ∈ (mbox s n.val).execs, x.committed = true) →
      ∃ t, exec (.mreset fn n v) s = .next t ∧ OnlyMailbox s t n.val ∧
      mbox t n.val = { mbox s n.val with resetting := true, dmaBlock := v.getLsbD 1, msixEn := v.getLsbD 2 }))

/-- ENABLED_RISE, ENABLED_FALL, ACTIVE_FALL and MRESET_DONE (R38-R40): where its condition holds, each changes the fields the rules name and
nothing else: consuming resumes at KLV_REQ_HEAD 0 and posting at KLV_CPL_TAIL 0 with PHASE 1; ENABLED and ACTIVE fall; a mailbox reset
whose committed requests have finished clears the records and the queued events and loads KLV_NEXT_HSEQ from KLV_HSEQ_BASE. From EN set to
ENABLED risen the mailbox neither consumes a request nor posts a completion (R38), whatever its rings hold. -/
def Obligations.MailboxEvents : Prop :=
  ∀ (s : State) (n : Mb),
    ((mbox s n.val).en = true → (mbox s n.val).rising = true → s.rst.ready = true →
      (s.fw.running = 2 → s.fw.recovered = true ∨ n = 0) →
      ∃ t, exec (.enabledRise n) s = .next t ∧ OnlyMailbox s t n.val ∧
        (mbox t n.val).enabled = true ∧ (mbox t n.val).reqHead = 0 ∧ (mbox t n.val).cplTail = 0 ∧ (mbox t n.val).phase = true ∧
        (mbox t n.val).recs = (mbox s n.val).recs ∧ (mbox t n.val).execs = (mbox s n.val).execs ∧
        (mbox t n.val).nextDseq = (mbox s n.val).nextDseq ∧ (mbox t n.val).nextHseq = (mbox s n.val).nextHseq) ∧
    ((mbox s n.val).en = false → (mbox s n.val).enabled = true →
      ∃ t, exec (.enabledFall n) s = .next t ∧ OnlyMailbox s t n.val ∧ mbox t n.val = { mbox s n.val with enabled := false }) ∧
    ((mbox s n.val).active = true →
      ∃ t, exec (.activeFall n) s = .next t ∧ OnlyMailbox s t n.val ∧ mbox t n.val = { mbox s n.val with active := false }) ∧
    ((mbox s n.val).resetting = true → (∀ x ∈ (mbox s n.val).execs, x.committed = false) →
      ∃ t, exec (.mresetDone n) s = .next t ∧ OnlyMailbox s t n.val ∧
        (mbox t n.val).recs = [] ∧ (mbox t n.val).execs = [] ∧ (mbox t n.val).events = [] ∧ (mbox t n.val).resetting = false ∧
        (mbox t n.val).registered = false ∧ (mbox t n.val).waiting = [] ∧
        (mbox t n.val).nextHseq = (mbox s n.val).hseqBase ∧ (mbox t n.val).nextDseq = 0 ∧ (mbox t n.val).reqHead = 0 ∧
        (mbox t n.val).cplTail = 0 ∧ (mbox t n.val).ver = 0 ∧ (mbox t n.val).reqBase = (mbox s n.val).reqBase ∧
        (mbox t n.val).cplBase = (mbox s n.val).cplBase ∧ (mbox t n.val).defTimeout = (mbox s n.val).defTimeout) ∧
    ((mbox s n.val).rising = true → isEvselMb s n.val = false →
      exec (.requestConsume n) s = .next s ∧ exec (.completionPost n) s = .next s)

/-- REQUEST_CONSUME (R43, R45, R52, R53, R54): the mailbox whose turn it is gives up the entry at KLV_REQ_HEAD. For an entry with OOW clear
and HSEQ h, with back = KLV_NEXT_HSEQ - h mod 2^32: 0 accepts (the number advances and h has a record; the request executes, PENDING,
if every check of R57 passes, and otherwise it completes at once with the failing check's status and DETAIL); 1 to 4,096 with a
record is a duplicate, replayed from the record if the original has completed; 0x8000_0001 and above is refused with SEQ_AHEAD and any
other value with SEQ_STALE, with the number and the records unchanged. No entry yields more or less than one completion. -/
def Obligations.ConsumeClassifies : Prop :=
  ∀ (s : State) (n : Mb), turnOf s (n.val / 16) = some n.val → entOow (headEntry s (mbox s n.val)) = false →
    (let m := mbox s n.val
     let e := headEntry s m
     let h : Word := BitVec.ofNat 32 (fld e 4 4)
     let back := (m.nextHseq - h).toNat
     let x := newExec (takeHead s n.val) (mbox (takeHead s n.val) n.val) e none
     let s1 := updMb (updMb (nextTaken (takeHead s n.val)) n.val (acceptEntry x)) n.val (onReceive e)
     ∃ t, exec (.requestConsume n) s = .next t ∧ BusBy s t (ownerOf s n.val) ∧
       (¬(back = 0 ∧ checkEntry s1 n.val e none = none) → OutsideKlovaSame s t) ∧
       (∀ k, k ≠ n.val → mbox t k = mbox s k) ∧
       (mbox t n.val).reqHead.toNat = (m.reqHead.toNat + 1) % 2 ^ m.reqLog2.toNat ∧
       (back = 0 → (mbox t n.val).nextHseq = m.nextHseq + 1 ∧ (tfind? (mbox t n.val).recs h.toNat).isSome = true ∧
         (∀ d c, checkEntry s1 n.val e none = some (d, c) →
           (mbox t n.val).execs.length = m.execs.length ∧
           ∃ w l, (mbox t n.val).waiting = m.waiting ++ w :: l ∧ w.replay = false ∧ w.cpl.hseq = h ∧
             w.cpl.status = BitVec.ofNat 16 d ∧ w.cpl.detail = BitVec.ofNat 16 c) ∧
         (checkEntry s1 n.val e none = none → { t with klv := s.klv, hmem := s.hmem, bus := s.bus, free := s.free, ftl := s.ftl } = s ∧
           (mbox t n.val).execs = m.execs ++ [x] ∧ (mbox t n.val).waiting = m.waiting ∧
           (tfind? (mbox t n.val).recs h.toNat).bind (·.cpl) = none)) ∧
       (0 < back → (mbox t n.val).nextHseq = m.nextHseq ∧ (mbox t n.val).recs = m.recs) ∧
       (0 < back → back ≤ 4096 → ∀ k, tfind? m.recs h.toNat = some k →
         (∀ c, k.cpl = some c → (mbox t n.val).execs = m.execs ∧
           (mbox t n.val).waiting = m.waiting ++ [{ cpl := c, replay := true, oow := false, evsel := none, outPayload := [] }]) ∧
         (k.cpl = none → (mbox t n.val).waiting = m.waiting ∧ (mbox t n.val).execs.length = m.execs.length)) ∧
       (0 < back → (4096 < back ∨ tfind? m.recs h.toNat = none) →
         (mbox t n.val).execs = m.execs ∧
         ∃ w, (mbox t n.val).waiting = m.waiting ++ [w] ∧ w.cpl.hseq = h ∧ w.replay = false ∧
           w.cpl.status = if 0x80000001 ≤ back then 0x0010#16 else 0x0011#16))

/-- R57, steps 3 to 8: an entry of another class than SYS HELLO gives VERSION_REQUIRED without a negotiated version, VERSION_MISMATCH with
the negotiated version as DETAIL where its VER differs, INVALID_CLASS for class 0 and classes above 0x0B, INVALID_OPCODE for an opcode that
no table assigns, RESERVED_SET with the offset of the first reserved byte that is not zero, and NOT_PERMITTED for a mailbox that may
not send the class, in this order. -/
def Obligations.CheckOrder : Prop :=
  ∀ (s : State) (n : Nat) (e : List Byte) (ev : Option EvOrigin), ¬(entCls e = 1 ∧ entOp e = 1) →
    ((mbox s n).ver = 0 → checkEntry s n e ev = some (0x0012, 0)) ∧
    ((mbox s n).ver ≠ 0 → fld e 2 1 ≠ (mbox s n).ver.toNat → checkEntry s n e ev = some (0x0013, (mbox s n).ver.toNat)) ∧
    ((mbox s n).ver ≠ 0 → fld e 2 1 = (mbox s n).ver.toNat →
      ((entCls e = 0 ∨ 0x0B < entCls e) → checkEntry s n e ev = some (0x0016, 0)) ∧
      (1 ≤ entCls e → entCls e ≤ 0x0B →
        (findOp (entCls e) (entOp e) = none → checkEntry s n e ev = some (0x0017, 0)) ∧
        (∀ o, findOp (entCls e) (entOp e) = some o →
          (∀ off, firstReserved o e = some off → checkEntry s n e ev = some (0x0015, off)) ∧
          (firstReserved o e = none → permitted s n o e = false → checkEntry s n e ev = some (0x0019, 0)))))

/-- COMPLETION_POST (R44, R51, R42): the oldest waiting completion of an enabled mailbox whose completion ring has room is written as one
32-byte entry at KLV_CPL_TAIL, with KLV_NEXT_DSEQ as its DSEQ and the PHASE of the pass; the number and the tail advance, and PHASE toggles
where the tail comes round. The write carries the requester ID of the mailbox's owner (R80). No other byte of host memory changes. -/
def Obligations.PostingWrites : Prop :=
  ∀ (s : State) (n : Mb) (w : Waiting) (l : List Waiting), s.memOk → (mbox s n.val).waiting = w :: l → isEvselMb s n.val = false →
    (mbox s n.val).en = true → (mbox s n.val).enabled = true → (mbox s n.val).rising = false →
    ((mbox s n.val).cplTail.toNat + 1) % 2 ^ (mbox s n.val).cplLog2.toNat ≠ (mbox s n.val).cplHead →
    (let m := mbox s n.val
     let a := m.cplBase.toNat / 4096 * 4096 + m.cplTail.toNat * 32
     let next := (m.cplTail.toNat + 1) % 2 ^ m.cplLog2.toNat
     ∃ t, exec (.completionPost n) s = .next t ∧ (∀ k, k ≠ n.val → mbox t k = mbox s k) ∧ t.mem = s.mem ∧
       (∃ pass, t.bus = s.bus ++ [{ fn := ownerOf s n.val, pass := pass, write := true, addr := a, len := 32 }]) ∧
       mread t.hmem a 32 =
         cplBytes w.cpl m.nextDseq.toNat (bnat m.phase + 2 * bnat w.replay + 4 * bnat w.cpl.committed) ∧
       (∀ b, b < a ∨ a + 32 ≤ b → mget t.hmem b = mget s.hmem b) ∧
       (mbox t n.val).waiting = l ∧ (mbox t n.val).nextDseq = m.nextDseq + 1 ∧ (mbox t n.val).cplTail.toNat = next ∧
       (mbox t n.val).phase = (if next = 0 then !m.phase else m.phase) ∧ (mbox t n.val).execs = m.execs ∧
       (m.msixEn = true → m.msixArmed = true →
         t.out = s.out ++ [.msix (ownerOf s n.val) m.msixVec.toNat] ∧ (mbox t n.val).msixArmed = false) ∧
       (¬(m.msixEn = true ∧ m.msixArmed = true) → t.out = s.out))

/-- UPPER_TIMEOUT (R66) and LATE_RESULT (R67): a request of class SYS, PART, MEDIA, DEBUG or CAL whose upper timeout T has elapsed completes
with TIMEOUT before its commit point, and is left alone after it; a late result is counted in KLV_LATE_CNT, saturating.
SYS ABORT (R68, R69): RESULT 1 for an executing request past its commit point; 2 for a completed request that has a record; 3 for the
ABORT's own HSEQ and for one without a record; and 0 with the target completed ABORTED, its completion waiting before the ABORT's. -/
def Obligations.RequestEnds : Prop :=
  ((∀ (s : State) (r : ReqId) (x : Exec) (us : Nat), findExec s r = some x → x.timeoutUs = some us →
    (let due := x.acceptTs.toNat + us * 1000
     (x.committed = true → exec (.upperTimeout r) s = .next (reach s due)) ∧
     (x.committed = false → Outlet s r x → (entCls x.entry = 1 ∨ entCls x.entry = 2 ∨ entCls x.entry = 8 ∨ 10 ≤ entCls x.entry) →
       ∃ t, exec (.upperTimeout r) s = .next t ∧ Completes (reach s due) t r x false (ansErr 0x0003)))) ∧
  (∀ (s : State) (n : Mb), ∃ t, exec (.lateResult n) s = .next t ∧ OnlyMailbox s t n.val ∧
    mbox t n.val = { mbox s n.val with
      lateCnt := if (mbox s n.val).lateCnt = 0xFFFFFFFF#32 then 0xFFFFFFFF#32 else (mbox s n.val).lateCnt + 1 })) ∧
  (∀ (s : State) (r : ReqId) (x : Exec), Outlet s r x → AtTurn s r x 1 3 →
    (let h : Word := BitVec.ofNat 32 (prm x 0x20 4)
     let target : ReqId := ⟨r.mb, false, h⟩
     (x.oow = false → h = x.hseq → ∃ t, exec (.abort r) s = .next t ∧ OnlyMailboxAndHost s t r.mb.val ∧ Completes s t r x false (ansOk 3)) ∧
     ((x.oow = true ∨ h ≠ x.hseq) →
       (∀ y, findExec s target = some y → y.committed = true →
         ∃ t, exec (.abort r) s = .next t ∧ OnlyMailboxAndHost s t r.mb.val ∧ Completes s t r x false (ansOk 1)) ∧
       (findExec s target = none →
         ∃ t, exec (.abort r) s = .next t ∧ OnlyMailboxAndHost s t r.mb.val ∧
           Completes s t r x false (ansOk (if (tfind? (mbox s r.mb.val).recs h.toNat).isSome then 2 else 3))) ∧
       (∀ y, findExec s target = some y → y.committed = false → y.evsel = none → y.replays = [] → entCls y.entry = 1 →
         ∃ t w v l, exec (.abort r) s = .next t ∧ (mbox t r.mb.val).waiting = (mbox s r.mb.val).waiting ++ w :: v :: l ∧
           w.cpl = cplOf s.ts y (ansErr 0x0002) ∧ v.cpl = cplOf s.ts x (ansOk 0)))))

/-- SYS HELLO, NOP, READ_RECORDS and IDENTIFY (R60, R68, R70, R72) complete once with OK, or HELLO with VERSION_UNSUPPORTED where
[VER_MIN, VER_MAX] does not hold 0x20, with the RESULT the rules give; nothing but the mailbox and the out-payload changes. The identify data are
4,096 bytes with KLOVA_MIN, KLOVA_MAX, WORKING_ARRAYS, FLASH_CHANNELS, INCARNATION, PARTITION, MAILBOX and CFG_EPOCH at their offsets.
SYS EVENT_WAIT (R64, R71): with an event queued and no earlier waiter it completes with the first entry of the queue, which leaves it;
with an empty queue and at most four waiters it waits; as a fifth it completes with NO_SPACE. Either way the mailbox is registered for events. -/
def Obligations.SysAnswers : Prop :=
  (∀ (s : State) (r : ReqId) (x : Exec), Outlet s r x →
    (AtTurn s r x 1 1 → ∃ t, exec (.hello r) s = .next t ∧ OnlyMailboxAndHost s t r.mb.val ∧
      Completes s t r x false
        (if prm x 0x20 1 ≤ 0x20 ∧ 0x20 ≤ prm x 0x21 1 then ansOk 0x00202020 else ansErr 0x0014 0 0x00202000)) ∧
    (AtTurn s r x 1 6 → ∃ t, exec (.nop r) s = .next t ∧ OnlyMailboxAndHost s t r.mb.val ∧ Completes s t r x false (ansOk 0)) ∧
    (AtTurn s r x 1 4 → ∃ t, exec (.readRecords r) s = .next t ∧ OnlyMailboxAndHost s t r.mb.val ∧
      Completes s t r x false (ansOk (prm x 0x24 4) x.snap)) ∧
    (AtTurn s r x 1 2 → s.ident.workingArrays < 256 → s.ident.flashChannels < 256 →
      ∃ t d, exec (.identify r) s = .next t ∧ OnlyMailboxAndHost s t r.mb.val ∧ Completes s t r x false (ansOk 4096 d) ∧
        d.length = 4096 ∧ fld d 0x34 1 = 0x20 ∧ fld d 0x35 1 = 0x20 ∧ fld d 0x37 1 = s.ident.workingArrays ∧
        fld d 0x38 1 = s.ident.flashChannels ∧ fld d 0x3C 4 = s.klv.incarnation.toNat ∧ fld d 0x68 8 = 515396075520 ∧
        fld d 0x81 1 = r.mb.val / 16 ∧ fld d 0x82 2 = r.mb.val ∧ fld d 0x84 4 = s.klv.cfgEpoch.toNat)) ∧
  (∀ (s : State) (r : ReqId) (x : Exec), Outlet s r x → AtTurn s r x 1 5 → x.begun = false → r.oow = false →
    (eventWaiters (mbox s r.mb.val) = [] → ∀ c d l, (mbox s r.mb.val).events = .ev c d :: l →
      ∃ t, exec (.eventWait r) s = .next t ∧ OnlyMailboxAndHost s t r.mb.val ∧ (mbox t r.mb.val).events = l ∧
        (mbox t r.mb.val).registered = true ∧
        Completes s t r x false { status := 0, detail := d.toNat, result := c.toNat, out := [] }) ∧
    (4 ≤ (eventWaiters (mbox s r.mb.val)).length →
      ∃ t, exec (.eventWait r) s = .next t ∧ OnlyMailboxAndHost s t r.mb.val ∧ (mbox t r.mb.val).registered = true ∧
        Completes s t r x false (ansErr 0x0005)) ∧
    ((mbox s r.mb.val).events = [] → (eventWaiters (mbox s r.mb.val)).length < 4 →
      ∃ t, exec (.eventWait r) s = .next t ∧ OnlyMailbox s t r.mb.val ∧ (mbox t r.mb.val).registered = true ∧
        (mbox t r.mb.val).waiting = (mbox s r.mb.val).waiting ∧ findExec t r = some { x with begun := true }))

/-- FUNCTION_LEVEL_RESET (R361): on every mailbox the function owns EN is 0 and DMA_BLOCK 1 afterwards, and the requests already accepted stay;
the other mailboxes are untouched; of the function's controller EN is 0, only the commands past their commit point are left, and with none of
them it has no queue and RDY is 0; while some are left its reset goes on.
VF_ENABLE and VF_DISABLE (R31, R33, R95): the capability takes its new value, and a mailbox that passes to another function is reset, its
EN cleared, while one that keeps its owner is left as it was. The requests of the mailboxes that pass are past their commit points. -/
def Obligations.FunctionResets : Prop :=
  (∀ (s : State) (fn : Fn), ctrlExists s fn.val = true → s.rst.active = false →
    ∃ t, exec (.functionLevelReset fn) s = .next t ∧
      (∀ n : Mb, ownerOf s n.val = fn.val → (mbox t n.val).en = false ∧ (mbox t n.val).dmaBlock = true ∧
        (mbox t n.val).execs = (mbox s n.val).execs ∧ (mbox t n.val).recs = (mbox s n.val).recs) ∧
      (∀ n : Mb, ownerOf s n.val ≠ fn.val → mbox t n.val = mbox s n.val) ∧
      (let left := (ctrl s fn.val).cmds.filter fun c => c.committed && c.done.isNone
       (ctrl t fn.val).cc = 0 ∧ (ctrl t fn.val).asq = (ctrl s fn.val).asq ∧ (ctrl t fn.val).cmds = left ∧
       (left = [] → (ctrl t fn.val).rdy = false ∧ (ctrl t fn.val).sqs = [] ∧ (ctrl t fn.val).cqs = [] ∧ (ctrl t fn.val).resetting = false) ∧
       (left ≠ [] → (ctrl t fn.val).resetting = true ∧ (ctrl t fn.val).rdy = (ctrl s fn.val).rdy))) ∧
  (∀ (s : State) (on : Bool) (k : Fin 17), s.rst.active = false →
    (let s' := updPrt s fun t => { t with vfEnable := on, numVFs := k.val }
     (∀ n : Mb, ownerOf s n.val ≠ ownerOf s' n.val → ∀ x ∈ (mbox s n.val).execs, x.committed = true) →
     let set (t : State) : Prop := t.prt = s'.prt ∧
       (∀ n : Mb, ownerOf s n.val ≠ ownerOf s' n.val → (mbox t n.val).en = false ∧ (mbox t n.val).resetting = true) ∧
       (∀ n : Mb, ownerOf s n.val = ownerOf s' n.val → mbox t n.val = mbox s n.val)
     (vfsChange s on k.val true = true → ∃ t, exec (.vfEnable on k) s = .next t ∧ set t) ∧
     (vfsChange s on k.val false = true → ∃ t, exec (.vfDisable on k) s = .next t ∧ set t)))

/-- CONFIG_READ, SLOT_TABLE and READ_STATE (R86, R87, R103): the active image with its epoch as RESULT, the 256 entries of the named path's
slot table, and the register block; reading the block clears PRT_THROTTLE and the read-clear counts of every partition, and leaves the budget
clocks and key generations.
PART_RESET (R87, R40): naming its own partition, the request completes with INVALID_PARAM and DETAIL 0x20 and nothing else changes;
naming another partition that has no job, no function and no request before its commit point, it completes with OK, every mailbox of the
partition is in reset with EN 0, and the partition's bit of RST_PART_SEEN is set. The mailboxes of other partitions are as they were. A
partition that owns no block leaves module memory as it was; the clusters of one that owns some are reset: their slots are empty and their
stores read zero (R449). -/
def Obligations.PartitionRequests : Prop :=
  (∀ (s : State) (r : ReqId) (x : Exec), Outlet s r x →
    (AtTurn s r x 2 1 → ∃ t, exec (.configRead r) s = .next t ∧ OnlyMailboxAndHost s t r.mb.val ∧
      Completes s t r x false (ansOk s.prt.cfg.epoch.toNat (encodeCfg s s.prt.cfg 0))) ∧
    (AtTurn s r x 2 5 → ∃ t, exec (.slotTable r) s = .next t ∧ OnlyMailboxAndHost s t r.mb.val ∧
      Completes s t r x false (ansOk 256 ((regOf s (prm x 0x20 1)).table.map fun q => BitVec.ofNat 8 q))) ∧
    (AtTurn s r x 2 4 → ∃ t d, exec (.readState r) s = .next t ∧ Completes s t r x false (ansOk 1280 d) ∧ d.length = 1280 ∧
      fld d 0 4 = (if s.prt.loaded then s.prt.cfg.epoch.toNat else 0) ∧ fld d 8 4 = s.prt.throttle.toNat ∧
      (∀ k, k ≠ r.mb.val → mbox t k = mbox s k) ∧ t.mem = s.mem ∧ t.prt.throttle = 0 ∧
      ∀ p < 16, (pst t p).waitMax = 0 ∧ (pst t p).lent = 0 ∧ (pst t p).borrowed = 0 ∧ (pst t p).budget = (pst s p).budget ∧
        (pst t p).keyGen = (pst s p).keyGen)) ∧
  (∀ (s : State) (r : ReqId) (x : Exec), Outlet s r x → AtTurn s r x 2 3 →
    (prm x 0x20 1 = reqPart r → ∃ t, exec (.partReset r) s = .next t ∧ OnlyMailboxAndHost s t r.mb.val ∧
      Completes s t r x false (ansErr 0x0018 0x20)) ∧
    (∀ p < 16, prm x 0x20 1 = p → p ≠ reqPart r → (∀ j ∈ s.sch.jobs, j.2.part ≠ p) → (prec s p).vf = 0 →
      (∀ n : Mb, n.val / 16 = p → ∀ y ∈ (mbox s n.val).execs, y.committed = true) → s.memOk →
      (∀ c < 32, (prec s p).clusters.getLsbD c = true → clusterOwner s c = some p) →
      (∀ c < 32, ∀ y ∈ tget [] s.coh.caches c, inDram (lineAddr y.1) 64 = true) →
      ∃ t, exec (.partReset r) s = .next t ∧ Completes s t r x true (ansOk 0) ∧ t.rst.partSeen = s.rst.partSeen ||| BitVec.twoPow 16 p ∧
        (∀ n : Mb, n.val / 16 = p → (mbox t n.val).en = false ∧ (mbox t n.val).resetting = true) ∧
        (∀ n : Mb, n.val / 16 ≠ p → n ≠ r.mb → mbox t n.val = mbox s n.val) ∧ (ownedBlocks s p = [] → t.mem = s.mem) ∧
        ((prec s p).active = true → ∀ c < 32, (prec s p).clusters.getLsbD c = true →
          (∀ i < 4, slot t c i = slotReset) ∧ ∀ a, storeBase c ≤ a → a < storeBase c + storeLen → mget t.mem a = 0)))

/-- CONFIG_APPLY (R86, R88-R90): where another executes, or did when it was accepted, it completes with PART_APPLYING, and so it does where
another configuration has become active since; at the last epoch it completes with PART_EPOCH_LIMIT; an image
that breaks a rule completes with the rule's status and DETAIL; with FORCE 0 an image that affects partitions that have work completes with
PART_BUSY and their bitmap; in these cases nothing else changes. An image that passes, with no committed request to wait for, is being
applied, and its record is queued for the configuration block; the active configuration is still the old one. -/
def Obligations.ApplyChecks : Prop :=
  ∀ (s : State) (r : ReqId) (x : Exec), Outlet s r x → AtTurn s r x 2 2 →
    (∀ a, s.prt.applying = some a → a.req ≠ some r → ∃ t, exec (.configApply r) s = .next t ∧ OnlyMailboxAndHost s t r.mb.val ∧
      Completes s t r x false (ansErr 0x0107)) ∧
    (s.prt.applying = none → (x.applying = true ∨ x.cfg.epoch ≠ s.prt.cfg.epoch) → ∃ t, exec (.configApply r) s = .next t ∧
      OnlyMailboxAndHost s t r.mb.val ∧ Completes s t r x false (ansErr 0x0107)) ∧
    (s.prt.applying = none → x.applying = false → x.cfg.epoch = s.prt.cfg.epoch →
      (s.prt.cfg.epoch = 0xFFFFFFFF → ∃ t, exec (.configApply r) s = .next t ∧ OnlyMailboxAndHost s t r.mb.val ∧
        Completes s t r x false (ansErr 0x0106)) ∧
      (s.prt.cfg.epoch ≠ 0xFFFFFFFF →
        (let s1 := begunExec s r
         let b := inPayload s x
         let c := decodeCfg b (s.prt.cfg.epoch.toNat + 1)
         let nk := newKeysOf b
         let busy := natSum ((List.range 16).map fun p =>
           bnat ((affectedBits s c nk).getLsbD p && hasWork s1 r p (tget partRecNone c.parts p) (nk.getLsbD p)) * 2 ^ p)
         (∀ st d, checkCfg s1 r.mb.val b = some (st, d) → ∃ t, exec (.configApply r) s = .next t ∧ OnlyMailboxAndHost s t r.mb.val ∧
           Completes s t r x false (ansErr st d)) ∧
         (checkCfg s1 r.mb.val b = none → bitAt (prm x 0x20 4) 0 = false →
           (busy ≠ 0 → ∃ t, exec (.configApply r) s = .next t ∧ OnlyMailboxAndHost s t r.mb.val ∧ Completes s t r x false (ansErr 0x0104 busy)) ∧
           (busy = 0 → recordQueued s = false → waitsCommitted s1 r (affectedBits s c nk) = false →
             waitsCtrls s (affectedBits s c nk) = false →
             ∃ t a, exec (.configApply r) s = .next t ∧ t.prt.applying = some a ∧ a.req = some r ∧ a.img = c ∧ a.written = false ∧
               t.prt.cfg = s.prt.cfg ∧ recordQueued t = true ∧ findExec t r = some { x with begun := true })))))

/-- CONFIG_ACTIVATE (R90 step 10, R93): once the record is written, at a frame boundary of the fabric, with no write under way to a namespace that
goes, the new image is the active configuration, its epoch is KLV_CFG_EPOCH, and no application is in progress; the consent of an affected
partition ends and its budget clock starts at 0. Before, nothing changes. Stated where every request of every mailbox is past its commit point.
R93, R108: a request of another class than PART that was accepted under another configuration than the active one is executed under its own:
what its opcode answers is answered from that configuration, and the active one stays. -/
def Obligations.Activation : Prop :=
  (∀ (s : State), (s.prt.applying = none → exec .configActivate s = .next s) ∧
    (∀ a, s.prt.applying = some a →
      ((a.written = false ∨ (regOf s 1).pos ≠ 0 ∨ waitsWrites s a = true) → exec .configActivate s = .next s) ∧
      (a.written = true → (regOf s 1).pos = 0 → waitsWrites s a = false → (∀ n : Mb, ∀ x ∈ (mbox s n.val).execs, x.committed = true) →
        ∃ t, exec .configActivate s = .next t ∧ t.prt.cfg = a.img ∧ t.prt.loaded = true ∧ t.prt.applying = none ∧
          t.klv.cfgEpoch = a.img.epoch ∧
          ∀ p < 16, a.affected.getLsbD p = true → (pst t p).consent = false ∧ (pst t p).budget = 0))) ∧
  (∀ (s : State) (r : ReqId) (x : Exec), findExec s r = some x → canBegin r (mbox s r.mb.val).execs x = true → x.cfg ≠ s.prt.cfg →
    (entCls x.entry = 9 → entOp x.entry = 0x41 → clusterOwner s (prm x 0x20 1) = some (reqPart r) →
      clusterOwner (underCfg s x.cfg) (prm x 0x20 1) ≠ some (reqPart r) → Outlet s r x →
      ∃ t, exec (.arrayStatus r) s = .next t ∧ Completes s t r x false (ansErr 0x0019 0x20) ∧ t.prt = s.prt) ∧
    (entCls x.entry = 9 → entOp x.entry = 0x41 → clusterOwner (underCfg s x.cfg) (prm x 0x20 1) = some (reqPart r) → Outlet s r x →
      ∃ t, exec (.arrayStatus r) s = .next t ∧ t.prt = s.prt ∧
        Completes s t r x false (ansOk (workingArrays s (prm x 0x20 1)) ((List.range 4).flatMap (arrayRecord s (prm x 0x20 1))))))

/-- REGULATOR_SLOT (R99-R101, R249, R543): only the partition manager's own state changes and, at a fabric slot, the watchdogs of its owner's
contexts, and the path's slot advances round its frame of 256. In a frame that is not withheld: the budget clock of the slot's owner advances by
1 at a fabric slot and at no other, used or not, and with it the watchdog of each of its running contexts but those that wait only for an
engine that serves another slot; a slot of a sealed partition is granted to no other, and a sealed partition takes no other's slot, so its lent
and borrowed counts never change; nor does the borrowed count of a partition that is not active; a slot of the system's serves the first in
order of arrival of those who wait for it. In a withheld fabric frame no budget clock advances and nothing is lent. -/
def Obligations.Regulators : Prop :=
  ∀ (s : State) (p : Path) (waiting : BitVec 16) (sys : Bool),
    (let k := pathIx p
     let r := regOf s k
     let held := if k = 1 ∧ r.pos = 0 then withheldAt (throttleLevel s) r.frame else (regOf s 1).withheld
     let owner := (r.table[r.pos]?).getD 16
     ∃ t, exec (.regulatorSlot p waiting sys) s = .next t ∧ { t with prt := s.prt, slots := s.slots } = s ∧ t.prt.cfg = s.prt.cfg ∧
       ((k ≠ 1 ∨ held = true ∨ 16 ≤ owner) → t.slots = s.slots) ∧
       (k = 1 → held = false → owner < 16 → ∀ (c : Clu) (i : SlotIx), slot t c.val i.val =
         if running s c.val i.val = true ∧ clusterOwner s c.val = some owner ∧ waitsForEngine s c.val i.val = false
         then { slot s c.val i.val with wd := (slot s c.val i.val).wd + 1 } else slot s c.val i.val) ∧
       (held = false → 16 ≤ owner → (regOf t k).sysQ = (sysWaiting s r waiting sys).tail) ∧
       (∀ q, isActive s q = false → (pst t q).borrowed = (pst s q).borrowed) ∧
       (regOf t k).pos = (r.pos + 1) % 256 ∧ (regOf t k).table = r.table ∧
       (∀ q, isSealed s q = true → (pst t q).lent = (pst s q).lent ∧ (pst t q).borrowed = (pst s q).borrowed) ∧
       (held = true → ∀ q, (pst t q).budget = (pst s q).budget ∧ (pst t q).lent = (pst s q).lent ∧
         (pst t q).borrowed = (pst s q).borrowed) ∧
       (held = false → ∀ q, (pst t q).budget = if k = 1 ∧ q = owner ∧ owner < 16 then (pst s q).budget + 1 else (pst s q).budget) ∧
       (held = false → owner < 16 → isSealed s owner = true → ∀ q, (pst t q).borrowed = (pst s q).borrowed))

/-- The plain vector commands (R143-R145, R129, R131): a command whose checks pass, whose segments are not being cleared and whose inputs hold
no poison leaves the queue and waits to finish, with the flags it will then OR into NUM_FLAGS (R187); its results, in the output format, stand
at DST; no byte outside DST's place, no other slot and no other state but guards, poison marks and the unit's turn changes. A command that
breaks a check reports the fault's code and writes no memory.
VCVT (R210-R212, R218) and THY_FILL (R226-R229): a command whose checks pass leaves the queue and waits to finish; VCVT brings its flags
and adds its counts of clipped and flushed elements, saturating, to its slot, and the random words it drew to THY_WORDS; THY_FILL writes the
string of its seed, stream and index base, drawn from the context's seed; neither writes outside its cluster's store. -/
def Obligations.VectorUnit : Prop :=
  (∀ (s : State) (c : Clu) (i : SlotIx) (cmd : Instr) (op : Nat) (q : QCmd) (l : List QCmd), s.memOk → (cmd, op) ∈ vectorRows c i →
    VecReady s c i op q l →
    (vecFault s c.val i.val q.word = none → viewClearing s c.val i.val (vecReads q.word ++ vecWrites q.word) = false →
      viewPoison s c.val i.val (vecReads q.word) = none →
      (let r := vecBytes q.word (vecResults s c.val i.val q.word)
       ∃ t, exec cmd s = .next t ∧ OtherSlotsSame s t c.val i.val ∧
         slot t c.val i.val = { slot s c.val i.val with
           vecQ := l, fin := (slot s c.val i.val).fin ++ [doneCmd .vec q r.2] } ∧
         { t with slots := s.slots, mem := s.mem, arrs := s.arrs, ras := s.ras, clus := s.clus } = s ∧
         CluSet s t c.val { cluster s c.val with vecLast := i } ∧
         (∀ ps, viewRange s c.val i.val (vDst q.word) r.1.length = some ps → ∀ a, ¬InPieces ps a → mget t.mem a = mget s.mem a) ∧
         (∀ a, viewRange s c.val i.val (vDst q.word) r.1.length = some [(a, r.1.length)] → mread t.mem a r.1.length = r.1))) ∧
    (∀ code, vecFault s c.val i.val q.word = some code →
      ∃ t, exec cmd s = .next t ∧ t.mem = s.mem ∧ (slot t c.val i.val).faultCode = BitVec.ofNat 8 code ∧
        (slot t c.val i.val).vecQ = q :: l)) ∧
  (∀ (s : State) (c : Clu) (i : SlotIx) (q : QCmd) (l : List QCmd), s.memOk →
    (VecReady s c i 0x72 q l → vecFault s c.val i.val q.word = none →
      viewClearing s c.val i.val (vecReads q.word ++ vecWrites q.word) = false → viewPoison s c.val i.val (vecReads q.word) = none →
      (let w := q.word
       let as := elemValues (vFmtIn w) (vCount w) (viewRead s c.val i.val (vSrcA w) (vCount w * (fmtBits (vFmtIn w) / 8)))
       let o := if vMx w then cvtMx (ctxSeed s c.val i.val) w as else cvtPlain (ctxSeed s c.val i.val) w as
       ∃ t, exec (.vcvt c i) s = .next t ∧ OtherSlotsSame s t c.val i.val ∧ OnlyStore s t c.val ∧
         slot t c.val i.val = { slot s c.val i.val with
           vecQ := l, fin := (slot s c.val i.val).fin ++ [doneCmd .vec q o.flags]
           vclip := satAdd (slot s c.val i.val).vclip o.clipped, vflush := satAdd (slot s c.val i.val).vflush o.flushed } ∧
         CluSet s t c.val { cluster s c.val with
           vecLast := i, mxNan := satAdd (cluster s c.val).mxNan o.mxNan, mxRaised := satAdd (cluster s c.val).mxRaised o.raised
           thyWords := (cluster s c.val).thyWords + (if vRnd w = 1 then BitVec.ofNat 64 o.drawn else 0) })) ∧
    (VecReady s c i 0x9F q l → tfFault s c.val i.val q.word = none →
      viewClearing s c.val i.val [(fld q.word 8 4, tfBytes q.word)] = false →
      (let bs := tfString (ctxSeed s c.val i.val) q.word
       ∃ t, exec (.thyFill c i) s = .next t ∧ OtherSlotsSame s t c.val i.val ∧ OnlyStore s t c.val ∧
         slot t c.val i.val = { slot s c.val i.val with vecQ := l, fin := (slot s c.val i.val).fin ++ [doneCmd .vec q nf0] } ∧
         CluSet s t c.val { cluster s c.val with
           vecLast := i, thyWords := (cluster s c.val).thyWords + BitVec.ofNat 64 (fld q.word 0x0C 4) } ∧
         (∀ a, viewRange s c.val i.val (fld q.word 8 4) bs.length = some [(a, bs.length)] → mread t.mem a bs.length = bs))))

/-- DMA_COPY, DMA_FILL and CACHE_OP (R129-R133): a command none of whose checks breaks, none of whose lines is in a transaction, none of whose
segments is being cleared and whose source holds no poison leaves the queue and waits to finish, whatever its spaces, rows and cache bit; one that breaks a check reports the
code and writes no memory. A one-row fill or copy in the slot's own store puts the value, or the source's bytes, at DST and changes no other
byte; on a cluster without cache segments CACHE_OP has no effect beyond finishing. -/
def Obligations.DmaCommands : Prop :=
  ∀ (s : State) (c : Clu) (i : SlotIx) (op : Nat) (q : QCmd) (l : List QCmd), s.memOk → DmaReady s c i op q l →
    (let d := dmaFields q.word
     let ps := dmaPlaces s c.val i.val (cluPart s c.val) d
     let ok := ps.filterMap fun x => x.toOption
     let popped := { slot s c.val i.val with dmaQ := l, fin := (slot s c.val i.val).fin ++ [doneCmd .dma q nf0] }
     (∀ cmd, ((cmd = .dmaCopy c i ∧ op = 1) ∨ (cmd = .dmaFill c i ∧ op = 2)) →
       (∀ code, dmaFault q.word d ps = some code → ∃ t, exec cmd s = .next t ∧ t.mem = s.mem ∧
         (slot t c.val i.val).faultCode = BitVec.ofNat 8 code ∧ (slot t c.val i.val).dmaQ = q :: l) ∧
       (dmaFault q.word d ps = none → ok.any (fun x => placeBusy s x.2 || ((x.1.map (placeBusy s)).getD false)) = false →
         (copyBlocks (cluAgent c) (d.cached && cacheSegs s c.val != 0) d.value ok s).2 = none →
         ∃ t, exec cmd s = .next t ∧ slot t c.val i.val = popped ∧ OtherSlotsSame s t c.val i.val)) ∧
     (op = 2 → ∀ a n, ps = [.ok (none, .store [(a, n)])] → dmaFault q.word d ps = none → n % 4 = 0 → clearingAt s [(a, n)] = false →
       ∃ t, exec (.dmaFill c i) s = .next t ∧ slot t c.val i.val = popped ∧
         (∀ k < n, mget t.mem (a + k) = BitVec.ofNat 8 (d.value / 256 ^ (k % 4))) ∧
         (∀ b, b < a ∨ a + n ≤ b → mget t.mem b = mget s.mem b)) ∧
     (op = 1 → ∀ a b n, ps = [.ok (some (.store [(a, n)]), .store [(b, n)])] → dmaFault q.word d ps = none → poisoned s a n = false →
       clearingAt s [(a, n)] = false → clearingAt s [(b, n)] = false →
       ∃ t, exec (.dmaCopy c i) s = .next t ∧ slot t c.val i.val = popped ∧ mread t.mem b n = mread s.mem a n ∧
         (∀ x, x < b ∨ b + n ≤ x → mget t.mem x = mget s.mem x)) ∧
     (op = 3 →
       (∀ code, cacheOpFault s (cluPart s c.val) q.word = some code → ∃ t, exec (.cacheOp c i) s = .next t ∧ t.mem = s.mem ∧
         (slot t c.val i.val).faultCode = BitVec.ofNat 8 code) ∧
       (cacheOpFault s (cluPart s c.val) q.word = none →
         (rangeBusy s (fld q.word 8 6) (fld q.word 0x10 4 * 64) = false → ∃ t, exec (.cacheOp c i) s = .next t ∧
           slot t c.val i.val = popped ∧ OtherSlotsSame s t c.val i.val) ∧
         (cacheSegs s c.val = 0 → ∃ t, exec (.cacheOp c i) s = .next t ∧ slot t c.val i.val = popped ∧ t.mem = s.mem ∧ t.coh = s.coh))))

/-- DISPATCH_WORD (R127-R129, R542): the dispatcher reads one word a cycle, of the first slot in rotating order that has its word ready and can
take it; a word past STREAM_LEN gives STREAM, an unassigned opcode OPCODE, and a reserved header field RESERVED; any other word goes to the
queue of its engine, and the position advances by 32; a SYNC_NOP that does not wait is carried out at once. COMMAND_FINISH
(R121, R187): the oldest finished command of an engine ORs its flags into NUM_FLAGS and posts its ticket on its own cluster, unless it is a DMA
command that wrote a neighbour, and the watchdog starts again.
CLUSTER_CYCLE (R115-R119, R126): each cycle counts in CLU_CYCLE, and for the segments being cleared, and touches nothing but its cluster's own
banks: with no access waiting and none arriving, no memory and no other cluster changes; whatever arrives, memory outside the cluster's store and
every other cluster stay. The ports of a bank's 64-slot frame: an array port every 8 slots, the vector port every 4, and each neighbour once. -/
def Obligations.DispatchAndCycles : Prop :=
  (∀ (s : State) (c : Clu) (ready : BitVec 4),
    ((cluster s c.val).dispatched = true → exec (.dispatchWord c ready) s = .next s) ∧
    (dispatchTurn s c.val ready = none → exec (.dispatchWord c ready) s = .next s) ∧
    (∀ (i : SlotIx) (j : Job), (cluster s c.val).dispatched = false → dispatchTurn s c.val ready = some i.val →
      slotJob s c.val i.val = some j →
      (let sl := slot s c.val i.val
       let a := j.imageBase + jStreamOff j sl.rank + sl.pos
       let w := mread (ncRead s a 32).mem a 32
       let q : QCmd := { word := w, pos := sl.pos, seq := sl.nextSeq }
       let b := (pst s ((clusterOwner s c.val).getD 16)).budget
       (jStreamLen j sl.rank < sl.pos + 32 → ∃ t, exec (.dispatchWord c ready) s = .next t ∧ (slot t c.val i.val).faultCode = 0x20 ∧
         (slot t c.val i.val).pos = sl.pos) ∧
       (sl.pos + 32 ≤ jStreamLen j sl.rank → poisoned s a 32 = false →
         (opAssigned (wOp w) = false → ∃ t, exec (.dispatchWord c ready) s = .next t ∧ (slot t c.val i.val).faultCode = 0x01 ∧
           (slot t c.val i.val).pos = sl.pos) ∧
         (opAssigned (wOp w) = true → headerReserved w = true → wOp w ≠ 0x9F → ∃ t, exec (.dispatchWord c ready) s = .next t ∧
           (slot t c.val i.val).faultCode = 0x02 ∧ (slot t c.val i.val).pos = sl.pos) ∧
         (opAssigned (wOp w) = true → headerReserved w = false →
           (wOp w ≤ 3 → ∃ t, exec (.dispatchWord c ready) s = .next t ∧ OtherSlotsSame s t c.val i.val ∧
             slot t c.val i.val = { sl with dmaQ := sl.dmaQ ++ [q], pos := sl.pos + 32, nextSeq := sl.nextSeq + 1 } ∧
             (cluster t c.val).dispatched = true ∧ (cluster t c.val).dispSlot = i) ∧
           (0x60 ≤ wOp w → wOp w ≤ 0x7F → ∃ t, exec (.dispatchWord c ready) s = .next t ∧ OtherSlotsSame s t c.val i.val ∧
             slot t c.val i.val = { sl with vecQ := sl.vecQ ++ [q], pos := sl.pos + 32, nextSeq := sl.nextSeq + 1 }) ∧
           ((wOp w = 0x20 ∨ wOp w = 0x21) → ∃ t, exec (.dispatchWord c ready) s = .next t ∧ OtherSlotsSame s t c.val i.val ∧
             slot t c.val i.val = { sl with
               arrQ := tput sl.arrQ (wArr w) (tget [] sl.arrQ (wArr w) ++ [q]), pos := sl.pos + 32, nextSeq := sl.nextSeq + 1 }) ∧
           (wOp w = 0x80 → syncReserved w = false → waitMet sl w = true →
             ∃ t, exec (.dispatchWord c ready) s = .next t ∧ OtherSlotsSame s t c.val i.val ∧
               slot t c.val i.val = finishedSlot b { sl with pos := sl.pos + 32, nextSeq := sl.nextSeq + 1, readAt := b, cur := none } w) ∧
           (wOp w = 0x80 → syncReserved w = false → waitMet sl w = false →
             ∃ t, exec (.dispatchWord c ready) s = .next t ∧ OtherSlotsSame s t c.val i.val ∧
               slot t c.val i.val = { sl with pos := sl.pos + 32, nextSeq := sl.nextSeq + 1, readAt := b, cur := some q })))))) ∧
  (∀ (s : State) (c : Clu) (i : SlotIx) (e : Engine) (x : Done),
    (slot s c.val i.val).fin.find? (fun x => x.eng == e) = some x → dmaPostCluster c.val x.cmd.word = c.val →
    (∀ k, e = .arr k → (arr s c.val k.val).test = none) →
    ∃ t, exec (.commandFinish c i e) s = .next t ∧ OtherSlotsSame s t c.val i.val ∧
      slot t c.val i.val = finishedSlot (pst s ((clusterOwner s c.val).getD 16)).budget
        { slot s c.val i.val with
          fin := dropFirst (fun x => x.eng == e) (slot s c.val i.val).fin, flags := nfOr (slot s c.val i.val).flags x.flags } x.cmd.word ∧
      { t with slots := s.slots } = s) ∧
  ((∀ (s : State) (c : Clu) (l : List RowAccess), s.memOk →
    ∃ t, exec (.clusterCycle c { arrivals := l, found := [], ecc := .clean }) s = .next t ∧
      (cluster t c.val).cycle = (cluster s c.val).cycle + 1 ∧ (cluster t c.val).dispatched = false ∧
      (cluster t c.val).clearing = (((cluster s c.val).clearing.filter fun g => 1 < g.2).map fun g => (g.1, g.2 - 1)) ∧
      (∀ d, d ≠ c.val → cluster t d = cluster s d) ∧ OnlyStore s t c.val ∧ t.slots = s.slots ∧
      ((cluster s c.val).ports = [] → l = [] → t.mem = s.mem ∧ (cluster t c.val).ports = [] ∧ (cluster t c.val).reads = (cluster s c.val).reads)) ∧
  (∀ j, portAt (8 * j) = .arr 0 ∧ portAt (8 * j + 2) = .arr 1 ∧ portAt (8 * j + 4) = .arr 2 ∧ portAt (8 * j + 6) = .arr 3 ∧
    portAt (4 * j + 1) = .vu ∧ portAt (8 * j + 3) = .dma ∧ portAt (64 * j + 7) = .nb 0 ∧ portAt (64 * j + 23) = .nb 1 ∧
    portAt (64 * j + 39) = .nb 2 ∧ portAt (64 * j + 55) = .nb 3 ∧ portAt (16 * j + 15) = .ca))

/-- ARR_LAYOUT and ARR_MM (R158-R162, R152): ARR_LAYOUT sets the layout registers of its array for its slot alone; ARR_MM, granted and with its
checks passed and no poison in its inputs, adds M * N * K * PASSES to the array's multiply-accumulate count and writes no memory but its own
cluster's store; either leaves the queue and waits to finish. A command that breaks a check of the first stage faults with its code, granted
or not, and records it in the array's last fault; one whose array is not granted to its slot waits, unchanged. An ARR_LAYOUT takes one
array cycle (R171). -/
def Obligations.ArrayCommands : Prop :=
  ∀ (s : State) (c : Clu) (i : SlotIx) (k : ArrIx) (q : QCmd) (l : List QCmd), s.memOk →
    (ArrReady s c i k 0x20 q l → layoutReserved q.word = false → arrUnusable s c.val k.val = false →
      ∃ t, exec (.arrLayout c i k) s = .next t ∧ OtherSlotsSame s t c.val i.val ∧
        { t with slots := s.slots, arrs := s.arrs } = s ∧ (∀ d : Nat, d ≠ c.val * 4 + k.val → tget arrReset t.arrs d = tget arrReset s.arrs d) ∧
        arr t c.val k.val = { arr s c.val k.val with busy := (arr s c.val k.val).busy + 1 } ∧
        slot t c.val i.val = { slot s c.val i.val with
          layout := tput (slot s c.val i.val).layout k.val (layoutOf q.word), arrQ := tput (slot s c.val i.val).arrQ k.val l
          fin := (slot s c.val i.val).fin ++ [doneCmd (.arr k) q nf0] }) ∧
    (ArrReady s c i k 0x21 q l →
      (∀ code, mmStage1 s c.val q.word = some code →
        ∃ t, exec (.arrMm c i k) s = .next t ∧ t.mem = s.mem ∧ (slot t c.val i.val).faultCode = BitVec.ofNat 8 code ∧
          (arrPresent s c.val k.val = true → (arr t c.val k.val).lastFault = BitVec.ofNat 8 code)) ∧
      (mmStage1 s c.val q.word = none → grantedTo (arr s c.val k.val) i = false → exec (.arrMm c i k) s = .next s) ∧
      (mmStage1 s c.val q.word = none → grantedTo (arr s c.val k.val) i = true →
        (let d := mmFields q.word
         let y := tget layoutReset (slot s c.val i.val).layout k.val
         let load := !mayReuse (arr s c.val k.val) i.val d y
         (∀ code, mmStage2 s c.val i.val d y load = some code →
           ∃ t, exec (.arrMm c i k) s = .next t ∧ t.mem = s.mem ∧ (slot t c.val i.val).faultCode = BitVec.ofNat 8 code) ∧
         (mmStage2 s c.val i.val d y load = none →
           viewClearing s c.val i.val (mmReads d y load ++ (if d.acc then rowRanges (storedY d y) else []) ++ statsRange d y ++ yRanges d y)
             = false →
           viewPoison s c.val i.val (mmReads d y load ++ (if d.acc then rowRanges (storedY d y) else []) ++ statsRange d y) = none →
           ∃ t, exec (.arrMm c i k) s = .next t ∧ OtherSlotsSame s t c.val i.val ∧ OnlyStore s t c.val ∧
             tget [] (slot t c.val i.val).arrQ k.val = l ∧ (slot t c.val i.val).fin = (slot s c.val i.val).fin ++ [doneCmd (.arr k) q (mmEffect s c i k.val d y).2] ∧
             (arr t c.val k.val).macs = (arr s c.val k.val).macs + BitVec.ofNat 64 (d.m * d.n * d.k * d.passes) ∧
             (arr t c.val k.val).st = (arr s c.val k.val).st ∧ t.free = s.free + 1))))

/-- ARRAY_GRANT and ARRAY_QUANTUM_EXPIRE (R243, R164, R245): at a command boundary, where no pinned job holds it, a working array that no slot
holds goes to the waiting slot of highest priority; a holder whose command waits loses it only to a higher priority, with its held tile and a
count of the pre-emption; and a holder that has used its quantum loses it to the next waiting slot of its own priority. While a command of the
array has not finished, while the array is under test, and while it is FAILED, it is granted to no other slot.
Array self-test (R166-R170): ARRAY_TEST on an owned, present array with no test takes an idle one offline, with its held tile; on a busy one the
test begins at the first finish that leaves the array idle; ARRAY_STATUS gives the count of working arrays and a record for each; a failing
pattern makes the array FAILED; a test whose last pattern passes completes with OK and returns the array to service; a test that has yielded goes
on 10 us after the array has become idle. -/
def Obligations.ArrayGrants : Prop :=
  (∀ (s : State) (c : Clu) (k : ArrIx),
    (arrPresent s c.val k.val = true → (arr s c.val k.val).failed = false → (cluster s c.val).katFail = false →
      atBoundary s c.val k = true → (∀ i < 4, slotPinned s c.val k.val i = false) →
      ∀ i : SlotIx, bestWaiter s c.val k.val (rotated (arr s c.val k.val).slot.val) = some i.val →
        ((arr s c.val k.val).st = 0 → ∃ t, exec (.arrayGrant c k) s = .next t ∧ { t with arrs := s.arrs } = s ∧
          grantedTo (arr t c.val k.val) i = true ∧ (arr t c.val k.val).quantum = 0) ∧
        ((arr s c.val k.val).st = 1 → (arr s c.val k.val).slot ≠ i → waitsFor s c.val k.val (arr s c.val k.val).slot.val = true →
          (slotPri s c.val (arr s c.val k.val).slot.val < slotPri s c.val i.val →
            ∃ t, exec (.arrayGrant c k) s = .next t ∧ grantedTo (arr t c.val k.val) i = true ∧ (arr t c.val k.val).held = none ∧
              (schPart t (cluPart s c.val)).preempts = satInc (schPart s (cluPart s c.val)).preempts) ∧
          (slotPri s c.val i.val ≤ slotPri s c.val (arr s c.val k.val).slot.val → exec (.arrayGrant c k) s = .next s))) ∧
    ((atBoundary s c.val k = false ∨ (arr s c.val k.val).st = 2 ∨ (arr s c.val k.val).failed = true) → exec (.arrayGrant c k) s = .next s) ∧
    (atBoundary s c.val k = false → exec (.arrayQuantumExpire c k) s = .next s) ∧
    ((arr s c.val k.val).st = 1 → (arr s c.val k.val).pinned = false → atBoundary s c.val k = true →
      ∀ j, slotJob s c.val (arr s c.val k.val).slot.val = some j → jQuantum j ≠ 0 → jQuantum j ≤ (arr s c.val k.val).quantum →
        ∀ i : SlotIx, ((rotated (arr s c.val k.val).slot.val).find? fun i =>
          i != (arr s c.val k.val).slot.val && waitsFor s c.val k.val i && slotPri s c.val i == slotPri s c.val (arr s c.val k.val).slot.val) =
            some i.val →
          ∃ t, exec (.arrayQuantumExpire c k) s = .next t ∧ grantedTo (arr t c.val k.val) i = true ∧ (arr t c.val k.val).quantum = 0)) ∧
  ((∀ (s : State) (r : ReqId) (x : Exec), Outlet s r x →
    (AtTurn s r x 9 0x40 → ∀ k : ArrIx, prm x 0x21 1 = k.val → (arr s (prm x 0x20 1) k.val).test = none →
      clusterOwner s (prm x 0x20 1) = some (reqPart r) → bitAt (prm x 0x23 1) 0 = false → arrPresent s (prm x 0x20 1) k.val = true →
      arrayIdle s (prm x 0x20 1) k = true →
      ∃ t, exec (.arrayTest r) s = .next t ∧ (arr t (prm x 0x20 1) k.val).st = 2 ∧ (arr t (prm x 0x20 1) k.val).held = none ∧
        (arr t (prm x 0x20 1) k.val).patterns = 0 ∧
        ((arr t (prm x 0x20 1) k.val).test.map fun y => (y.total, y.running)) = some (if prm x 0x22 1 = 0 then 1024 else 65536, true) ∧
        t.slots = s.slots ∧ t.mem = s.mem) ∧
    (AtTurn s r x 9 0x41 → clusterOwner s (prm x 0x20 1) = some (reqPart r) →
      ∃ t, exec (.arrayStatus r) s = .next t ∧ OnlyMailboxAndHost s t r.mb.val ∧
        Completes s t r x false
          (ansOk (workingArrays s (prm x 0x20 1)) ((List.range 4).flatMap (arrayRecord s (prm x 0x20 1)))))) ∧
  (∀ (s : State) (c : Clu) (k : ArrIx) (y : ArrTest), (arr s c.val k.val).test = some y →
    (y.running = true → y.yielded = false →
      (∀ d, ∃ t, exec (.testPatternEnd c k (some d)) s = .next t ∧ (arr t c.val k.val).failed = true ∧
        (arr t c.val k.val).fails = (arr s c.val k.val).fails + 1 ∧ (arr t c.val k.val).test = none) ∧
      (y.stop = false → y.clearFailed = false → ∀ x, y.total ≤ ((arr s c.val k.val).patterns + 1).toNat → findExec s y.req = some x →
        Outlet s y.req x → ∃ t, exec (.testPatternEnd c k none) s = .next t ∧ (arr t c.val k.val).test = none ∧
          (arr t c.val k.val).patterns = (arr s c.val k.val).patterns + 1 ∧
          Completes s t y.req x false (ansOk ((arr s c.val k.val).yields.toNat % 65536 * 256)))) ∧
    (y.yielded = true → arrayIdle s c.val k = true →
      ∃ t, exec (.testResume c k) s = .next t ∧ (arr t c.val k.val).st = 2 ∧ (arr t c.val k.val).held = none ∧
        ((arr t c.val k.val).test.map fun y => (y.running, y.yielded)) = some (true, false) ∧
        { t with arrs := s.arrs } = reach s (y.idleAt + 10000)) ∧
    (y.running = false → ∀ (i : SlotIx) (x : Done), (slot s c.val i.val).fin.find? (fun x => x.eng == .arr k) = some x →
      arrayIdle (updSlot s c.val i.val fun sl => { sl with fin := dropFirst (fun x => x.eng == .arr k) sl.fin }) c.val k = true →
      ∃ t, exec (.commandFinish c i (.arr k)) s = .next t ∧ (arr t c.val k.val).st = 2 ∧ (arr t c.val k.val).held = none ∧
        ((arr t c.val k.val).test.map fun y => (y.running, y.yielded)) = some (true, false))))

/-- The synchronisation commands that act on their own slot alone (R248, R252): held with its wait met, a command with a valid target or state
finishes, leaving every other slot as it was: NOP; JUMP and LOOP move the position or count; RWAIT passes once its signal counter is ready,
else it waits unchanged; DL_ARM arms the monitor at the budget clock plus its cycles; DL_CHECK passes once its ticket is ready, that of a strict
job adding the cycles past its deadline at which the ticket became ready to the stall of its cause; DL_END disarms it; YIELD gives up the arrays the slot holds and is not pinned to.
A synchronisation command with a reserved field set gives RESERVED, and one whose target is no word of its rank's stream gives STREAM
(R127, R248, R249): the slot reports the code and keeps its position. -/
def Obligations.Synchronisation : Prop :=
  (∀ (s : State) (c : Clu) (i : SlotIx) (q : QCmd) (j : Job),
    (let sl := slot s c.val i.val
     let clock := (pst s ((clusterOwner s c.val).getD 16)).budget
     let done (f : Slot → Slot) (cmd : Instr) : Prop :=
       ∃ t, exec cmd s = .next t ∧ OtherSlotsSame s t c.val i.val ∧ t.mem = s.mem ∧
         slot t c.val i.val = finishedSlot clock (f { sl with cur := none }) q.word
     (SyncHeld s c i 0x80 q j → done id (.syncNop c i)) ∧
     (SyncHeld s c i 0x84 q j →
       (tktReady (tget 0 sl.sigcnt (fld q.word 8 1)).toNat (fld q.word 0xA 2) = true → done id (.rwait c i)) ∧
       (tktReady (tget 0 sl.sigcnt (fld q.word 8 1)).toNat (fld q.word 0xA 2) = false → exec (.rwait c i) s = .next s)) ∧
     (SyncHeld s c i 0x89 q j → streamTarget j sl.rank (fld q.word 8 4) = true →
       done (fun x => { x with pos := fld q.word 8 4 }) (.jump c i)) ∧
     (SyncHeld s c i 0x8A q j → streamTarget j sl.rank (fld q.word 0xC 4) = true →
       (let n := (tget 0 sl.lctr (fld q.word 8 1)).toNat
        let m := fld q.word 0x10 4
        ((n = 0 ∧ 1 < m ∨ 1 < n) → done (fun x => { x with
          lctr := tput x.lctr (fld q.word 8 1) (BitVec.ofNat 32 ((if n = 0 then m else n) - 1)), pos := fld q.word 0xC 4 }) (.loop c i)) ∧
        ((n = 0 ∧ m ≤ 1 ∨ n = 1) → done (fun x => { x with lctr := tput x.lctr (fld q.word 8 1) 0 }) (.loop c i)))) ∧
     (SyncHeld s c i 0x85 q j → streamTarget j sl.rank (fld q.word 0x10 4) = true → sl.armed = false →
       done (fun x => { x with
         armed := true, deadline := (pst s (cluPart s c.val)).budget + BitVec.ofNat 64 (fld q.word 0xC 4), altOff := fld q.word 0x10 4
         step := fld q.word 8 1 }) (.dlArm c i)) ∧
     (SyncHeld s c i 0x86 q j → sl.armed = true → tktReady (tget 0 sl.tkt (fld q.word 9 1)).toNat (fld q.word 0xA 2) = true →
       (let b := readyAt sl (fld q.word 9 1) (fld q.word 0xA 2)
        (runsTimely j = true → lateFor sl q.word b = false → done id (.dlCheck c i)) ∧
        (runsTimely j = false → b ≤ sl.deadline.toNat → done id (.dlCheck c i)) ∧
        (runsTimely j = false → sl.deadline.toNat < b →
          done (fun x => { x with stall := x.stall + BitVec.ofNat 64 (b - sl.deadline.toNat) }) (.dlCheck c i) ∧
          ∃ t, exec (.dlCheck c i) s = .next t ∧ tget 0 (schPart t j.part).stall (fld q.word 8 1) =
            tget 0 (schPart s j.part).stall (fld q.word 8 1) + BitVec.ofNat 64 (b - sl.deadline.toNat)))) ∧
     (SyncHeld s c i 0x87 q j → sl.armed = true → done (fun x => { x with armed := false }) (.dlEnd c i)) ∧
     (SyncHeld s c i 0x8B q j →
       done id (.yield c i) ∧ ∃ t, exec (.yield c i) s = .next t ∧ ∀ k < 4, (arr s c.val k).pinned = false → grantedTo (arr t c.val k) i = false))) ∧
  (∀ (s : State) (c : Clu) (i : SlotIx) (q : QCmd) (j : Job) (cmd : Instr) (op : Nat),
    (cmd, op) ∈ [(Instr.syncNop c i, 0x80), (.barrier c i, 0x81), (.rwait c i, 0x84), (.dlArm c i, 0x85), (.dlCheck c i, 0x86),
      (.dlEnd c i, 0x87), (.pathStore c i, 0x88), (.jump c i, 0x89), (.loop c i, 0x8A), (.yield c i, 0x8B), (.streamEnd c i, 0x8F)] →
    (slot s c.val i.val).cur = some q → slotJob s c.val i.val = some j → running s c.val i.val = true → wOp q.word = op →
    (syncReserved q.word = true → ∃ t, exec cmd s = .next t ∧ t.mem = s.mem ∧ (slot t c.val i.val).faultCode = 0x02 ∧
      (slot t c.val i.val).pos = (slot s c.val i.val).pos) ∧
    (syncReserved q.word = false → waitMet (slot s c.val i.val) q.word = true →
      ((op = 0x89 ∧ streamTarget j (slot s c.val i.val).rank (fld q.word 8 4) = false) ∨
       (op = 0x8A ∧ streamTarget j (slot s c.val i.val).rank (fld q.word 0xC 4) = false) ∨
       (op = 0x85 ∧ streamTarget j (slot s c.val i.val).rank (fld q.word 0x10 4) = false)) →
      ∃ t, exec cmd s = .next t ∧ t.mem = s.mem ∧ (slot t c.val i.val).faultCode = 0x20 ∧
        (slot t c.val i.val).pos = (slot s c.val i.val).pos))

/-- BARRIER, END and PATH_STORE (R248, R249, R255): a rank that arrives before another rank has waits, counted once; the rank of a one-rank
job whose commands have finished passes at once; END stops the reading of the rank; with the rank's commands finished the rank has ended, and when every rank has, the job ends, its slots are
empty, and its RUN completes with OK and the run record; PATH_STORE writes its row: the path bitmap, the count of fallbacks, and zeros.
DEADLINE_EXPIRE and DL_CHECK on a timely job (R252), and WATCHDOG_EXPIRE (R249): once the budget clock has reached the deadline while the
ticket is not ready, the stream continues at ALT_OFF, the step's path bit is set, the fallback is counted, and the monitor is disarmed; before,
nothing happens; the schedule's failure held on the ticket has the same effect at DL_CHECK (R279); a strict job never falls back, and DL_CHECK of a strict job waits. A watchdog that has reached WATCHDOG stops the context
with code 0x25. -/
def Obligations.BarriersAndDeadlines : Prop :=
  (∀ (s : State) (c : Clu) (i : SlotIx) (q : QCmd) (j : Job), s.memOk →
    (let sl := slot s c.val i.val
     let clock := (pst s ((clusterOwner s c.val).getD 16)).budget
     (SyncHeld s c i 0x81 q j → j.slotIx = i.val →
       (j.clusters = [c.val] → sl.ended = false → sl.barrier = none → allFinished sl = true →
         ∃ t, exec (.barrier c i) s = .next t ∧ OtherSlotsSame s t c.val i.val ∧
           slot t c.val i.val =
             finishedSlot clock { sl with cur := none, barCnt := tmod 0 sl.barCnt (fld q.word 8 1) (· + 1) } q.word) ∧
       (∀ d, d ∈ j.clusters → d ≠ c.val → (∀ e ∈ j.clusters, (slot s e i.val).ended = false) → (slot s d i.val).barrier = none →
         sl.barrier = none →
         ∃ t, exec (.barrier c i) s = .next t ∧ OtherSlotsSame s t c.val i.val ∧
           slot t c.val i.val = { sl with barrier := some (fld q.word 8 1), barCnt := tmod 0 sl.barCnt (fld q.word 8 1) (· + 1) })) ∧
     (SyncHeld s c i 0x8F q j → j.slotIx = i.val → j.clusters = [c.val] → sl.barrier = none → allFinished sl = true →
       j.ending = none → j.suspends = [] → tfind? s.sch.jobs (jobKey (jobHandle j)) = some j →
       ∃ t, exec (.streamEnd c i) s = .next t ∧ (slot t c.val i.val).st = .empty ∧
         (∃ k, tfind? t.sch.jobs (jobKey (jobHandle j)) = some k ∧ k.st = .ended ∧ k.run = none ∧ k.clusters = [] ∧
           k.runEpoch = j.runEpoch) ∧
         (∀ r x, j.run = some r → findExec s r = some x → Outlet s r x →
           Posts s t r x false { status := 0, detail := 0, result := bnat ((jobTotals s j).path != 0), out := runRecord s j })) ∧
     (SyncHeld s c i 0x8F q j → j.slotIx = i.val → (∀ d ∈ j.clusters, (slot s d i.val).barrier = none) → sl.barrier = none →
       (allFinished sl = false → ∃ t, exec (.streamEnd c i) s = .next t ∧ OtherSlotsSame s t c.val i.val ∧ t.sch = s.sch ∧
         slot t c.val i.val = { sl with ended := true }) ∧
       (allFinished sl = true → (∃ d ∈ j.clusters, d ≠ c.val ∧ (slot s d i.val).ended = false) →
         ∃ t, exec (.streamEnd c i) s = .next t ∧ OtherSlotsSame s t c.val i.val ∧ t.sch = s.sch ∧
           slot t c.val i.val = finishedSlot clock { sl with ended := true, cur := none } q.word)) ∧
     (SyncHeld s c i 0x88 q j → ∀ a, fld q.word 8 4 % 64 = 0 → viewRange s c.val i.val (fld q.word 8 4) 64 = some [(a, 64)] →
       viewClearing s c.val i.val [(fld q.word 8 4, 64)] = false →
       ∃ t, exec (.pathStore c i) s = .next t ∧ OtherSlotsSame s t c.val i.val ∧
         slot t c.val i.val = finishedSlot clock { sl with cur := none } q.word ∧
         mread t.mem a 64 = leBytes 32 sl.path.toNat ++ leBytes 4 sl.fallbacks.toNat ++ zeros 28 ∧
         (∀ b, b < a ∨ a + 64 ≤ b → mget t.mem b = mget s.mem b)))) ∧
  (∀ (s : State) (c : Clu) (i : SlotIx) (q : QCmd) (j : Job),
    (let sl := slot s c.val i.val
     let clock := (pst s ((clusterOwner s c.val).getD 16)).budget
     (SyncHeld s c i 0x86 q j → sl.armed = true → tktReady (tget 0 sl.tkt (fld q.word 9 1)).toNat (fld q.word 0xA 2) = false →
       (runsTimely j = true → sl.deadline.toNat ≤ (pst s (cluPart s c.val)).budget.toNat →
         ∃ t, exec (.deadlineExpire c i) s = .next t ∧ OtherSlotsSame s t c.val i.val ∧ t.mem = s.mem ∧
           slot t c.val i.val = finishedSlot clock { sl with
             cur := none, pos := sl.altOff, path := sl.path ||| BitVec.twoPow 256 sl.step, fallbacks := satInc sl.fallbacks, armed := false }
             q.word) ∧
       (runsTimely j = true → (pst s (cluPart s c.val)).budget.toNat < sl.deadline.toNat → exec (.deadlineExpire c i) s = .next s) ∧
       (runsTimely j = true → failHeld s (jobKey (jobHandle j)) sl.rank (fld q.word 9 1) = true →
         ∃ t, exec (.dlCheck c i) s = .next t ∧ OtherSlotsSame s t c.val i.val ∧
           slot t c.val i.val = finishedSlot clock { sl with
             cur := none, pos := sl.altOff, path := sl.path ||| BitVec.twoPow 256 sl.step, fallbacks := satInc sl.fallbacks, armed := false }
             q.word) ∧
       (runsTimely j = false → exec (.deadlineExpire c i) s = .next s ∧ exec (.dlCheck c i) s = .next s)) ∧
     (slotJob s c.val i.val = some j → running s c.val i.val = true → jWatchdog j ≠ 0 →
       (jWatchdog j ≤ sl.wd → ∃ t, exec (.watchdogExpire c i) s = .next t ∧ t.mem = s.mem ∧ (slot t c.val i.val).faultCode = 0x25) ∧
       (sl.wd < jWatchdog j → exec (.watchdogExpire c i) s = .next s))))

/-- RD_S, RD_X and UPG of an agent with a cache at a line at rest (R138): the directory's state decides the grant and the new state, or the
probes sent first; an unheld line of a read-only shared object is granted in S to each of them. RD_NC, WR_NC and WR_NC_PART at a line at rest (R138): a read of a line with no owner is answered, with no data if the line is poisoned (R496), and leaves the entry as it was; a
write of a line nobody holds is committed to the line's bytes alone; otherwise the holders are probed first, and memory is as before. -/
def Obligations.CoherenceRequests : Prop :=
  (∀ (s : State) (line : LineNo) (r : AgentId), hasCache s r = true → LineRests s line → LineSound s line →
   (isSharedLine s line = true → (dirOf s line).st = .u → ∀ row, row ∈ [Instr.rdS line (cohQuiet [r]), .rdX line (cohQuiet [r]), .upg line (cohQuiet [r])] →
      ∃ t, exec row s = .next t ∧ OnlyLine s t line ∧ LineAnswered s t line r (.gntS (lineData s line)) (.s [r])) ∧
   (isSharedLine s line = false →
    (let q : CohReq := { kind := .rdS, r := r, mask := 0, data := [] }
     ∃ t, exec (.rdS line (cohQuiet [r])) s = .next t ∧ OnlyLine s t line ∧
      ((dirOf s line).st = .u → LineAnswered s t line r (.gntE (lineData s line)) (.o r)) ∧
      (∀ v, (dirOf s line).st = .s v → LineAnswered s t line r (.gntS (lineData s line)) (.s (addSharer v r))) ∧
      (∀ a, (dirOf s line).st = .o a → LineProbed s t line q [(a, .downgrade)])) ∧
    (let q : CohReq := { kind := .rdX, r := r, mask := 0, data := [] }
     ∃ t, exec (.rdX line (cohQuiet [r])) s = .next t ∧ OnlyLine s t line ∧
      ((dirOf s line).st = .u → LineAnswered s t line r (.gntX (lineData s line)) (.o r)) ∧
      (∀ v, (dirOf s line).st = .s v →
        if v.filter (· != r) = [] then LineAnswered s t line r (.gntX (lineData s line)) (.o r)
        else LineProbed s t line q ((v.filter (· != r)).map fun a => (a, .inv))) ∧
      (∀ a, (dirOf s line).st = .o a → LineProbed s t line q [(a, .recall)])) ∧
    (let q : CohReq := { kind := .upg, r := r, mask := 0, data := [] }
     ∃ t, exec (.upg line (cohQuiet [r])) s = .next t ∧ OnlyLine s t line ∧
      ((dirOf s line).st = .u → LineAnswered s t line r (.gntX (lineData s line)) (.o r)) ∧
      (∀ v, (dirOf s line).st = .s v →
        if v.filter (· != r) = [] then
          LineAnswered s t line r (if r ∈ v then .gntUpg else .gntX (lineData s line)) (.o r)
        else LineProbed s t line q ((v.filter (· != r)).map fun a => (a, .inv))) ∧
      (∀ a, (dirOf s line).st = .o a → LineProbed s t line q [(a, .recall)])))) ∧
  (∀ (s : State) (line : LineNo) (r : AgentId), LineRests s line → poisoned s (lineAddr line) 64 = true → tilirData s (lineAddr line) = false →
    (∀ a, (dirOf s line).st ≠ .o a) → ∃ t, exec (.rdNc line (ncQuiet r)) s = .next t ∧ OnlyLine s t line ∧
      LineAnswered s t line r (.ncData []) (dirOf s line).st) ∧
  (∀ (s : State) (line : LineNo) (r : AgentId) (mask : Dword) (data : List Byte), Memory.wf s.mem = true → LineRests s line → LineSound s line →
    (let q : CohReq := { kind := .rdNc, r := r, mask := 0, data := [] }
     ∃ t, exec (.rdNc line (ncQuiet r)) s = .next t ∧ OnlyLine s t line ∧
      ((∀ a, (dirOf s line).st ≠ .o a) → LineAnswered s t line r (.ncData (lineData s line)) (dirOf s line).st) ∧
      (∀ a, (dirOf s line).st = .o a → LineProbed s t line q [(a, .downgrade)])) ∧
    (let q : CohReq := { kind := .wrNc, r := r, mask := BitVec.allOnes 64, data := fit data 64 }
     ∃ t, exec (.wrNc line (ncQuiet r) data) s = .next t ∧ (∀ l, l ≠ line → dirOf t l = dirOf s l) ∧
      ((dirOf s line).st = .u → LineAnswered s t line r .ncAck .u ∧ lineData t line = fit data 64 ∧
        (∀ a, a < lineAddr line ∨ lineAddr line + 64 ≤ a → mget t.mem a = mget s.mem a) ∧
        { t with coh := s.coh, mem := s.mem, ras := s.ras, tie := s.tie } = s) ∧
      (∀ v, v ≠ [] → (dirOf s line).st = .s v → LineProbed s t line q (v.map fun a => (a, .inv)) ∧ OnlyLine s t line) ∧
      (∀ a, (dirOf s line).st = .o a → LineProbed s t line q [(a, .inv)] ∧ OnlyLine s t line)) ∧
    (let q : CohReq := { kind := .wrNcPart, r := r, mask := mask, data := fit data 64 }
     ∃ t, exec (.wrNcPart line (ncQuiet r) mask data) s = .next t ∧ (∀ l, l ≠ line → dirOf t l = dirOf s l) ∧
      ((dirOf s line).st = .u → LineAnswered s t line r .ncAck .u ∧
        lineData t line = mergeMask mask (lineData s line) (fit data 64) ∧
        (∀ a, a < lineAddr line ∨ lineAddr line + 64 ≤ a → mget t.mem a = mget s.mem a) ∧
        { t with coh := s.coh, mem := s.mem, ras := s.ras, tie := s.tie } = s) ∧
      (∀ v, v ≠ [] → (dirOf s line).st = .s v → LineProbed s t line q (v.map fun a => (a, .inv)) ∧ OnlyLine s t line) ∧
      (∀ a, (dirOf s line).st = .o a → LineProbed s t line q [(a, .recall)] ∧ OnlyLine s t line)))

/-- INV, RECALL and DOWNGRADE at an agent that waits for no grant of the line (R138, R140, R141): it answers from its copy, which it drops or
keeps shared, with ACK_WB if its writeback of the line is under way, and with INV_ACK if it holds nothing; the way of a dropped line is free (R134).
WB and CLEAN_EVICT (R138, R141): a writeback of the owner moves the line to WBP with its data; a dropped line leaves the list of holders, and a line in M
is not dropped so.
WB_COMMIT writes the data to the line's bytes alone, answers WB_ACK and leaves the line without a holder. WB_ACK ends the writeback. -/
def Obligations.ProbesAndWritebacks : Prop :=
  (∀ (s : State) (line : LineNo) (o : AgentId) (st : LineState) (d : List Byte), PairQuiet s line o →
    ∀ (m : CohMsg) (row : Instr), (m, row) ∈ [(CohMsg.inv, Instr.inv line o), (.recall, .recall line o), (.downgrade, .downgrade line o)] →
    (let sent := send s line o m
     (agentLine s o line = none → ∃ t, exec row sent = .next t ∧ { t with coh := { t.coh with net := s.coh.net } } = s ∧
        t.coh.net = s.coh.net ++ [(line, o, if s.coh.wbOut.contains (line, o) then .ackWb else .invAck)]) ∧
     (agentLine s o line = some { st := st, data := d } → ∃ t, exec row sent = .next t ∧
        { t with coh := { t.coh with net := s.coh.net, caches := s.coh.caches }, clus := s.clus } = s ∧ OnlyWays s t ∧
        (m = .downgrade → t.clus = s.clus) ∧ (∀ a, a ≠ o → tget [] t.coh.caches a.val = tget [] s.coh.caches a.val) ∧
        tget [] t.coh.caches o.val = (let l := tget [] s.coh.caches o.val
          if m = .downgrade then tput l line { st := .s, data := d } else tdel l line) ∧
        t.coh.net = s.coh.net ++ [(line, o, if m = .inv then .invAck else if st = .m then .dataM d else .dataClean d)]))) ∧
  (∀ (s : State) (line : LineNo) (o : AgentId) (data : List Byte), Memory.wf s.mem = true →
    ((dirOf s line).st = .o o → (dirOf s line).wbData = none → (agentLine s o line).isSome = true → rspClear s line o = true →
      ∃ t, exec (.wb line o data) s = .next t ∧ OnlyLineWays s t line ∧ (dirOf t line).st = .wbp o ∧
        (dirOf t line).wbData = some (fit data 64) ∧ agentLine t o line = none ∧ t.coh.net = s.coh.net) ∧
    ((dirOf s line).st = .wbp o → (dirOf s line).wbData = some (fit data 64) → (dirOf s line).queue = [] →
      ∃ t, exec (.wbCommit line) s = .next t ∧ lineData t line = fit data 64 ∧
        (∀ a, a < lineAddr line ∨ lineAddr line + 64 ≤ a → mget t.mem a = mget s.mem a) ∧
        t.coh.net = s.coh.net ++ [(line, o, .wbAck)] ∧ (dirOf t line).st = .u ∧ (dirOf t line).wbData = none ∧
        t.coh.caches = s.coh.caches ∧ { t with coh := s.coh, mem := s.mem, ras := s.ras, tie := s.tie } = s) ∧
    (∀ x, agentLine s o line = some x → x.st = .m → exec (.cleanEvict line o) s = .next s) ∧
    (∀ x, (dirOf s line).queue = [] → agentLine s o line = some x → x.st ≠ .m → rspClear s line o = true →
      ∃ t, exec (.cleanEvict line o) s = .next t ∧ OnlyLineWays s t line ∧ agentLine t o line = none ∧ t.coh.net = s.coh.net ∧
        ((dirOf s line).st = .o o → (dirOf t line).st = .u) ∧
        (∀ v, (dirOf s line).st = .s v → v.filter (· != o) ≠ [] → (dirOf t line).st = .s (v.filter (· != o))) ∧
        (∀ v, (dirOf s line).st = .s v → v.filter (· != o) = [] → (dirOf t line).st = .u)) ∧
    ((findMsg s line o .gnt isWbAck).isSome = true →
      ∃ t, exec (.wbAck line o) s = .next t ∧ { t with coh := { t.coh with net := s.coh.net, wbOut := s.coh.wbOut } } = s ∧
        t.coh.wbOut = dropFirst (fun w => w == (line, o)) s.coh.wbOut))

/-- INV_ACK, ACK_WB, DATA_M and DATA_CLEAN at the home agent (R138, R139): an answer that is not the last only shortens the list awaited; the
last grants the request that waited: the line exclusive for RD_X, and shared with its former owner for RD_S after data came back, dirty data
being written first.
GNT_S, GNT_E, GNT_X and GNT_UPG at an agent that holds no probe of the line (R138, R140): the message is taken, the line is installed S, E,
M with the data sent, or becomes M with its own data; NC_DATA and NC_ACK end a non-caching request. Nothing else changes. -/
def Obligations.AnswersAndGrants : Prop :=
  (∀ (s : State) (line : LineNo) (o : AgentId) (x : CohTxn) (data : List Byte), Memory.wf s.mem = true →
    (dirOf s line).txn = some x → (dirOf s line).queue = [] → (dirOf s line).wbData = none → isSharedLine s line = false →
    PairQuiet s line o → x.req.r ≠ o → data.length = 64 →
    (∀ (m : CohMsg) (row : Instr), (m, row) ∈ [(CohMsg.invAck, Instr.invAck line o), (.ackWb, .ackWb line o),
        (.dataClean data, .dataClean line o data)] →
      let sent := send s line o m
      (o ∈ x.await → x.await.filter (· != o) ≠ [] → x.req.kind = .rdX →
        ∃ t, exec row sent = .next t ∧ OnlyLine s t line ∧ t.coh.net = s.coh.net ∧ (dirOf t line).st = (dirOf s line).st ∧
          (dirOf t line).txn = some { x with await := x.await.filter (· != o) }) ∧
      (x.await = [o] → x.req.kind = .rdX →
        ∃ t, exec row sent = .next t ∧ OnlyLine s t line ∧ LineAnswered s t line x.req.r (.gntX (lineData s line)) (.o x.req.r))) ∧
    (x.await = [o] → x.req.kind = .rdS → (dirOf s line).st = .o o →
      (∃ t, exec (.dataClean line o data) (send s line o (.dataClean data)) = .next t ∧ OnlyLine s t line ∧
        LineAnswered s t line x.req.r (.gntS (lineData s line)) (.s [o, x.req.r])) ∧
      (∃ t, exec (.dataM line o data) (send s line o (.dataM data)) = .next t ∧
        LineAnswered s t line x.req.r (.gntS data) (.s [o, x.req.r]) ∧ lineData t line = data ∧
        (∀ a, a < lineAddr line ∨ lineAddr line + 64 ≤ a → mget t.mem a = mget s.mem a)) ∧
      (∀ (m : CohMsg) (row : Instr), (m, row) ∈ [(CohMsg.invAck, Instr.invAck line o), (.ackWb, .ackWb line o)] →
        ∃ t, exec row (send s line o m) = .next t ∧ OnlyLine s t line ∧
          LineAnswered s t line x.req.r (.gntE (lineData s line)) (.o x.req.r)))) ∧
  (∀ (s : State) (line : LineNo) (o : AgentId) (data own : List Byte) (st : LineState), PairQuiet s line o → WayFree s o line →
    (∀ h ∈ s.coh.heldProbes, h.1 ≠ line) →
    (∀ (m : CohMsg) (row : Instr) (new : LineState), (m, row, new) ∈ [(CohMsg.gntS data, Instr.gntS line o data, LineState.s),
        (.gntE data, .gntE line o data, .e), (.gntX data, .gntX line o data, .m)] →
      ∃ t, exec row (send s line o m) = .next t ∧ agentLine t o line = some { st := new, data := data } ∧
        (∀ a l, (a, l) ≠ (o, line) → agentLine t a l = agentLine s a l) ∧
        t.coh.wanted = dropFirst (fun w => w.1 == line && w.2.1 == o && w.2.2.caching) s.coh.wanted ∧ OnlyWays s t ∧
        { t with coh := { t.coh with caches := s.coh.caches, wanted := s.coh.wanted }, clus := s.clus } = s) ∧
    (agentLine s o line = some { st := st, data := own } →
      ∃ t, exec (.gntUpg line o) (send s line o .gntUpg) = .next t ∧ agentLine t o line = some { st := .m, data := own } ∧
        (∀ a l, (a, l) ≠ (o, line) → agentLine t a l = agentLine s a l) ∧
        t.coh.wanted = dropFirst (fun w => w.1 == line && w.2.1 == o && w.2.2.caching) s.coh.wanted ∧
        { t with coh := { t.coh with caches := s.coh.caches, wanted := s.coh.wanted } } = s) ∧
    (∀ (m : CohMsg) (row : Instr) (k : CohKind → Bool), (m, row, k) ∈ [(CohMsg.ncData data, Instr.ncData line o data, fun k => k == .rdNc),
        (.ncAck, .ncAck line o, fun k => k == .wrNc || k == .wrNcPart)] →
      ∃ t, exec row (send s line o m) = .next t ∧ { t with coh := { t.coh with wanted := s.coh.wanted } } = s ∧
        t.coh.wanted = dropFirst (fun w => w.1 == line && w.2.1 == o && k w.2.2) s.coh.wanted))

/-- REMOTE_PUT and REMOTE_GET at the head of the remote queue (R248, R249): a command that breaks a check faults with its code; one whose
peer's module no HELLO has shown waits; otherwise it leaves the queue and enters the remote table under the next tag, and memory and every
other slot are as before. REMOTE_RESPONSE (R250): a response to no run under way, or that is ending, or with no entry of its tag, is dropped and counted; the
response of a PUT of a running rank takes the entry out of the table and posts the command's ticket. -/
def Obligations.RemoteOperations : Prop :=
  (∀ (s : State) (c : Clu) (i : SlotIx) (q : QCmd) (l : List QCmd) (j : Job) (put : Bool) (row : Instr),
    (put, row) ∈ [(true, Instr.remotePut c i), (false, .remoteGet c i)] →
    (slot s c.val i.val).remQ = q :: l → slotJob s c.val i.val = some j → running s c.val i.val = true →
    wOp q.word = (if put then 0x82 else 0x83) → waitMet (slot s c.val i.val) q.word = true →
    ((∀ code, remoteFault s c.val i.val j put q.word = some code →
       ∃ t, exec row s = .next t ∧ (slot t c.val i.val).faultCode = BitVec.ofNat 8 code ∧ t.mem = s.mem ∧ t.lnk = s.lnk) ∧
     (remoteFault s c.val i.val j put q.word = none →
       (put = true → viewPoison s c.val i.val [(rView q.word, rLen q.word)] = none) →
       (nodePos s (fld (peerEntry j (rPeer q.word)) 0 8) = none → exec row s = .next s) ∧
       (∀ pos, nodePos s (fld (peerEntry j (rPeer q.word)) 0 8) = some pos →
         ∃ t, exec row s = .next t ∧ OtherSlotsSame s t c.val i.val ∧ t.mem = s.mem ∧ t.hmem = s.hmem ∧ t.klv = s.klv ∧ t.sch = s.sch ∧
           slot t c.val i.val = { slot s c.val i.val with
             remQ := l, nextTag := (slot s c.val i.val).nextTag + 1
             remotes := (slot s c.val i.val).remotes ++ [{ tag := (slot s c.val i.val).nextTag, isPut := put, cmd := q, pos := pos
                                                           msn := (conn s pos j.part).nextMsn, landed := false }] })))) ∧
  (∀ (s : State) (x : RemoteResp),
    ((jobOf s x.job.toNat = none ∨ ∃ j, jobOf s x.job.toNat = some j ∧ (launched j = false ∨ j.ending ≠ none ∨ j.runEpoch ≠ x.runEpoch)) →
      ∃ t, exec (.remoteResponse x) s = .next t ∧ { t with sch := s.sch } = s ∧ t.sch.jobs = s.sch.jobs ∧
        (schPart t (bits x.job.toNat 15 12)).lateDrop = satInc (schPart s (bits x.job.toNat 15 12)).lateDrop) ∧
    (∀ (j : Job) (c : Nat) (e : Remote), jobOf s x.job.toNat = some j → j.st = .running → j.ending = none → j.runEpoch = x.runEpoch →
      j.clusters[x.rank]? = some c → j.slotIx < 4 → c < 32 →
      (slot s c j.slotIx).remotes.find? (fun e => e.tag == x.tag && !e.landed) = some e → e.isPut = true → wPostEn e.cmd.word = true →
      ∃ t, exec (.remoteResponse x) s = .next t ∧ { t with slots := s.slots } = s ∧ OtherSlotsSame s t c j.slotIx ∧
        (slot t c j.slotIx).remotes = dropFirst (fun y => y.tag == x.tag) (slot s c j.slotIx).remotes ∧
        (slot t c j.slotIx).tkt = (finishedSlot (budgetOf s c) (slot s c j.slotIx) e.cmd.word).tkt))

/-- The JOB opcodes but LOAD on a job of the request's partition (R242, R246, R255): RUN queues a loaded or ended job under a new run epoch with
its record cleared, and stays executing; SUSPEND with room saves a running job's contexts; RESUME makes a saved job eligible; KILL ends a
launched job with KILLED and has no effect on one already ending, or whose ranks have all reached END; STATUS returns the state and the run record; UNLOAD removes the job. An
unknown job gives NOT_FOUND, and a job in the wrong state JOB_STATE with its state.
LOAD (R236-R238, R255): the image is checked first, then the fit, then the addresses, each failure with its offset; an image that passes,
with a free index, is stored at its base with its addresses relocated, and the job is LOADED under the handle returned. -/
def Obligations.JobTable : Prop :=
  (∀ (s : State) (r : ReqId) (x : Exec), Outlet s r x →
    (let h := prm x 0x20 4
     (jobOf s h = none → ∀ (op : Nat) (row : Instr),
       (op, row) ∈ [(2, Instr.jobRun r), (3, .suspend r), (4, .resume r), (5, .kill r), (6, .jobStatus r), (7, .unload r)] →
       AtTurn s r x 3 op → ∃ t, exec row s = .next t ∧ OnlyMailboxAndHost s t r.mb.val ∧ Completes s t r x false (ansErr 0x0004)) ∧
     (∀ j, jobOf s h = some j → j.part = reqPart r → h ≠ 0 →
       (AtTurn s r x 3 2 → j.run ≠ some r →
         (j.st = .loaded ∨ j.st = .ended → ∃ t j', exec (.jobRun r) s = .next t ∧ jobOf t h = some j' ∧ j'.st = .queued ∧ j'.run = some r ∧
           j'.runEpoch = j.runEpoch + 1 ∧ j'.ending = none ∧ j'.fault = none ∧ j'.path = 0 ∧ j'.fallbacks = 0 ∧
           j'.forceStrict = bitAt (prm x 0x24 4) 0 ∧ (jSeedGiven j = true → j'.seed = BitVec.ofNat 64 (fld j.header 8 8)) ∧
           (findExec t r).isSome = true ∧ (mbox t r.mb.val).waiting = (mbox s r.mb.val).waiting ∧ t.slots = s.slots ∧ t.mem = s.mem) ∧
         (j.st ≠ .loaded → j.st ≠ .ended → ∃ t, exec (.jobRun r) s = .next t ∧ OnlyMailboxAndHost s t r.mb.val ∧
           Completes s t r x false (ansErr 0x0103 (jobStateCode j.st)))) ∧
       (AtTurn s r x 3 3 → j.st = .running → j.ending = none → savedRoom s j.part (jWidth j) = true →
         ∃ t j', exec (.suspend r) s = .next t ∧ Completes s t r x true (ansOk 0) ∧ jobOf t h = some j' ∧ j'.st = .saving ∧
           j'.clusters = j.clusters ∧ (∀ c ∈ j.clusters, (slot t c j.slotIx).st = .saving) ∧ t.mem = s.mem) ∧
       (AtTurn s r x 3 4 → j.st = .saved → ∃ t j', exec (.resume r) s = .next t ∧ Completes s t r x true (ansOk 0) ∧
         jobOf t h = some j' ∧ j'.st = .saved ∧ j'.eligible = true ∧ t.slots = s.slots ∧ t.mem = s.mem) ∧
       (AtTurn s r x 3 5 → j.st ≠ .loaded → j.st ≠ .ended →
         (j.ending = none → allEnded s j = false → ∃ t j', exec (.kill r) s = .next t ∧ Completes s t r x true (ansOk 0) ∧ jobOf t h = some j' ∧
           j'.ending = some { status := 0x0105, detail := 0 } ∧
           (∀ c ∈ j.clusters, (slot s c j.slotIx).job.toNat = jobHandle j → (slot t c j.slotIx).st = .teardown) ∧ t.mem = s.mem) ∧
         (j.ending ≠ none ∨ allEnded s j = true → ∃ t, exec (.kill r) s = .next t ∧ OnlyMailboxAndHost s t r.mb.val ∧ Completes s t r x false (ansOk 1))) ∧
       (AtTurn s r x 3 6 → ∃ t, exec (.jobStatus r) s = .next t ∧ OnlyMailboxAndHost s t r.mb.val ∧
         Completes s t r x false (ansOk (jobStateCode j.st) (runRecord s j))) ∧
       (AtTurn s r x 3 7 → j.st = .loaded ∨ j.st = .ended → ∃ t, exec (.unload r) s = .next t ∧ Completes s t r x true (ansOk 0) ∧
         t.sch.jobs = tdel s.sch.jobs (jobKey h) ∧ t.slots = s.slots ∧ t.mem = s.mem)))) ∧
  (∀ (s : State) (r : ReqId) (x : Exec), Outlet s r x → AtTurn s r x 3 1 → ∀ (i : Nat),
    ((List.range 256).find? fun i => (tfind? s.sch.jobs (reqPart r * 256 + i)).isNone) = some i →
    (let m := inPayload s x
     let g := tget 0 (schPart s (reqPart r)).gens i
     let j := jobFrom m (reqPart r) i (if g = 0xFFFF#16 then 1 else g + 1) (prm x 0x20 8) (prm x 0x28 8)
     (∀ d, badImage m = some d → ∃ t, exec (.load r) s = .next t ∧ OnlyMailboxAndHost s t r.mb.val ∧
       Completes s t r x false (ansErr 0x0100 d)) ∧
     (badImage m = none → ∀ d, badFit s j = some d → ∃ t, exec (.load r) s = .next t ∧ OnlyMailboxAndHost s t r.mb.val ∧
       Completes s t r x false (ansErr 0x0101 d)) ∧
     (badImage m = none → badFit s j = none → ∀ d, badAddress s j = some d → ∃ t, exec (.load r) s = .next t ∧
       OnlyMailboxAndHost s t r.mb.val ∧ Completes s t r x false (ansErr 0x0102 d)) ∧
     (badImage m = none → badFit s j = none → badAddress s j = none →
       ∃ t, exec (.load r) s = .next t ∧ Completes s t r x true (ansOk (jobHandle j)) ∧ jobOf t (jobHandle j) = some j ∧ j.st = .loaded ∧
         t.mem = (ncWrite s j.imageBase (relocated m j.imageBase)).mem ∧ t.slots = s.slots ∧
         (∀ k, k ≠ reqPart r * 256 + i → tfind? t.sch.jobs k = tfind? s.sch.jobs k))))

/-- JOB_PLACE, JOB_EVICT, JOB_RESTORE and JOB_TEARDOWN (R239-R247, R254, R255): a waiting job that fits, and that no other goes before, runs in
the slots of its placement; one that does not fit waits, unchanged; a job being saved, or called on to make room, leaves its slots EMPTY and
is SAVED with its contexts once no array command of it executes, and till then its slots are SAVING; a job that is ending waits so too, then leaves its slots and its RUN completes with its run record. -/
def Obligations.JobScheduling : Prop :=
  ∀ (s : State) (h : Word) (j : Job), jobOf s h.toNat = some j →
    (j.ending = none → goesAfter s (jobKey h.toNat) j = false →
      (placement s j = none → (j.st = .queued → exec (.jobPlace h) s = .next s) ∧
        (j.st = .saved → j.eligible = true → exec (.jobRestore h) s = .next s)) ∧
      (∀ i cs, placement s j = some (i, cs) →
        (let runs (t : State) : Prop := ∃ j', jobOf t h.toNat = some j' ∧ j'.st = .running ∧ j'.slotIx = i ∧ j'.clusters = cs ∧
           j'.runEpoch = j.runEpoch ∧ (∀ c ∈ cs, (slot t c i).st = .running ∧ (slot t c i).job = BitVec.ofNat 32 (jobHandle j) ∧
             (slot t c i).epoch = j.runEpoch) ∧ t.klv = s.klv ∧ t.hmem = s.hmem
         (j.st = .queued → ∃ t, exec (.jobPlace h) s = .next t ∧ runs t) ∧
         (j.st = .saved → j.eligible = true → ∃ t, exec (.jobRestore h) s = .next t ∧ runs t)))) ∧
    (j.ending = none → ∀ byScheduler : Bool,
      (if byScheduler then j.st = .running ∧ evictionCalled s (jobKey h.toNat) = true else j.st = .saving) →
      (arraysDone s j = false → byScheduler = true → ∃ t j', exec (.jobEvict h) s = .next t ∧ jobOf t h.toNat = some j' ∧ j'.st = .saving ∧
        j'.eligible = true ∧ j'.clusters = j.clusters ∧ (∀ c ∈ j.clusters, (slot t c j.slotIx).st = .saving) ∧ t.mem = s.mem) ∧
      (arraysDone s j = false → byScheduler = false → exec (.jobEvict h) s = .next s) ∧
      (arraysDone s j = true → ∃ t j', exec (.jobEvict h) s = .next t ∧ jobOf t h.toNat = some j' ∧ j'.st = .saved ∧ j'.eligible = (byScheduler || j.eligible) ∧ j'.clusters = [] ∧
        j'.saved = (withIx 0 j.clusters).map (fun x => (x.1, if byScheduler then { slot s x.2 j.slotIx with st := .saving } else slot s x.2 j.slotIx)) ∧
        (∀ c ∈ j.clusters, (slot t c j.slotIx).st = .empty) ∧
        (schPart t j.part).evictions = satInc (schPart s j.part).evictions ∧ t.klv = s.klv ∧ t.hmem = s.hmem)) ∧
    (j.ending = none → j.st = .running → evictionCalled s (jobKey h.toNat) = false → exec (.jobEvict h) s = .next s) ∧
    (j.ending ≠ none → arraysDone s j = false → exec (.jobTeardown h) s = .next s) ∧
    (∀ e, j.ending = some e → j.suspends = [] → arraysDone s j = true →
      ∃ t j', exec (.jobTeardown h) s = .next t ∧ jobOf t h.toNat = some j' ∧ j'.st = .ended ∧ j'.run = none ∧ j'.ending = none ∧
        j'.clusters = [] ∧ j'.saved = [] ∧ j'.runEpoch = (if e.status = 0 then j.runEpoch else j.runEpoch + 1) ∧
        (∀ c ∈ j.clusters, (slot t c j.slotIx).st = .empty) ∧
        (∀ r x, j.run = some r → findExec s r = some x → Outlet s r x →
          Completes s t r x false { status := e.status, detail := e.detail, result := bnat ((jobTotals s j).path != 0), out := runRecord s j }))

/-- TIER_CREATE (R259-R263, R283): parameters that break the object's rules, or the extent's, complete with their offset; a VOLATILE object is
created MAPPED and reading zero; an object in flash is created with its chunk table written. The object is found under the handle returned,
and no other object changes.
TIER_DELETE, SHARE, UNSHARE, TIER_INFO and POOL (R259, R270, R282, R283): an unknown object gives NOT_FOUND; a shared or referenced object
is not deleted, a clean one is; SHARE and UNSHARE set and clear partitions of the mask, SHARE only of an unsealed read-only MAPPED object;
TIER_INFO describes the object in 64 bytes; POOL moves an empty pool and refuses one in use. -/
def Obligations.TierObjects : Prop :=
  (∀ (s : State) (r : ReqId) (x : Exec) (i : Nat), Memory.wf s.mem = true → Outlet s r x → AtTurn s r x 4 1 →
    (let p := reqPart r
     let b := begunExec s r
     let fl := prm x 0x24 1
     let key := p * 65536 + i
     let g := tget 0 s.tie.gens key
     let o : Obj :=
       { gen := if g = 4095 then 1 else g + 1, oflags := BitVec.ofNat 8 fl, tileLog2 := prm x 0x25 1, tiles := prm x 0x28 4
         nsid := BitVec.ofNat 32 (prm x 0x20 4), slba := prm x 0x30 8, daddr := prm x 0x38 8, shareMask := 0
         t1 := [], root := [], mdirty := [], promotes := [] }
     (∀ d, badObject fl (prm x 0x25 1) (prm x 0x28 4) = some d →
       ∃ t, exec (.tierCreate r) s = .next t ∧ OnlyMailboxAndHost s t r.mb.val ∧ Completes s t r x false (ansErr 0x0100 d)) ∧
     (badObject fl (prm x 0x25 1) (prm x 0x28 4) = none → freeObj s p = some i →
       (∀ d, badExtent b p o = some d →
         ∃ t, exec (.tierCreate r) s = .next t ∧ OnlyMailboxAndHost s t r.mb.val ∧ Completes s t r x false (ansErr 0x0101 d)) ∧
       (badExtent b p o = none → poolUsed b p + tableGranules o ≤ poolCap b p →
         (oVolatile o = true → ∃ t, exec (.tierCreate r) s = .next t ∧ Completes s t r x true (ansOk (objHandle key o)) ∧
           objOf t (objHandle key o) = some o ∧ (∀ k, k ≠ key → tfind? t.tie.objs k = tfind? s.tie.objs k) ∧ t.ftl = s.ftl ∧
           (∀ a, o.daddr ≤ a → a < o.daddr + objChunks o * 65536 → mget t.mem a = 0) ∧
           (∀ a, a < o.daddr ∨ o.daddr + objChunks o * 65536 ≤ a → mget t.mem a = mget s.mem a)) ∧
         (oMapped o = false → ∀ s2, writeTable b o = some s2 →
           ∃ t, exec (.tierCreate r) s = .next t ∧ Completes s t r x true (ansOk (objHandle key o)) ∧
             objOf t (objHandle key o) = some o ∧ (∀ k, k ≠ key → tfind? t.tie.objs k = tfind? s.tie.objs k) ∧
             t.mem = s.mem ∧ t.ftl.nss = s2.ftl.nss))))) ∧
  (∀ (s : State) (r : ReqId) (x : Exec), Outlet s r x → NothingEarlier s r x →
    (objOf s (prm x 0x20 4) = none → ∀ (op : Nat) (row : Instr), (op, row) ∈ [(2, Instr.tierDelete r), (3, .promote r), (4, .evict r),
        (5, .tierFlush r), (6, .share r), (7, .unshare r), (9, .tierInfo r)] →
      AtTurn s r x 4 op → ∃ t, exec row s = .next t ∧ OnlyMailboxAndHost s t r.mb.val ∧ Completes s t r x false (ansErr 0x0004)) ∧
    (∀ o, objOf s (prm x 0x20 4) = some o → oPart (objKey (prm x 0x20 4)) = reqPart r →
      (let h := prm x 0x20 4
       let m : Half := BitVec.ofNat 16 (prm x 0x24 2)
       (AtTurn s r x 4 2 →
         (o.shareMask ≠ 0 ∨ referenced o = true → ∃ t, exec (.tierDelete r) s = .next t ∧ OnlyMailboxAndHost s t r.mb.val ∧
           Completes s t r x false (ansErr 0x0102)) ∧
         (o.shareMask = 0 → referenced o = false → oVolatile o = true ∨ dirtyChunks o = [] →
           ∃ t, exec (.tierDelete r) s = .next t ∧ Completes s t r x true (ansOk 0) ∧ t.tie.objs = tdel s.tie.objs (objKey h) ∧ t.mem = s.mem)) ∧
       (AtTurn s r x 4 6 →
         (if isSealed s (reqPart r) = true ∨ (List.range 16).any (fun q => m.getLsbD q && isSealed s q) = true ∨ oReadOnly o = false ∨
             oMapped o = false
          then ∃ t, exec (.share r) s = .next t ∧ OnlyMailboxAndHost s t r.mb.val ∧ Completes s t r x false (ansErr 0x0105)
          else ∃ t, exec (.share r) s = .next t ∧ Completes s t r x true (ansOk 0) ∧
            objOf t h = some { o with shareMask := o.shareMask ||| m } ∧ t.mem = s.mem)) ∧
       (AtTurn s r x 4 7 → ∃ t, exec (.unshare r) s = .next t ∧ Completes s t r x true (ansOk 0) ∧
         objOf t h = some { o with shareMask := o.shareMask &&& ~~~ m } ∧ t.mem = s.mem) ∧
       (AtTurn s r x 4 9 → ∃ t d, exec (.tierInfo r) s = .next t ∧ OnlyMailboxAndHost s t r.mb.val ∧ Completes s t r x false (ansOk 64 d) ∧
         d.length = 64 ∧ fld d 0 4 = h ∧ fld d 4 1 = o.oflags.toNat ∧ fld d 6 2 = o.shareMask.toNat ∧ fld d 0xC 4 = o.nsid.toNat))) ∧
    (AtTurn s r x 4 0x0A →
      (let p := reqPart r
       let base := prm x 0x20 8
       let len := prm x 0x28 4
       let pin : Word := BitVec.ofNat 32 (prm x 0x2C 4)
       let clear := len = 0 ∨ (slicesOwned s p base (len * 65536) = true ∧ hitsAny base (len * 65536) (mappedRanges s ++ jobRanges s p) = false)
       (poolBusy s p = true → ∃ t, exec (.pool r) s = .next t ∧ OnlyMailboxAndHost s t r.mb.val ∧ Completes s t r x false (ansErr 0x0106)) ∧
       (poolBusy s p = false → ¬clear → ∃ t, exec (.pool r) s = .next t ∧ OnlyMailboxAndHost s t r.mb.val ∧
         Completes s t r x false (ansErr 0x0104 0x20)) ∧
       (poolBusy s p = false → clear → pin &&& ~~~ (prec s p).rootSegs = 0 → ∃ t, exec (.pool r) s = .next t ∧
         Completes s t r x true (ansOk 0) ∧ tiePart t p = { tiePart s p with poolBase := base, poolLen := len, rootPin := pin } ∧
         t.tie.objs = s.tie.objs ∧ t.mem = s.mem))))

/-- PROMOTE, EVICT and FLUSH on an object of the partition (R276, R277, R280, R281): PROMOTE of a tile already held, as those of MAPPED objects
always are, takes the holder's reference and completes, of an absent tile with room it starts a copy and waits; EVICT drops the holder's reference, and frees a clean copy
that nobody references any more; FLUSH writes every dirty chunk and answers their number.
TILE_COPY_DONE and DIRTY_WRITEBACK_TIMER (R277, R279, R281): a copy read without loss is complete and holds the tile's chunks, and a
PROMOTE that waited for it alone completes; a copy that cannot be read is gone, and its PROMOTE completes with MEDIA_ERROR. A chunk that has
been dirty for 10 s, or longer, is clean once it is written. -/
def Obligations.TileReferences : Prop :=
  (∀ (s : State) (r : ReqId) (x : Exec) (o : Obj), Outlet s r x → NothingEarlier s r x → objOf s (prm x 0x20 4) = some o →
    oPart (objKey (prm x 0x20 4)) = reqPart r → o.promotes = [] →
    (let h := prm x 0x20 4
     let tile := prm x 0x24 4
     let root := prm x 0x2C 4 == 1
     let holder := prm x 0x30 4
     let k := copyIx (reqPart r) root tile
     (AtTurn s r x 4 3 → o.tiles < tile + prm x 0x28 4 → ∃ t, exec (.promote r) s = .next t ∧ OnlyMailboxAndHost s t r.mb.val ∧
       Completes s t r x false (ansErr 0x0018 (if o.tiles ≤ tile then 0x24 else 0x28))) ∧
     (AtTurn s r x 4 3 → tile < o.tiles → prm x 0x28 4 = 1 → alwaysHeld o root = false →
       (∀ c, copyOf o root k = some c → c.complete = true → ∃ t o', exec (.promote r) s = .next t ∧ Completes s t r x true (ansOk 1) ∧
         objOf t h = some o' ∧ copyOf o' root k = some (addRef holder c)) ∧
       (copyOf o root k = none →
         (if root then rootUsed s (reqPart r) else poolUsed s (reqPart r)) + copyNeed s o root tile ≤
           (if root then rootCap s (reqPart r) else poolCap s (reqPart r)) →
         ∃ t o', exec (.promote r) s = .next t ∧ objOf t h = some o' ∧
           copyOf o' root k = some (copyStarted holder (copyNeed s o root tile)) ∧
           (findExec t r).isSome = true ∧ (mbox t r.mb.val).waiting = (mbox s r.mb.val).waiting ∧ t.mem = s.mem)) ∧
     (AtTurn s r x 4 3 → tile < o.tiles → prm x 0x28 4 = 1 → alwaysHeld o root = true → (∀ c, copyOf o root k = some c → c.complete = true) →
       ∃ t o' c', exec (.promote r) s = .next t ∧ Completes s t r x true (ansOk 1) ∧ objOf t h = some o' ∧ copyOf o' root k = some c' ∧
         holder ∈ c'.refs ∧ t.mem = s.mem) ∧
     (AtTurn s r x 4 4 → tile < o.tiles → prm x 0x28 4 = 1 → ∀ c, copyOf o root k = some c → c.complete = true → c.dirty = [] →
       c.chunks ≠ [] →
       ∃ t o', exec (.evict r) s = .next t ∧ objOf t h = some o' ∧
         (if c.refs.filter (· != holder) = [] then Completes s t r x true (ansOk 1) ∧ copyOf o' root k = none
          else Completes s t r x true (ansOk 0) ∧ copyOf o' root k = some { c with refs := c.refs.filter (· != holder) })) ∧
     (AtTurn s r x 4 5 → oVolatile o = true → ∃ t, exec (.tierFlush r) s = .next t ∧ OnlyMailboxAndHost s t r.mb.val ∧
       Completes s t r x false (ansOk 0)) ∧
     (AtTurn s r x 4 5 → oVolatile o = false → (oMapped o = true → ∀ c ∈ dirtyChunks o, poisoned s (o.daddr + c * 65536) 65536 = false) →
       ∀ s2, writeBacks (objKey h) (dirtyChunks o) (begunExec s r) = some s2 →
       ∃ t, exec (.tierFlush r) s = .next t ∧ Completes s t r x true (ansOk (dirtyChunks o).length) ∧ t.tie = s2.tie ∧ t.ftl = s2.ftl ∧
         t.mem = s.mem))) ∧
  ((∀ (s : State) (obj : Word) (o : Obj) (tile : Nat) (root : Bool) (c : TileCopy) (q : Promote) (x : Exec), objOf s obj.toNat = some o →
    copyOf o root tile = some c → c.complete = false → o.promotes = [q] → q.root = root → q.waiting = [tile] →
    findExec s q.req = some x → Outlet s q.req x → oMapped o = false →
    (let tl := tile % 2 ^ 32
    (root = true → ∀ y bs, heldCopy o false tl = some y → t1Tile o tl y = some bs →
      ∀ ecc, ∃ t o' c', exec (.tileCopyDone obj tile root ecc) s = .next t ∧ objOf t obj.toNat = some o' ∧ copyOf o' root tile = some c' ∧
        c'.complete = true ∧ c'.refs = c.refs ∧ o'.promotes = [] ∧
        c'.chunks = (tileChunkIxs o tl).map (fun k => (k, slice bs ((k - tl * tileChunks o) * 65536) 65536)) ∧
        Completes s t q.req x true (ansOk q.count) ∧ t.mem = s.mem) ∧
    (root = false → ∀ s1 l bits, noteRead s o.nsid.toNat (slotLba o (tl * tileChunks o) / 4) (.hard bits) = (s, true) →
      flashChunks s o (tileChunkIxs o tl) = some (s1, l) →
      ∃ t o' c', exec (.tileCopyDone obj tile root (.hard bits)) s = .next t ∧ objOf t obj.toNat = some o' ∧ copyOf o' root tile = some c' ∧
        c'.complete = true ∧ c'.refs = c.refs ∧ o'.promotes = [] ∧ c'.chunks = copyChunks o root l s1 ∧
        Completes s t q.req x true (ansOk q.count) ∧ t.mem = s.mem) ∧
    (root = false → (∀ n ∈ c.refs, jobOf s n = none) →
      ∃ t o', exec (.tileCopyDone obj tile root .uncorrectable) s = .next t ∧ objOf t obj.toNat = some o' ∧ copyOf o' root tile = none ∧
        o'.promotes = [] ∧ Posts s t q.req x false (ansErr 0x000A (nextSeqLow s)) ∧ t.mem = s.mem))) ∧
  (∀ (s : State) (obj : Word) (o : Obj) (chunk : Nat), objOf s obj.toNat = some o →
    (dirtySince o chunk = none → exec (.dirtyWritebackTimer obj chunk) s = .next s) ∧
    (∀ t0, dirtySince o chunk = some t0 → oVolatile o = false → t0 + 10000000000 < 2 ^ 64 →
      (writeBack (reach s (t0 + 10000000000)) (objKey obj.toNat) chunk).isSome = true →
      ∃ t o', exec (.dirtyWritebackTimer obj chunk) s = .next t ∧ t0 + 10000000000 ≤ now t ∧ objOf t obj.toNat = some o' ∧
        dirtySince o' chunk = none ∧ t.mem = s.mem ∧ t.klv = s.klv)))

/-- SCHEDULE, STORE, STAGE, WRITEBACK and RELEASE (R271-R276): a well-formed schedule of a loaded job is attached, and a malformed one names its
first bad entry; the next STORE whose tile lies in the root tile cache writes its bytes over the entry's view; STAGE takes the job's reference
on a held copy, and starts the copy of a tile not held, finished when that is complete; WRITEBACK makes the T1 copy of its tile the view's content; RELEASE drops the job's references. Each finishes its entry. -/
def Obligations.Schedules : Prop :=
  (∀ (s : State) (r : ReqId) (x : Exec) (j : Job), Outlet s r x → AtTurn s r x 4 8 → jobOf s (prm x 0x20 4) = some j → j.part = reqPart r →
    prm x 0x20 4 ≠ 0 →
    (let bs := inPayload s x
     let es := schedEntries (fld bs 8 4) (bs.drop 64)
     (j.st ≠ .loaded → j.st ≠ .ended → ∃ t, exec (.schedule r) s = .next t ∧ OnlyMailboxAndHost s t r.mb.val ∧
       Completes s t r x false (ansErr 0x0106)) ∧
     (j.st = .loaded ∨ j.st = .ended →
       (goodHeader bs = false → ∃ t, exec (.schedule r) s = .next t ∧ OnlyMailboxAndHost s t r.mb.val ∧
         Completes s t r x false (ansErr 0x0103 0xFFFF)) ∧
       (goodHeader bs = true → ∀ i, findIx (badEntry s j) es = some i → ∃ t, exec (.schedule r) s = .next t ∧
         OnlyMailboxAndHost s t r.mb.val ∧ Completes s t r x false (ansErr 0x0103 (i % 65536))) ∧
       (goodHeader bs = true → findIx (badEntry s j) es = none → ∃ t, exec (.schedule r) s = .next t ∧
         Completes s t r x true (ansOk es.length) ∧ t.sch = s.sch ∧ t.mem = s.mem ∧
         tfind? t.tie.scheds (jobKey (prm x 0x20 4)) = some { entries := es, repeatN := fld bs 0xC 4, lookahead := fld bs 0x10 8
                                                              pass := 0, doneIx := [], begun := [], failed := [] })))) ∧
  (∀ (s : State) (h : Word) (j : Job) (x : Schedule) (i : Nat) (e : List Byte) (o : Obj), reachObj s j.part (sObj e) = some o →
    (∀ c ps y ecc, NextEntry s h 0 j x i e → rankCluster j (sRank e) = some c → entryView s j c e (tileChunks o * 65536) = .ok ps →
      heldCopy o true (copyIx j.part true (sTile e)) = some y →
      ∃ t, exec (.store h ecc) s = .next t ∧ EntryFinished t h x i ∧ t.mem = writePieces s.mem ps (rootTile o (sTile e) y) ∧
        (∀ k, postOf e = some k → tget 0 (slot t c j.slotIx).tkt k = tget 0 (slot s c j.slotIx).tkt k + 1) ∧ t.klv = s.klv) ∧
    (∀ c, NextEntry s h 1 j x i e → copyOf o (sRoot e) (copyIx j.part (sRoot e) (sTile e)) = some c → c.complete = true →
      ∃ t o', exec (.stage h) s = .next t ∧ EntryFinished t h x i ∧ objOf t (sObj e) = some o' ∧
        copyOf o' (sRoot e) (copyIx j.part (sRoot e) (sTile e)) = some (addRef (jobHandle j) c) ∧ { t with tie := s.tie } = s) ∧
    (NextEntry s h 1 j x i e → alwaysHeld o (sRoot e) = false → copyOf o (sRoot e) (copyIx j.part (sRoot e) (sTile e)) = none →
      x.begun.contains i = false → tileSrc j.part o (sTile e) ≠ .flash ∨ mayRead s x i e = true →
      (if sRoot e then rootUsed s j.part else poolUsed s j.part) + copyNeed s o (sRoot e) (sTile e) ≤
        (if sRoot e then rootCap s j.part else poolCap s j.part) →
      ∃ t o', exec (.stage h) s = .next t ∧ objOf t (sObj e) = some o' ∧
        copyOf o' (sRoot e) (copyIx j.part (sRoot e) (sTile e)) = some (copyStarted (jobHandle j) (copyNeed s o (sRoot e) (sTile e))) ∧
        tfind? t.tie.scheds (jobKey h.toNat) = some { x with begun := x.begun ++ [i] } ∧ { t with tie := s.tie } = s) ∧
    (∀ c ps old, NextEntry s h 2 j x i e → rankCluster j (sRank e) = some c → entryView s j c e (tileChunks o * 65536) = .ok ps →
      copyOf o false (sTile e) = some old → old.complete = true →
      copyOf o true (copyIx (oPart (objKey (sObj e))) true (sTile e)) = none → (∀ y ∈ ps, poisoned s y.1 y.2 = false) →
      (let new := mergeTile o old (now s) (tileChunkIxs o (sTile e)) (readPieces s.mem ps)
       copyGranules new ≤ copyGranules old → poolUsed s (oPart (objKey (sObj e))) ≤ poolCap s (oPart (objKey (sObj e))) →
       ∃ t o' c', exec (.writeback h) s = .next t ∧ EntryFinished t h x i ∧ objOf t (sObj e) = some o' ∧
         copyOf o' false (sTile e) = some c' ∧ c'.chunks = new.chunks ∧ c'.dirty = new.dirty ∧ c'.complete = true ∧ t.mem = s.mem ∧
         t.ftl = s.ftl)) ∧
    (NextEntry s h 3 j x i e →
      ∃ t o', exec (.release h) s = .next t ∧ EntryFinished t h x i ∧ objOf t (sObj e) = some o' ∧
        (∀ root c', copyOf o' root (copyIx j.part root (sTile e)) = some c' → jobHandle j ∉ c'.refs) ∧ { t with tie := s.tie } = s))

/-- ADD_SOURCE, REMOVE_SOURCE, COMMIT, SOURCE_INFO and TARGET (R289-R292, R313, R319): ADD_SOURCE refuses an extent or a file the rules refuse,
and registers any other, its index written; REMOVE_SOURCE records the removal; COMMIT numbers a new generation of the sources registered at its
acceptance and not removed before it, and forgets the removed ones; SOURCE_INFO describes a source; TARGET refuses one in use or out of range, and otherwise records it and returns the values chosen for it. -/
def Obligations.IngestSources : Prop :=
  ∀ (s : State) (r : ReqId) (x : Exec), Outlet s r x → NothingEarlier s r x →
    (let p := reqPart r
     let a := ingPart s p
     (AtTurn s r x 5 1 →
       (let ns := prm x 0x20 4
        let slba := prm x 0x28 8
        let bytes := prm x 0x30 8
        let ix := prm x 0x38 8
        let b := cancelAddSource (begunExec s r) r
        let file := (ftlRead b ns slba (ceilDiv bytes 4096)).take bytes
        let refused (a : Ans) : Prop := ∃ t, exec (.addSource r) s = .next t ∧ OnlyMailboxAndHost (cancelAddSource s r) t r.mb.val ∧
          Completes s t r x false a
        (∀ d, badSourceExtent b p ns slba bytes ix = some d → refused (ansErr 0x0102 d)) ∧
        (badSourceExtent b p ns slba bytes ix = none →
          (∀ st d, parseSource (prm x 0x24 1) (prm x 0x26 2) file = .error (st, d) → refused (ansErr st d)) ∧
          (∀ i, parseSource (prm x 0x24 1) (prm x 0x26 2) file = .ok i →
            (let l := indexEntries (prm x 0x24 1) file i.prog.pictures
             (indexBlocks bytes * 256 < l.length → refused (ansErr 0x0103)) ∧
             (l.length ≤ indexBlocks bytes * 256 → ∀ s2, ftlWrite b ns ix (fit l.flatten (indexBlocks bytes * 4096)) = some s2 →
               ∃ t y, exec (.addSource r) s = .next t ∧ Completes s t r x true (ansOk y.id) ∧ (ingPart t p).sources = a.sources ++ [y] ∧
                 y.nsid = ns ∧ y.slba = slba ∧ y.bytes = bytes ∧ y.indexSlba = ix ∧ y.info = i ∧ y.removed = none ∧
                 (ingPart t p).lastGen = a.lastGen ∧ (ingPart t p).run = a.run ∧ t.mem = s.mem)))))) ∧
     (AtTurn s r x 5 2 →
       (sourceOf s p (prm x 0x20 4) = none → ∃ t, exec (.removeSource r) s = .next t ∧ OnlyMailboxAndHost s t r.mb.val ∧
         Completes s t r x false (ansErr 0x0004)) ∧
       (∀ y, sourceOf s p (prm x 0x20 4) = some y → ∃ t, exec (.removeSource r) s = .next t ∧ Completes s t r x true (ansOk 0) ∧
         { t with klv := s.klv, ing := s.ing, hmem := s.hmem, bus := s.bus, free := s.free } = s ∧
         (ingPart t p).sources = a.sources.map (fun z =>
           if z.id == prm x 0x20 4 then { z with removed := some (min x.order (z.removed.getD x.order)) } else z))) ∧
     (AtTurn s r x 5 3 →
       (let live := commitSources a.sources x.order
        let g : Generation := { num := a.lastGen + 1, clipFrames := prm x 0x20 4, stride := prm x 0x24 4
                                excludeBreaks := bitAt (prm x 0x28 1) 0, sources := live }
        (2 ^ 48 < clipCount g → ∃ t, exec (.ingestCommit r) s = .next t ∧ OnlyMailboxAndHost s t r.mb.val ∧
          Completes s t r x false (ansErr 0x0005)) ∧
        (clipCount g ≤ 2 ^ 48 → ∃ t, exec (.ingestCommit r) s = .next t ∧
          Completes s t r x true (ansOk g.num (leBytes 4 g.num ++ zeros 4 ++ leBytes 8 (clipCount g))) ∧
          (ingPart t p).sources = a.sources.filter (fun y => !removedBy x.order y) ∧ (ingPart t p).lastGen = g.num ∧ g ∈ (ingPart t p).gens ∧ (ingPart t p).run = a.run ∧ t.mem = s.mem))) ∧
     (AtTurn s r x 5 4 → ∃ t, exec (.sourceInfo r) s = .next t ∧ OnlyMailboxAndHost s t r.mb.val ∧
       Completes s t r x false (match sourceOf s p (prm x 0x20 4) with
         | none => ansErr 0x0004
         | some y => ansOk 64 (sourceRecord y))) ∧
     (AtTurn s r x 5 5 →
       (let k := prm x 0x20 4
        let d := inPayload s x
        (targetInUse s p k = true → ∃ t, exec (.target r) s = .next t ∧ OnlyMailboxAndHost s t r.mb.val ∧
          Completes s t r x false (ansErr 0x0107)) ∧
        (targetInUse s p k = false → ∀ o, badTarget s p d = some o → ∃ t, exec (.target r) s = .next t ∧ OnlyMailboxAndHost s t r.mb.val ∧
          Completes s t r x false (ansErr 0x0018 o)) ∧
        (targetInUse s p k = false → badTarget s p d = none → ∃ t y, exec (.target r) s = .next t ∧ Machine.target t p k = some y ∧ y.desc = d ∧
          y.sent = 0 ∧ y.delivered = 0 ∧ y.consumed = 0 ∧ y.flight = [] ∧ y.failed = false ∧ y.rate = portRate s p y ∧
          y.psn = fld d 0x24 4 % 2 ^ 24 ∧ (ingPart t p).tgtFailed.getLsbD k = false ∧ t.mem = s.mem ∧
          Completes s t r x true (ansOk 0 (leBytes 4 y.localQpn ++ leBytes 4 y.creditRkey ++ leBytes 8 y.creditAddr))))))

/-- RUN, SAMPLE_DECODE, PIECE_WRITE and FETCH (R294-R312, R320, R321): RUN refuses, with its record, a second run, a partition with no engine, and
a bad descriptor; otherwise it pins its generation and starts at its first batch. A sample is decoded for the next position of the batch being
built, and changes no memory but the work area; the piece of a whole batch is written into the stage area where it fits, and nowhere else; FETCH
takes the oldest piece for the host. No target has failed, and another batch is still open.
RoCEv2 delivery (R313-R315): a piece is sent in packets into its slot while credit permits, and not beyond; the acknowledged piece's notice is
written, and the acknowledged notice delivers the piece; a sequence NAK resends from its PSN; an access NAK, or more timeouts in a row than
RETRY, fails the target; an earlier timeout resends; credit only rises, and its write is acknowledged; a CNP halves the rate to no less than 1 Gb/s, and 55 us later it rises
by a sixteenth of the port's. -/
def Obligations.IngestWork : Prop :=
  ((∀ (s : State) (r : ReqId) (x : Exec), Outlet s r x → AtTurn s r x 5 6 → (∀ k, (Machine.target s (reqPart r) k).any (·.failed) = false) →
    (let p := reqPart r
     let d := inPayload s x
     (∀ y, (ingPart s p).run = some y → y.req ≠ r → ∃ t, exec (.ingestRun r) s = .next t ∧ OnlyMailboxAndHost s t r.mb.val ∧
       Completes s t r x false { status := 0x0107, detail := 0, result := 0, out := refusedRecord [] }) ∧
     ((ingPart s p).run = none → enginesOf s p = [] → ∃ t, exec (.ingestRun r) s = .next t ∧ OnlyMailboxAndHost s t r.mb.val ∧
       Completes s t r x false { status := 0x010A, detail := 0, result := 0, out := refusedRecord [] }) ∧
     ((ingPart s p).run = none → enginesOf s p ≠ [] →
       (∀ y, listRange s d = some y → trackedLines s y.1 y.2 = [] ∧ poisonedLine s y.1 y.2 = none ∧ lostMapped s (fld d 0x28 4) = none) →
       (∀ st o, checkRun s p d = .error (st, o) → ∃ t, exec (.ingestRun r) s = .next t ∧ OnlyMailboxAndHost s t r.mb.val ∧
         Completes s t r x false { status := st, detail := o, result := 0, out := refusedRecord d }) ∧
       (∀ g, checkRun s p d = .ok g → runTimeoutOk s p d x = true → runFirst d < runStop d →
         ∃ t y, exec (.ingestRun r) s = .next t ∧ (ingPart t p).run = some y ∧ y.req = r ∧ y.desc = d ∧ y.gen = g ∧ y.batch = runFirst d ∧
           y.stop = runStop d ∧ y.samples = [] ∧ y.staged = [] ∧ y.delivered = [] ∧ (rFlag d 0 = true → y.seed = BitVec.ofNat 64 (fld d 8 8)) ∧
           (ingPart t p).nextBatch = runFirst d ∧ (findExec t r).isSome = true ∧
           (mbox t r.mb.val).waiting = (mbox s r.mb.val).waiting ∧ t.mem = s.mem)))) ∧
  (∀ (s : State) (p : PartIx) (y : Run), Memory.wf s.mem = true → (ingPart s p.val).run = some y →
    (∀ k, (Machine.target s p.val k).any (·.failed) = false) →
    (∀ (e : Fin 64) (ecc : EccResult) (i g : Nat), e.val ∈ enginesOf s p.val → y.batch < y.stop → stagedBytes y < fld y.desc 0xB0 8 →
      (batchPositions y y.batch)[y.samples.length]? = some (i, g) →
      (let b := match listRange s y.desc with
         | some l => ncRead s (l.1 + 8 * (g - rBase y.desc)) 8
         | none => s
       ∃ t y', exec (.sampleDecode p e ecc) s = .next t ∧ (ingPart t p.val).run = some y' ∧
        y'.samples = y.samples ++ [{ pos := i, elem := g, clip := elemClip b y g, status := (sampleStatus b y g (elemClip b y g) ecc).1 }] ∧
        (ecc = .uncorrectable → (sampleStatus b y g (elemClip b y g) ecc).1 = 2) ∧
        y'.samplesDone = y.samplesDone + 1 ∧ y'.batch = y.batch ∧ y'.staged = y.staged ∧ y'.desc = y.desc ∧
        (∀ a, a < fld y.desc 0x98 8 ∨ fld y.desc 0x98 8 + fld y.desc 0xA0 8 ≤ a → mget t.mem a = mget b.mem a))) ∧
    (y.batch < y.stop → y.samples.length = (batchPositions y y.batch).length → (lowestOpen y fun _ => true).isSome = true →
      (let bs := buildPiece s y
       bs.length ≤ fld y.desc 0xB8 4 →
       (stagePlace y bs.length = none → exec (.pieceWrite p) s = .next s) ∧
       (∀ a, stagePlace y bs.length = some a → ∃ t, exec (.pieceWrite p) s = .next t ∧ mread t.mem a bs.length = bs ∧
         (∀ b, b < a ∨ a + bs.length ≤ b → mget t.mem b = mget s.mem b) ∧ t.klv = s.klv ∧ t.out = s.out ∧
         (ingPart t p.val).run = some { y with
           batch := y.batch + 1, samples := []
           staged := y.staged ++ [{ batch := y.batch, entry := tgtOf y.desc y.batch, addr := a, len := bs.length }] }))) ∧
    (y.batch < y.stop → y.samples.length = (batchPositions y y.batch).length → fld y.desc 0xB8 4 < (buildPiece s y).length →
      ∃ t, exec (.pieceWrite p) s = .next t ∧ (ingPart t p.val).run = none ∧
        ∀ x, findExec s y.req = some x → Outlet s y.req x →
          Posts s t y.req x false { status := 0x0105, detail := 0xB8, result := y.pieces, out := ingRecord y })) ∧
  (∀ (s : State) (r : ReqId) (x : Exec), Outlet s r x → AtTurn s r x 5 7 →
    (let p := reqPart r
     ((ingPart s p).run = none → ∃ t, exec (.fetch r) s = .next t ∧ OnlyMailboxAndHost s t r.mb.val ∧
       Completes s t r x false (ansErr 0x0109)) ∧
     (∀ y q, (ingPart s p).run = some y → fetches s p = [r] → (lowestOpen y fun b => tgtOf y.desc b == 0xFF).isSome = true →
       y.staged.find? (fun q => q.entry == 0xFF) = some q →
       (outRoom s x < q.len → ∃ t, exec (.fetch r) s = .next t ∧ OnlyMailboxAndHost s t r.mb.val ∧
         Completes s t r x false (ansErr 0x0108 0 q.len)) ∧
       (q.len ≤ outRoom s x → poisonedLine s q.addr q.len = none → (∀ k, (Machine.target s p k).any (·.failed) = false) →
         (lowestOpen { y with delivered := q.batch :: y.delivered } fun _ => true).isSome = true →
         ∃ t, exec (.fetch r) s = .next t ∧ Completes s t r x false (ansOk q.len (pieceBytes s q)) ∧
           (ingPart t p).run = some { y with
             staged := y.staged.filter (fun z => z.batch != q.batch), delivered := q.batch :: y.delivered, pieces := y.pieces + 1 } ∧
           t.mem = s.mem))))) ∧
  (∀ (s : State) (p : PartIx) (k : Fin 16) (y : Target), Machine.target s p.val k.val = some y →
    (∀ r q, (ingPart s p.val).run = some r → (piecesFor r k.val)[y.sent - y.delivered]? = some q → y.failed = false →
      (y.consumed + tSlots y ≤ y.sent → exec (.pieceSend p k) s = .next s) ∧
      (y.sent < y.consumed + tSlots y → poisonedLine s q.addr q.len = none →
        (let w : RdmaWrite := { k := y.sent, notice := false, psn := y.psn, packets := max 1 (ceilDiv q.len 4096), acked := 0
                                addr := tSlotAddr y + y.sent % tSlots y * tSlotBytes y, data := pieceBytes s q }
         ∃ t y', exec (.pieceSend p k) s = .next t ∧ { t with ing := s.ing, out := s.out, ts := s.ts } = s ∧
          t.out = s.out ++ (List.range w.packets).map (fun i => .roce p.val k.val (writePacket s p.val y w i)) ∧
          Machine.target t p.val k.val = some y' ∧ y'.sent = y.sent + 1 ∧ y'.psn = (y.psn + w.packets) % 2 ^ 24 ∧ y'.flight = y.flight ++ [w] ∧
          y'.desc = y.desc ∧ y'.delivered = y.delivered ∧ y'.consumed = y.consumed ∧ y'.failed = false))) ∧
    (∀ r q w, (ingPart s p.val).run = some r → (piecesFor r k.val).head? = some q → y.flight = [w] → w.k = y.delivered → 1 ≤ w.packets →
      w.packets ≤ 65536 → w.psn < 2 ^ 24 → w.acked < w.packets → y.psn = (w.psn + w.packets) % 2 ^ 24 →
      (let psn : BitVec 24 := BitVec.ofNat 24 (w.psn + w.packets - 1)
       (w.notice = false → ∃ t y', exec (.roceAck p k psn) s = .next t ∧ Machine.target t p.val k.val = some y' ∧ y'.timeouts = 0 ∧
         (let n : RdmaWrite := { k := w.k, notice := true, psn := y.psn, packets := 1, acked := 0, addr := tNotice y + w.k % tSlots y * 64
                                 data := noticeBytes w.k q.batch (fld r.desc 0x40 1) (pieceBytes s q) }
          y'.delivered = y.delivered ∧ t.out = s.out ++ [.roce p.val k.val (writePacket s p.val y n 0)] ∧ y'.flight = [n] ∧
          (ingPart t p.val).run = some r)) ∧
       (w.notice = true → (∀ j, (Machine.target s p.val j).any (·.failed) = false) →
         (lowestOpen { r with delivered := q.batch :: r.delivered } fun _ => true).isSome = true →
         ∃ t y', exec (.roceAck p k psn) s = .next t ∧ Machine.target t p.val k.val = some y' ∧ y'.delivered = y.delivered + 1 ∧
           y'.flight = [] ∧ (ingPart t p.val).run = some { r with
             staged := r.staged.filter (fun z => z.batch != q.batch), delivered := q.batch :: r.delivered, pieces := r.pieces + 1 }))) ∧
    (∀ w, y.flight = [w] → y.failed = false → 1 ≤ w.packets → w.packets ≤ 65536 → w.psn < 2 ^ 24 → y.psn = (w.psn + w.packets) % 2 ^ 24 →
     (let again : List Out := (List.range (w.packets - w.acked)).map fun i => .roce p.val k.val (writePacket s p.val y w (w.acked + i))
      (∃ t y', exec (.roceNak p k (BitVec.ofNat 24 w.psn) .psnSequence) s = .next t ∧ t.out = s.out ++ again ∧
        Machine.target t p.val k.val = some y' ∧ y'.flight = [w] ∧ y'.psn = y.psn ∧ y'.timeouts = y.timeouts ∧ y'.failed = false) ∧
      (∃ t y', exec (.roceNak p k (BitVec.ofNat 24 w.psn) .remoteAccess) s = .next t ∧ Machine.target t p.val k.val = some y' ∧
        y'.failed = true ∧ y'.flight = [] ∧ (ingPart t p.val).tgtFailed.getLsbD k.val = true) ∧
      (y.timeouts + 1 ≤ tRetry y → ∃ t y', exec (.roceAckTimeout p k) s = .next t ∧ Machine.target t p.val k.val = some y' ∧
        y'.timeouts = y.timeouts + 1 ∧ y'.flight = y.flight ∧ y'.failed = false ∧ t.out = s.out ++ again) ∧
      (tRetry y < y.timeouts + 1 → ∃ t y', exec (.roceAckTimeout p k) s = .next t ∧ Machine.target t p.val k.val = some y' ∧
        y'.failed = true ∧ y'.flight = [] ∧ (ingPart t p.val).tgtFailed.getLsbD k.val = true))) ∧
    (∀ consumed : Dword, ∃ t, exec (.creditWrite p k consumed) s = .next t ∧ { t with ing := s.ing, out := s.out } = s ∧
      t.out = s.out ++ [.roce p.val k.val (roceSeal { roceHead s p.val y with psn := y.rqPsn })] ∧
      Machine.target t p.val k.val = some { y with consumed := max y.consumed consumed.toNat, rqPsn := (y.rqPsn + 1) % 2 ^ 24 }) ∧
    (∃ t, exec (.cnp p k) s = .next t ∧ { t with ing := s.ing } = s ∧
      Machine.target t p.val k.val = some { y with rate := max 1000 (y.rate / 2), rateAt := now s }) ∧
    (y.rate < portRate s p.val y → y.rateAt + 55000 ≤ now s → ∃ t, exec (.rateRecoveryTimer p k) s = .next t ∧
      { t with ing := s.ing } = s ∧ Machine.target t p.val k.val = some { y with
        rate := min (portRate s p.val y) (y.rate + portRate s p.val y / 16), rateAt := now s }))

/-- SCAN (R324, R325, R332-R334): a table outside its namespace, a bad destination and a program that breaks the rules complete with their offset;
otherwise the program is loaded, or waits for a place. Once it is loaded, the records are taken in order from SKIP on, and the answer gives the
header and the records that pass, which a destination object takes instead. A scan counts a record for each one it writes as passed, names the next
record, stays within the table, and writes no other module memory; an uncorrectable unit ends it with MEDIA_ERROR at that unit's first record.
The SEARCH opcodes on an index (R336-R353): CREATE enters an empty index at epoch 1; DROP removes it unless a merge runs or a QUERY executes;
INSERT and DELETE change what the next commit will hold; COMMIT raises the epoch; MERGE waits and then takes the side area in; INFO describes the
index; QUERY pins an epoch, loads its program, and then answers each query with its block. An unknown index gives NOT_FOUND. -/
def Obligations.ScansAndIndexes : Prop :=
  (∀ (s : State) (r : ReqId) (x : Exec) (bad : Option Nat) (dest : Option Obj), Outlet s r x → AtTurn s r x 6 1 →
    (if bitAt (prm x 0x25 1) 1 then dest = destObj s (reqPart r) (prm x 0x38 4) ∧ lostMapped s (prm x 0x38 4) = none else dest = none) →
    (let ns := prm x 0x20 4
     let rsize := 2 ^ prm x 0x24 1
     let proj := if bitAt (prm x 0x25 1) 0 then some (prm x 0x26 2) else none
     let slba := prm x 0x28 8
     let skip := prm x 0x3C 2
     let stop := skip + prm x 0x30 8
     let g := inPayload s x
     let refused (a : Ans) : Prop := ∃ t, exec (.scan r bad) s = .next t ∧ SearchKept s t r ∧ t.srch.chans = s.srch.chans ∧ Completes s t r x false a
     (searchRun s r = none →
       (∀ d, badTable s (reqPart r) ns slba stop rsize = some d → refused (ansErr 0x0101 d)) ∧
       (badTable s (reqPart r) ns slba stop rsize = none → bitAt (prm x 0x25 1) 1 = true → dest = none → refused (ansErr 0x010B 0x38)) ∧
       (badTable s (reqPart r) ns slba stop rsize = none → (bitAt (prm x 0x25 1) 1 = true → dest.isSome = true) →
         (∀ d, badProgram g rsize = some d → refused (ansErr 0x0100 d)) ∧
         (badProgram g rsize = none → ∃ t y, exec (.scan r bad) s = .next t ∧ ProgramTaken s t r y ∧ y.payload = g))) ∧
     (∀ y, searchRun s r = some y → y.loaded = true → Memory.wf s.mem = true → (bitAt (prm x 0x25 1) 1 = true → dest.isSome = true) →
       (let room := match dest with
          | some o => objChunks o * 65536
          | none => outRoom s x - 64
        let epoch := ((pinOf s r ns).map (·.epoch.toNat)).getD 0
        let res := scanUnits r y.payload ns slba rsize stop (room / (if proj.isSome then 8 else rsize)) proj bad
          (stop * rsize / 16384 + 1) (begunExec s r, { next := skip, scanned := 0, passed := 0, written := [], full := false })
        let z := res.2.1
        let body := if dest.isSome then [] else z.written.flatten
        z.written.length = z.passed ∧ z.next = skip + z.scanned ∧ z.next ≤ stop ∧
        (res.2.2 = false → ∃ t, exec (.scan r bad) s = .next t ∧
          Completes s t r x false { status := if z.full then 1 else 0, detail := 0, result := z.passed, out := scanHeader z epoch ++ body } ∧
          (dest = none → t.mem = s.mem ∧ SearchKept s t r) ∧
          (∀ o, dest = some o → mread t.mem o.daddr z.written.flatten.length = z.written.flatten ∧
            ∀ a, a < o.daddr ∨ o.daddr + z.written.flatten.length ≤ a → mget t.mem a = mget s.mem a)) ∧
        (res.2.2 = true → ∃ t, exec (.scan r bad) s = .next t ∧
          Posts s t r x false { status := 0x000A, detail := nextSeqLow s, result := z.passed
                                out := scanHeader { z with next := z.next * rsize / 16384 * (16384 / rsize) } epoch ++ body }))))) ∧
  (∀ (s : State) (r : ReqId) (x : Exec), Outlet s r x → NothingEarlier s r x → Memory.wf s.mem = true →
    (let p := reqPart r
     let h := prm x 0x20 4
     (indexOf s p h = none → ∀ (op : Nat) (row : Instr), (op, row) ∈ [(3, Instr.drop r), (4, .insert r), (5, .searchDelete r),
         (6, .searchCommit r), (9, .searchInfo r)] →
       AtTurn s r x 6 op → ∃ t, exec row s = .next t ∧ OnlyMailboxAndHost s t r.mb.val ∧ Completes s t r x false (ansErr 0x0004)) ∧
     (indexOf s p h = none → AtTurn s r x 6 7 → searchRun s r = none →
       ∃ t, exec (.query r) s = .next t ∧ SearchKept s t r ∧ Completes s t r x false (ansErr 0x0004)) ∧
     (AtTurn s r x 6 2 → ownsCluster s p = true →
       (let d := inPayload s x
        (∀ o, badIndexDesc d = some o → ∃ t, exec (.searchCreate r) s = .next t ∧ OnlyMailboxAndHost s t r.mb.val ∧
          Completes s t r x false (ansErr 0x0102 o)) ∧
        (∀ o model i, badIndexDesc d = none → modelObj s p d = some o → lostMapped s (fld d 0x28 4) = none →
          trackedLines s o.daddr (modelBytes d) = [] → poisonedLine s o.daddr (modelBytes d) = none → modelFor s d o = some model →
          badHomes s p h (prm x 0x28 8) (prm x 0x30 8) d = none →
          (indexesOf s p).length < 16 → (List.range 17).find? (fun i => (tfind? s.srch.indexes (p * 65536 + i)).isNone) = some i →
          (∀ k, k.desc = d → k.nsid = h → k.slba = prm x 0x28 8 → k.nblocks = prm x 0x30 8 →
            (storeIndex s k 64 (iNlist d * (2 * iDim d + 8))).isSome = true) →
          ∃ t k, exec (.searchCreate r) s = .next t ∧ Completes s t r x true (ansOk (indexHandle (p * 65536 + i) k)) ∧
            indexOf t p (indexHandle (p * 65536 + i) k) = some k ∧ k.desc = d ∧ k.model = model ∧ k.epoch = 1 ∧ k.recs = [] ∧ k.dels = [] ∧
            k.merging = none ∧ (∀ j, j ≠ p * 65536 + i → tfind? t.srch.indexes j = tfind? s.srch.indexes j) ∧ IndexQuiet s t d))) ∧
     (∀ k, indexOf s p h = some k → ownsCluster s p = true →
       (AtTurn s r x 6 3 →
         (k.merging.isSome = true ∨ queried s (objKey h) = true → ∃ t, exec (.drop r) s = .next t ∧ OnlyMailboxAndHost s t r.mb.val ∧
           Completes s t r x false (ansErr 0x0106)) ∧
         (k.merging = none → queried s (objKey h) = false → ∃ t, exec (.drop r) s = .next t ∧ Completes s t r x true (ansOk 0) ∧
           t.srch.indexes = tdel s.srch.indexes (objKey h) ∧ t.mem = s.mem)) ∧
       (AtTurn s r x 6 4 → prm x 0x24 4 = 0 → asterPlaced s p k = true →
         (let b := inPayload s x
          let need := 0x40 + fld b 8 4 * insertEntry k.desc
          let es := batchEntries k.desc b
          let k' := es.foldl insertOne k
          (∀ o, badBatch b = some o → ∃ t, exec (.insert r) s = .next t ∧ OnlyMailboxAndHost s t r.mb.val ∧
            Completes s t r x false (ansErr 0x0018 o)) ∧
          (badBatch b = none → b.length = need → findIx (badVector k.desc) es = none →
            (iMax k.desc < pendingCount k' → ∃ t, exec (.insert r) s = .next t ∧ OnlyMailboxAndHost s t r.mb.val ∧
              Completes s t r x false (ansErr 0x0108)) ∧
            (pendingCount k' ≤ iMax k.desc → 2 * sideUsed k' ≤ sideSize → (storeIndex s k need (es.length * (iRsize k.desc + 16))).isSome = true →
              ∃ t, exec (.insert r) s = .next t ∧ Completes s t r x true (ansOk (fld b 8 4)) ∧ indexOf t p h = some k' ∧ k'.epoch = k.epoch ∧
                IndexQuiet s t k.desc)))) ∧
       (AtTurn s r x 6 5 →
         (let b := inPayload s x
          let kn := ((List.range (b.length / 8)).map fun i => fld b (8 * i) 8).foldl deleteOne (k, 0)
          2 * sideUsed kn.1 ≤ sideSize → (storeIndex s k b.length (kn.2 * 16)).isSome = true →
          ∃ t, exec (.searchDelete r) s = .next t ∧ Completes s t r x true (ansOk kn.2) ∧
            indexOf t p h = some kn.1 ∧ kn.1.epoch = k.epoch ∧ IndexQuiet s t k.desc)) ∧
       (AtTurn s r x 6 6 → 2 * sideUsed k ≤ sideSize → (storeIndex s k 4 0).isSome = true → ∃ t, exec (.searchCommit r) s = .next t ∧
         Completes s t r x true (ansOk (k.epoch + 1).toNat) ∧ indexOf t p h = some { k with epoch := k.epoch + 1 } ∧ IndexQuiet s t k.desc) ∧
       (AtTurn s r x 6 8 →
         (k.merging = none → asterPlaced s p k = true →
           ∃ t, exec (.merge r) s = .next t ∧ indexOf t p h = some { k with merging := some (r, k.epoch.toNat) } ∧
           (findExec t r).isSome = true ∧ (mbox t r.mb.val).waiting = (mbox s r.mb.val).waiting ∧ t.mem = s.mem ∧ t.ftl = s.ftl) ∧
         (∀ e, k.merging = some (r, e) → (storeIndex s k (listPages (mergeIndex e k) * 16384) (8 * (mergeIndex e k).recs.length)).isSome = true →
           ∃ t, exec (.merge r) s = .next t ∧ Completes s t r x true (ansOk (mergeable e k)) ∧
           indexOf t p h = some (mergeIndex e k) ∧ (astPart t p).merges = satInc (astPart s p).merges ∧ IndexQuiet s t k.desc)) ∧
       (AtTurn s r x 6 9 → ∃ t d, exec (.searchInfo r) s = .next t ∧ OnlyMailboxAndHost s t r.mb.val ∧ Completes s t r x false (ansOk 64 d) ∧
         d.length = 64 ∧ fld d 0 4 = h ∧ fld d 4 4 = k.epoch.toNat) ∧
       (AtTurn s r x 6 7 → searchRun s r = none → prm x 0x2C 4 ≤ iNlist k.desc → prm x 0x30 4 ≤ iNlist k.desc →
         (prm x 0x34 2 = 0 ∨ iKeep k.desc = true) →
         (let b := inPayload s x
          let n := prm x 0x2A 1
          let named := prm x 0x24 4
          let g := payProgram k.desc b n
          (queryEpoch s (objKey h) k named = none → ∃ t, exec (.query r) s = .next t ∧ SearchKept s t r ∧
            Completes s t r x false (ansErr 0x0105)) ∧
          (named = 0 ∨ named = k.epoch.toNat → queryEpoch s (objKey h) k named = some k.epoch.toNat) ∧
          (∀ e, queryEpoch s (objKey h) k named = some e → asterPlaced s p k = true → n * 2 * iDim k.desc ≤ b.length →
            (g.bind fun g => badProgram g (iRsize k.desc)) = none → findIx (fun q => !q.all isFinite) (payQueries k.desc b n) = none →
            ∃ t y, exec (.query r) s = .next t ∧ ProgramTaken s t r y ∧ y.key = objKey h ∧ y.epoch = e ∧ y.payload = b ∧
              (g = none → y.loaded = true))))) ∧
     (∀ y k, searchRun s r = some y → y.loaded = true → tfind? s.srch.indexes y.key = some k → AtTurn s r x 6 7 →
       (let n := prm x 0x2A 1
        let rs := (payQueries k.desc y.payload n).map (runQuery k y.epoch (payProgram k.desc y.payload n) x)
        let short := (rs.filter fun q => decide (q.cands.length < prm x 0x28 2)).length
        ∃ t k', exec (.query r) s = .next t ∧
          Completes s t r x false { status := if short = 0 then 0 else 1, detail := 0, result := short
                                    out := rs.flatMap (queryBlock k y.epoch x) } ∧
          (astPart t p).queries = (astPart s p).queries + n ∧ tfind? t.srch.indexes y.key = some k' ∧ { k' with held := k.held } = k ∧
          t.mem = s.mem))))

/-- Doorbells, fetching, enabling, reset and shutdown (R361-R368): a submission doorbell makes its entries visible and a completion doorbell
frees places; the command arbitration chooses is fetched from host memory when a context is free, and waits otherwise, a stall counted once; one
whose CID is held, or that is not accepted, is answered with its status and joins no others; CC.EN brings up the
admin queues, and its clearing takes every queue and command away once no command past its commit point is left, RDY staying 1 until then;
a shutdown reports SHST 0b10 once no acknowledged write is left in the volatile cache.
Creating and deleting I/O queues, Abort and Asynchronous Event Request (R363, R386, R387): a queue identifier that is taken, absent or out
of range is refused; a good one is created empty, or removed; an Abort of a command past its commit point, or not outstanding, answers 1, and
one before its commit point ends that command too; an event that waits completes the oldest request, and a fifth request is refused. -/
def Obligations.NvmeQueues : Prop :=
  (∀ (s : State) (fn : Fn),
    (∀ (k : Sq) (q : Nat) (v : Half), tfind? (ctrl s fn.val).sqs q = some k → serving (ctrl s fn.val) = true → v.toNat < k.size →
      ∃ t, exec (.sqDoorbell fn q v) s = .next t ∧ { t with nvm := s.nvm } = s ∧
        tfind? (ctrl t fn.val).sqs q = some { k with tail := v.toNat, dbs := k.dbs ++ [((v.toNat + k.size - k.tail) % k.size, now s)] } ∧
        (∀ j, j ≠ q → tfind? (ctrl t fn.val).sqs j = tfind? (ctrl s fn.val).sqs j)) ∧
    (∀ (k : Cq) (q : Nat) (v : Half), tfind? (ctrl s fn.val).cqs q = some k → serving (ctrl s fn.val) = true → v.toNat < k.size →
      (∀ y ∈ (ctrl s fn.val).cmds, y.done = none) →
      ∃ t, exec (.cqHeadDoorbell fn q v) s = .next t ∧ { t with nvm := s.nvm } = s ∧
        tfind? (ctrl t fn.val).cqs q = some { k with head := v.toNat }) ∧
    (∀ (k : Sq) (q : Nat) (y : Ctrl), serving (ctrl s fn.val) = true → s.rst.halt = .no → arbitrate (ctrl s fn.val) = some (q, y) →
      tfind? (ctrl s fn.val).sqs q = some k →
      (let e := mread s.hmem (k.base + k.head * 64) 64
       let key : CmdKey := ⟨fn, q, BitVec.ofNat 16 (sqCid e)⟩
       (contextFree fn.val (ctrl s fn.val) (sqUrgent (ctrl s fn.val) q k) = false →
         ∃ t, exec (.sqFetch fn q) s = .next t ∧ (ctrl t fn.val).cmds = (ctrl s fn.val).cmds ∧ (ctrl t fn.val).sqs = (ctrl s fn.val).sqs ∧
           (ctrl t fn.val).stalls = if (ctrl s fn.val).stalled then (ctrl s fn.val).stalls else satInc (ctrl s fn.val).stalls) ∧
       (contextFree fn.val (ctrl s fn.val) (sqUrgent (ctrl s fn.val) q k) = true → (∀ c ∈ (ctrl s fn.val).cmds, c.key ≠ key) →
         fetchRefusal s fn.val q e = none →
         ∃ t c, exec (.sqFetch fn q) s = .next t ∧ (ctrl t fn.val).cmds = (ctrl s fn.val).cmds ++ [c] ∧ c.key = key ∧ c.sqe = e ∧
           c.done = none ∧ c.order = s.nvm.order ∧ t.nvm.order = s.nvm.order + 1 ∧ t.hmem = s.hmem ∧
           (tfind? (ctrl t fn.val).sqs q).map (·.head) = some ((k.head + 1) % k.size)) ∧
       (∀ c st, contextFree fn.val (ctrl s fn.val) (sqUrgent (ctrl s fn.val) q k) = true → k.ordered = false →
         (∀ y ∈ (ctrl s fn.val).cmds, y.done = none) → tfind? (ctrl s fn.val).cqs k.cqid = some c → cqFull c = false →
         (((∃ y ∈ (ctrl s fn.val).cmds, y.key = key) ∧ st = stCid) ∨
           ((∀ y ∈ (ctrl s fn.val).cmds, y.key ≠ key) ∧ fetchRefusal s fn.val q e = some st)) →
         ∃ t, exec (.sqFetch fn q) s = .next t ∧ (ctrl t fn.val).cmds = (ctrl s fn.val).cmds ∧
           (ctrl t fn.val).conflicts = (if st = stCid then satInc (ctrl s fn.val).conflicts else (ctrl s fn.val).conflicts) ∧
           t.hmem = mwrite s.hmem (c.base + c.tail * 16)
             (cqeBytes { key := key, dw0 := 0, sct := st.1, sc := st.2, dnr := true } ((k.head + 1) % k.size) c.phase)))) ∧
    (∀ cc : Word, ctrlExists s fn.val = true → cc.getLsbD 0 = true → (ctrl s fn.val).cc.getLsbD 0 = false →
      (ctrl s fn.val).resetting = false →
      ∃ t, exec (.ccEnSet fn cc) s = .next t ∧ { t with nvm := s.nvm } = s ∧ (ctrl t fn.val).cc = ccFields cc ∧ (ctrl t fn.val).shst = 0 ∧
        (ctrl t fn.val).rdy = (s.rst.ready && (s.fw.running != 2 || s.fw.recovered)) ∧
        ((tfind? (ctrl t fn.val).sqs 0).map fun q => (q.size, q.base, q.head, q.tail)) =
          some (bits (ctrl s fn.val).aqa.toNat 11 0 + 1, (ctrl s fn.val).asq.toNat, 0, 0) ∧
        ((tfind? (ctrl t fn.val).cqs 0).map fun q => (q.size, q.base, q.head, q.tail, q.phase)) =
          some (bits (ctrl s fn.val).aqa.toNat 27 16 + 1, (ctrl s fn.val).acq.toNat, 0, 0, true)) ∧
    (∀ cc : Word, cc.getLsbD 0 = false → (ctrl s fn.val).cc.getLsbD 0 = true →
      (let past := (ctrl s fn.val).cmds.filter fun y => y.committed && y.done.isNone
       ∃ t, exec (.controllerReset fn cc) s = .next t ∧ (ctrl t fn.val).cc = ccFields cc ∧ (ctrl t fn.val).cmds = past ∧
        (past = [] → (ctrl t fn.val).rdy = false ∧ (ctrl t fn.val).resetting = false ∧ (ctrl t fn.val).sqs = [] ∧ (ctrl t fn.val).cqs = [] ∧
          (ctrl t fn.val).feats = []) ∧
        (past ≠ [] → (ctrl t fn.val).rdy = (ctrl s fn.val).rdy ∧ (ctrl t fn.val).resetting = true) ∧
        (ctrl t fn.val).asq = (ctrl s fn.val).asq ∧ (ctrl t fn.val).acq = (ctrl s fn.val).acq ∧ t.hmem = s.hmem ∧
        (∀ f, f ≠ fn.val → ctrl t f = ctrl s f) ∧ NvmeFrame s t)) ∧
    (∀ cc : Word, bits cc.toNat 15 14 ≠ 0 → (ctrl s fn.val).cc.getLsbD 0 = true →
      ∃ t, exec (.shutdown fn cc) s = .next t ∧ (ctrl t fn.val).shst = (if unflushed t fn.val then 1 else 2) ∧
        (s.ftl.cache = [] → (ctrl t fn.val).shst = 2) ∧ (ctrl t fn.val).cc = ccFields cc ∧
        (ctrl t fn.val).cmds = (ctrl s fn.val).cmds ∧ NvmeFrame s t)) ∧
  (∀ (s : State) (k : CmdKey) (x : NCmd) (l l' : List NCmd) (q : Sq) (c : Cq), NvmeTurn s k x l l' q c → k.sq = 0 →
    (let f := k.ctrl.val
     let e := x.sqe
     let id := bits (cdw e 10) 15 0
     let n := bits (cdw e 10) 31 16 + 1
     (sqOpc e = 5 →
       (id = 0 ∨ maxQueue f < id ∨ (tfind? (ctrl s f).cqs id).isSome = true →
         ∃ t, exec (.createIoCq k) s = .next t ∧ NvmeDone s t k l l' q c s.hmem (1, 0x01) 0 true ∧ NvmeFrame s t) ∧
       (id ≠ 0 → id ≤ maxQueue f → tfind? (ctrl s f).cqs id = none → 2 ≤ n → bitAt (cdw e 11) 0 = true → bits (cdw e 11) 15 2 = 0 →
         ∃ t, exec (.createIoCq k) s = .next t ∧ NvmeDone s t k l l' q c s.hmem stOk 0 true ∧ NvmeFrame s t ∧
           tfind? (ctrl t f).cqs id = some { size := n, base := fld e 24 8 / 4096 * 4096, iv := bits (cdw e 11) 31 16
                                             ien := bitAt (cdw e 11) 1, head := 0, tail := 0, phase := true })) ∧
     (sqOpc e = 1 → id ≠ 0 → id ≤ maxQueue f → tfind? (ctrl s f).sqs id = none → 2 ≤ n →
       (bits (cdw e 11) 31 16 = 0 ∨ tfind? (ctrl s f).cqs (bits (cdw e 11) 31 16) = none →
         ∃ t, exec (.createIoSq k) s = .next t ∧ NvmeDone s t k l l' q c s.hmem (1, 0x00) 0 true ∧ NvmeFrame s t) ∧
       (bits (cdw e 11) 31 16 ≠ 0 → (tfind? (ctrl s f).cqs (bits (cdw e 11) 31 16)).isSome = true → bitAt (cdw e 11) 0 = true →
         bits (cdw e 11) 15 3 = 0 →
         ∃ t, exec (.createIoSq k) s = .next t ∧ NvmeDone s t k l l' q c s.hmem stOk 0 true ∧ NvmeFrame s t ∧
           tfind? (ctrl t f).sqs id = some { size := n, base := fld e 24 8 / 4096 * 4096, cqid := bits (cdw e 11) 31 16
                                             prio := bits (cdw e 11) 2 1, ordered := false, head := 0, tail := 0, dbs := []
                                             deleting := false })) ∧
     (sqOpc e = 0 → (id = 0 ∨ tfind? (ctrl s f).sqs id = none) →
       ∃ t, exec (.deleteIoSq k) s = .next t ∧ NvmeDone s t k l l' q c s.hmem (1, 0x01) 0 true ∧ NvmeFrame s t) ∧
     (sqOpc e = 0 → id ≠ 0 → (tfind? (ctrl s f).sqs id).isSome = true → (∀ y ∈ l ++ l', y.key.sq ≠ id) →
       ∃ t, exec (.deleteIoSq k) s = .next t ∧ NvmeDone s t k l l' q c s.hmem stOk 0 true ∧ NvmeFrame s t ∧
         tfind? (ctrl t f).sqs id = none) ∧
     (∀ z, sqOpc e = 0 → id ≠ 0 → tfind? (ctrl s f).sqs id = some z → (∃ y ∈ l ++ l', y.key.sq = id) →
       (∀ y ∈ l ++ l', y.key.sq = id → y.committed = true) →
       ∃ t, exec (.deleteIoSq k) s = .next t ∧ (ctrl t f).cmds = (ctrl s f).cmds ∧
         tfind? (ctrl t f).sqs id = some { z with deleting := true } ∧ t.hmem = s.hmem ∧ NvmeFrame s t) ∧
     (sqOpc e = 4 → id ≠ 0 → (tfind? (ctrl s f).cqs id).isSome = true →
       ((ctrl s f).sqs.any (fun z => z.2.cqid == id) = true →
         ∃ t, exec (.deleteIoCq k) s = .next t ∧ NvmeDone s t k l l' q c s.hmem (1, 0x0C) 0 true ∧ NvmeFrame s t) ∧
       ((ctrl s f).sqs.any (fun z => z.2.cqid == id) = false → q.cqid ≠ id →
         ∃ t, exec (.deleteIoCq k) s = .next t ∧ (ctrl t f).cmds = l ++ l' ∧ tfind? (ctrl t f).cqs id = none ∧ NvmeFrame s t)) ∧
     (sqOpc e = 8 →
       (let w : CmdKey := ⟨k.ctrl, id, BitVec.ofNat 16 (bits (cdw e 10) 31 16)⟩
        let aborts := (ctrl s f).cmds.filter fun c => c.key.sq == 0 && sqOpc c.sqe == 8 && decide (c.order ≤ x.order)
        (4 < aborts.length → ∃ t, exec (.nvmeAbort k) s = .next t ∧ NvmeDone s t k l l' q c s.hmem (1, 0x03) 0 true ∧ NvmeFrame s t) ∧
        (aborts.length ≤ 4 → (∀ y, findCmd s w = some y → y.committed = true) →
          ∃ t, exec (.nvmeAbort k) s = .next t ∧ NvmeDone s t k l l' q c s.hmem stOk 1 true ∧ NvmeFrame s t) ∧
        (∀ y qy cy, aborts.length ≤ 4 → (l ++ l').filter (fun y => y.key == w) = [y] → y.committed = false → y.ordered = false → w ≠ k →
          tfind? (ctrl s f).sqs w.sq = some qy → tfind? (ctrl s f).cqs qy.cqid = some cy → cqFull cy = false →
          (qy.cqid = q.cqid → cqFull { c with tail := (c.tail + 1) % c.size } = false) →
          ∃ t, exec (.nvmeAbort k) s = .next t ∧ (ctrl t f).cmds = (l ++ l').filter (fun y => y.key != w) ∧
            (ctrl t f).aborted = satInc (ctrl s f).aborted ∧ NvmeFrame s t))) ∧
     (sqOpc e = 0x0C →
       (let before := (aers s f).takeWhile fun c => c.key != k
        (4 ≤ before.length → ∃ t, exec (.asynchronousEventRequest k) s = .next t ∧
          NvmeDone s t k l l' q c s.hmem (1, 0x05) 0 true ∧ NvmeFrame s t) ∧
        (before = [] → ∀ d ds, (ctrl s f).events = d :: ds → ∃ t, exec (.asynchronousEventRequest k) s = .next t ∧
          NvmeDone s t k l l' q c s.hmem stOk d true ∧ (ctrl t f).events = ds ∧ NvmeFrame s t) ∧
        (before.length < 4 → (ctrl s f).events = [] → exec (.asynchronousEventRequest k) s = .next s)))))

/-- Identify, Get Log Page, features, self-test and firmware (R369-R381): each completes with the data, the value or the status the rules give;
Set Features changes the one feature it names; a self-test starts at its first step, goes on while steps pass, and ends on a failure; a
downloaded piece is staged at its offset, and a Commit is refused for a bad slot or image and otherwise starts the job on its block.
Namespaces (R359, R360, R369, R374): a namespace is created where the partition has room, and deleted, or attached to controllers that may
see it; a Format zeroes one. -/
def Obligations.NvmeAdministration : Prop :=
  (∀ (s : State) (k : CmdKey) (x : NCmd) (l l' : List NCmd) (q : Sq) (c : Cq), NvmeTurn s k x l l' q c → k.sq = 0 →
    (let f := k.ctrl.val
     let e := x.sqe
     (∀ (opc : Nat) (row : Instr) (a : Except (Nat × Nat) (List Byte)),
       (opc, row, a) ∈ [(2, Instr.getLogPage k, logAns s f e), (6, .nvmeIdentify k, identifyAns s f e)] → sqOpc e = opc →
       (∀ st, a = .error st → ∃ t, exec row s = .next t ∧ NvmeDone s t k l l' q c s.hmem st 0 true ∧ NvmeFrame s t) ∧
       (∀ bs ds ps, a = .ok bs → dataPieces s e bs.length = .ok (ds, ps) →
         ∃ t, exec row s = .next t ∧ NvmeDone s t k l l' q c (writePieces s.hmem ps bs) stOk 0 true ∧ NvmeFrame s t)) ∧
     (sqOpc e = 0x0A →
       (∀ st, featureAns s f e = .error st → ∃ t, exec (.getFeatures k) s = .next t ∧ NvmeDone s t k l l' q c s.hmem st 0 true ∧
         NvmeFrame s t) ∧
       (∀ v, featureAns s f e = .ok (v, []) → ∃ t, exec (.getFeatures k) s = .next t ∧ NvmeDone s t k l l' q c s.hmem stOk v true ∧
         NvmeFrame s t)) ∧
     (sqOpc e = 9 →
       (let id := bits (cdw e 10) 7 0
        let v := cdw e 11
        (bitAt (cdw e 10) 31 = true → ∃ t, exec (.setFeatures k) s = .next t ∧ NvmeDone s t k l l' q c s.hmem (1, 0x0D) 0 true ∧
          NvmeFrame s t) ∧
        (bitAt (cdw e 10) 31 = false → id ∉ featIds → ∃ t, exec (.setFeatures k) s = .next t ∧
          NvmeDone s t k l l' q c s.hmem stField 0 true ∧ NvmeFrame s t) ∧
        (bitAt (cdw e 10) 31 = false → id ∈ [1, 8, 0x0A, 0x0B] ∨ (id = 6 ∧ (bitAt v 0 = true ∨ s.ftl.cache = [])) → ∃ t, exec (.setFeatures k) s = .next t ∧
          NvmeDone s t k l l' q c s.hmem stOk 0 true ∧ NvmeFrame s t ∧ (ctrl t f).feats = tput (ctrl s f).feats id (BitVec.ofNat 32 v)) ∧
        (bitAt (cdw e 10) 31 = false → id = 2 → f = 0 →
          (5 ≤ bits v 4 0 → ∃ t, exec (.setFeatures k) s = .next t ∧ NvmeDone s t k l l' q c s.hmem stField 0 true ∧ t.nvm.ps = s.nvm.ps) ∧
          (3 ≤ bits v 4 0 → bits v 4 0 < 5 → workInProgress s = true → ∃ t, exec (.setFeatures k) s = .next t ∧
            NvmeDone s t k l l' q c s.hmem stSequence 0 true ∧ t.nvm.ps = s.nvm.ps) ∧
          (bits v 4 0 < 3 ∨ (bits v 4 0 < 5 ∧ workInProgress s = false) → ∃ t, exec (.setFeatures k) s = .next t ∧
            NvmeDone s t k l l' q c s.hmem stOk 0 true ∧ t.nvm.ps.val = bits v 4 0 ∧
            t.nvm.lastOp.val = (if bits v 4 0 < 3 then bits v 4 0 else s.nvm.lastOp.val))))) ∧
     (sqOpc e = 0x14 →
       (bits (cdw e 10) 3 0 = 0xF → ∃ t, exec (.deviceSelfTest k) s = .next t ∧ NvmeDone s t k l l' q c s.hmem stOk 0 true ∧
         (ctrl t f).selfTest = none ∧ NvmeFrame s t) ∧
       ((bits (cdw e 10) 3 0 = 1 ∨ bits (cdw e 10) 3 0 = 2) → (ctrl s f).selfTest.isSome = true →
         ∃ t, exec (.deviceSelfTest k) s = .next t ∧ NvmeDone s t k l l' q c s.hmem (1, 0x1D) 0 true ∧ NvmeFrame s t) ∧
       ((bits (cdw e 10) 3 0 = 1 ∨ bits (cdw e 10) 3 0 = 2) → (ctrl s f).selfTest = none →
         sqNsid e = 0 ∨ sqNsid e = 0xFFFFFFFF ∨ nsVisible s f (sqNsid e) = true →
         ∃ t, exec (.deviceSelfTest k) s = .next t ∧ NvmeDone s t k l l' q c s.hmem stOk 0 true ∧ NvmeFrame s t ∧
           (ctrl t f).selfTest = some { ext := bits (cdw e 10) 3 0 == 2, nsid := sqNsid e, segment := 1, step := 0, stopped := false })) ∧
     (sqOpc e = 0x11 →
       (let n := (cdw e 10 + 1) * 4
        let off := cdw e 11 * 4
        (off % 4096 ≠ 0 ∨ blockSize < off + n → ∃ t, exec (.firmwareImageDownload k) s = .next t ∧
          NvmeDone s t k l l' q c s.hmem stField 0 true ∧ NvmeFrame s t) ∧
        (∀ s1 bs, off % 4096 = 0 → off + n ≤ blockSize → n ≤ 0x40000 → hostGet s k e n = .ok (s1, bs) → ∃ t, exec (.firmwareImageDownload k) s = .next t ∧
          NvmeDone s t k l l' q c s.hmem stOk 0 true ∧ t.nvm.fwImage = mwrite s.nvm.fwImage off bs ∧
          t.nvm.fwEnd = max s.nvm.fwEnd (off + n) ∧ NvmeFrame s t))) ∧
     (sqOpc e = 0x10 → s.fw.job = none → bits (cdw e 10) 5 3 < 3 →
       (let slot := bits (cdw e 10) 2 0
        let run := s.fw.running.val
        let img := mread s.nvm.fwImage 0 s.nvm.fwEnd
        (slot = 0 ∨ 2 < slot → ∃ t, exec (.firmwareCommit k) s = .next t ∧ NvmeDone s t k l l' q c s.hmem (1, 0x06) 0 true ∧ t.fw = s.fw) ∧
        (1 ≤ slot → slot ≤ 2 → bits (cdw e 10) 5 3 = 2 →
          (blockVerifies s (slot - 1) = false → ∃ t, exec (.firmwareCommit k) s = .next t ∧
            NvmeDone s t k l l' q c s.hmem (1, 0x07) 0 true ∧ t.fw = s.fw) ∧
          (blockVerifies s (slot - 1) = true → ∃ t, exec (.firmwareCommit k) s = .next t ∧ (ctrl t f).cmds = (ctrl s f).cmds ∧
            ((t.fw.job.map fun j => (j.block, j.select, j.cmd)) = some (slot - 1,
              some (if slot - 1 = run then selBytes run (1 - run) 0 0 0 else selBytes (slot - 1) run 1 3 0), some k)) ∧ NvmeFrame s t)) ∧
        (1 ≤ slot → slot ≤ 2 → bits (cdw e 10) 5 3 < 2 → slot - 1 ≠ run →
          if verifyImage s img ≠ 0 then ∃ t, exec (.firmwareCommit k) s = .next t ∧ NvmeDone s t k l l' q c s.hmem (1, 0x07) 0 true ∧
            t.fw = s.fw
          else ∃ t, exec (.firmwareCommit k) s = .next t ∧ (ctrl t f).cmds = (ctrl s f).cmds ∧ (fwBlock t (slot - 1)).ok = false ∧
            ((t.fw.job.map fun j => (j.block, j.image, j.cmd)) = some (slot - 1, img.take (fld img 8 4), some k)) ∧ NvmeFrame s t))) ∧
     (∀ y, (ctrl s f).selfTest = some y →
       (y.stopped = false → ∃ t, exec (.selfTestStep k.ctrl .fail) s = .next t ∧ (ctrl t f).selfTest = none ∧
         (ctrl t f).stResults = (stResult 7 y.segment y (now s) 0 :: (ctrl s f).stResults).take 20 ∧ NvmeFrame s t) ∧
       (y.stopped = false → y.segment ≤ lastSegment y → y.step + 1 < segSteps s f y → ∃ t, exec (.selfTestStep k.ctrl .pass) s = .next t ∧
         (ctrl t f).selfTest = some { y with step := y.step + 1 } ∧ NvmeFrame s t) ∧
       (y.stopped = true → ((ctrl s f).cmds.any fun c => busyCommand c.sqe c.key.sq) = false →
         ∃ t, exec (.selfTestResume k.ctrl) s = .next t ∧ (ctrl t f).selfTest = some { y with stopped := false } ∧
           ((ctrl s f).hostAt + 1000000 < 2 ^ 64 → now t = max (now s) ((ctrl s f).hostAt + 1000000)) ∧ NvmeFrame s t)))) ∧
  (∀ (s : State) (k : CmdKey) (x : NCmd) (l l' : List NCmd) (q : Sq) (c : Cq), NvmeTurn s k x l l' q c → k.sq = 0 →
    (let f := k.ctrl.val
     let e := x.sqe
     let ns := sqNsid e
     (∀ p n s1 d, sqOpc e = 0x0D → bits (cdw e 10) 3 0 = 0 → f = 0 → hostGet s k e 4096 = .ok (s1, d) → fld d 102 2 = p + 1 → isActive s p = true →
       isSealed s p = false → fld d 26 1 = 0 → fld d 29 1 = 0 → fld d 0 8 ≠ 0 → fld d 8 8 = fld d 0 8 →
       (partCap s p < partUsed s p + fld d 0 8 * 4096 → ∃ t, exec (.namespaceManagement k) s = .next t ∧
         NvmeDone s t k l l' q c s.hmem (1, 0x15) 0 true ∧ t.ftl = s.ftl) ∧
       (partUsed s p + fld d 0 8 * 4096 ≤ partCap s p →
         (((List.range 64).map (· + 64 * p + 1)).find? fun n => (nsOf s n).isNone) = some n →
         ∃ t, exec (.namespaceManagement k) s = .next t ∧ NvmeDone s t k l l' q c s.hmem stOk n true ∧ NvmeFrame s t ∧
           nsOf t n = some { blocks := fld d 0 8, attached := 0, shared := bitAt (fld d 30 1) 0, epoch := 1, legacy := false } ∧
           (∀ m, m ≠ n → nsOf t m = nsOf s m))) ∧
     (sqOpc e = 0x0D → bits (cdw e 10) 3 0 = 1 → ns ≠ 0xFFFFFFFF → attachedTo s ns = [] →
       (nsVisible s f ns = false → ∃ t, exec (.namespaceManagement k) s = .next t ∧ NvmeDone s t k l l' q c s.hmem stNs 0 true ∧
         t.ftl = s.ftl) ∧
       (nsVisible s f ns = true → (journalDelete s ns).isSome = true → ∃ t, exec (.namespaceManagement k) s = .next t ∧
         NvmeDone s t k l l' q c s.hmem stOk 0 true ∧ NvmeFrame s t ∧ t.ftl.nss = tdel s.ftl.nss ns ∧ (∀ m ∈ t.ftl.claims, m.nsid ≠ ns)) ∧
       (nsVisible s f ns = true → journalDelete s ns = none → exec (.namespaceManagement k) s = .next s)) ∧
     (∀ s1 d y, sqOpc e = 0x15 → bits (cdw e 10) 3 0 = 0 → hostGet s k e 4096 = .ok (s1, d) → nsVisible s f ns = true → nsOf s ns = some y →
       fld d 0 2 = 1 → mayAttach s ns (fld d 2 2) = true → fld d 2 2 ≤ 16 →
       (y.attached.getLsbD (fld d 2 2) = true → ∃ t, exec (.namespaceAttachment k) s = .next t ∧
         NvmeDone s t k l l' q c s.hmem (1, 0x18) 0 true ∧ t.ftl = s.ftl) ∧
       (y.attached.getLsbD (fld d 2 2) = false → (tget 0 (ctrl s (fld d 2 2)).feats 0x0B).getLsbD 8 = false →
         ∃ t, exec (.namespaceAttachment k) s = .next t ∧ NvmeDone s t k l l' q c s.hmem stOk 0 true ∧ NvmeFrame s t ∧
           nsOf t ns = some { y with attached := y.attached ||| BitVec.twoPow 17 (fld d 2 2) } ∧
           (ns ∈ (ctrl t (fld d 2 2)).changedNs ∨ (ctrl t (fld d 2 2)).changedNs = [0xFFFFFFFF]))) ∧
     (∀ y, sqOpc e = 0x80 → nsVisible s f ns = true → nsOf s ns = some y → bits (cdw e 10) 11 9 ≤ 1 → bits (cdw e 10) 3 0 = 0 →
       bits (cdw e 10) 8 4 = 0 → bits (cdw e 10) 31 12 = 0 →
       (nsReady s ns = false → ∃ t, exec (.formatNvm k) s = .next t ∧ NvmeDone s t k l l' q c s.hmem stNotReady 0 false ∧ t.ftl = s.ftl) ∧
       (nsReady s ns = true → (nsReadOnly s ns).isSome = true → writesBefore s x [ns] = false → ∃ t, exec (.formatNvm k) s = .next t ∧
         NvmeDone s t k l l' q c s.hmem stProtected 0 true ∧ t.ftl = s.ftl) ∧
       (∀ s2, nsReady s ns = true → nsReadOnly s ns = none → claimed s ns 0 y.blocks = false → writesBefore s x [ns] = false →
         ftlJournal s .zeroes ns 0 y.blocks = some s2 →
         ∃ t, exec (.formatNvm k) s = .next t ∧ NvmeDone s t k l l' q c s.hmem stOk 0 true ∧ NvmeFrame s t ∧ t.ftl = s2.ftl) ∧
       (nsReady s ns = true → (writesBefore s x [ns] = true ∨ (nsReadOnly s ns = none ∧ claimed s ns 0 y.blocks = false ∧
         ftlJournal s .zeroes ns 0 y.blocks = none)) → exec (.formatNvm k) s = .next s))))

/-- The I/O commands (R366-R371, R393, R394, R402): each refuses a bad namespace or range with the status the rules give; Read returns the
newest data of its blocks; a native Write programs its pages, past its commit point, and one the legacy cache takes completes with its data
readable; Write Zeroes and Dataset Management are journalled; Flush completes. -/
def Obligations.NvmeInputOutput : Prop :=
  ∀ (s : State) (k : CmdKey) (x : NCmd) (l l' : List NCmd) (q : Sq) (c : Cq), NvmeTurn s k x l l' q c → k.sq ≠ 0 → earlierOverlap s x = false →
    x.committed = false →
    (let e := x.sqe
     let ns := sqNsid e
     let lba := ioLba e
     let n := ioCount e
     (∀ (opc : Nat) (row : Instr) (ranged data : Bool), (opc, row, ranged, data) ∈ [(1, Instr.write k, true, true),
         (2, .read k (.hard 0) 0, true, true), (8, .writeZeroes k, true, false), (9, .datasetManagement k, false, false)] →
       sqOpc e = opc → ∀ st d, ioCheck s k e ranged data = some (st, d) →
       ∃ t, exec row s = .next t ∧ NvmeDone s t k l l' q c s.hmem st 0 d ∧ NvmeFrame s t ∧ t.ftl = s.ftl) ∧
     (∀ bits lat ds ps, sqOpc e = 2 → ioCheck s k e true true = none → x.urgent = false →
       (∀ u, sensedUnit s ns lba n = some u → noteRead s ns u (.hard bits) = (s, true)) →
       dataPieces s e (n * 4096) = .ok (ds, ps) → (∀ i < n, (ftlBlock s ns (lba + i)).length = 4096) →
       ∃ t, exec (.read k (.hard bits) lat) s = .next t ∧
         NvmeDone s t k l l' q c (writePieces s.hmem ps (ftlRead s ns lba n)) stOk 0 true ∧ NvmeFrame s t ∧ t.ftl.map = s.ftl.map ∧
         tget 0 t.ftl.readCmds (nsPart ns) = tget 0 s.ftl.readCmds (nsPart ns) + 1 ∧
         tget 0 t.ftl.readBlocks (nsPart ns) = tget 0 s.ftl.readBlocks (nsPart ns) + n) ∧
     (sqOpc e = 1 → ioCheck s k e true true = none →
       (∀ st, Machine.writeRefused s ns lba n = some st → ∃ t, exec (.write k) s = .next t ∧ NvmeDone s t k l l' q c s.hmem st 0 true ∧
         NvmeFrame s t ∧ t.ftl = s.ftl) ∧
       (∀ s1 bs, Machine.writeRefused s ns lba n = none → hostGet s k e (n * 4096) = .ok (s1, bs) →
         (writeRoom s x = none → exec (.write k) s = .next s) ∧
         (cacheTakes s x = true → cacheBytes s (nsPart ns) + n * 4096 ≤ cacheCap s (nsPart ns) → drainRoom s (nsPart ns) n = true →
           ∃ t, exec (.write k) s = .next t ∧ NvmeDone s t k l l' q c s.hmem stOk 0 true ∧ NvmeFrame s t ∧
             (∀ i < n, ftlBlock t ns (lba + i) = slice bs (4096 * i) 4096) ∧ t.ftl.map = s.ftl.map) ∧
         (∀ s2 ws, cacheTakes s x = false → hostWritable s ns lba n = true →
           progPages (writeSeq s ((unitsOf lba n).map fun u => unitGroup s ns u.1)).1
             (writePages ns lba (writeSeq s ((unitsOf lba n).map fun u => unitGroup s ns u.1)).2 bs) = some (s2, ws) →
           (ws.all fun p => dieFree s p.2) = true →
           ∃ t y, exec (.write k) s = .next t ∧ findCmd t k = some y ∧ y.committed = true ∧ y.journalled = true ∧ y.pend = ws.map (·.2) ∧
             t.hmem = s.hmem ∧ t.out = s.out ∧ t.ftl.pages = s2.ftl.pages ∧ t.ftl.map = s.ftl.map ∧ NvmeFrame s t))) ∧
     (∀ s2, sqOpc e = 8 → ioCheck s k e true false = none → Machine.writeRefused s ns lba n = none →
       journalRanges .zeroes ns [(lba, n)] s = some s2 →
       ∃ t, exec (.writeZeroes k) s = .next t ∧ NvmeDone s t k l l' q c s.hmem stOk 0 true ∧ NvmeFrame s t ∧ t.ftl = s2.ftl) ∧
     (sqOpc e = 9 → ioCheck s k e false false = none →
       (bitAt (cdw e 11) 2 = false → ∃ t, exec (.datasetManagement k) s = .next t ∧ NvmeDone s t k l l' q c s.hmem stOk 0 true ∧
         NvmeFrame s t ∧ t.ftl = s.ftl) ∧
       (∀ s1 bs s2, bitAt (cdw e 11) 2 = true → hostGet s k e (16 * (Machine.bits (cdw e 10) 7 0 + 1)) = .ok (s1, bs) →
         (let rs := (dsmRanges bs (Machine.bits (cdw e 10) 7 0 + 1)).filter fun r => r.2 != 0
          (rs.any fun r => ((nsOf s ns).map (·.blocks)).getD 0 < r.1 + r.2) = false → (rs.findSome? fun r => Machine.writeRefused s ns r.1 r.2) = none →
          journalRanges .dealloc ns rs s = some s2 →
          ∃ t, exec (.datasetManagement k) s = .next t ∧ NvmeDone s t k l l' q c s.hmem stOk 0 true ∧ NvmeFrame s t ∧ t.ftl = s2.ftl))) ∧
     (sqOpc e = 0 → s.ftl.cache = [] →
       (ns = 0xFFFFFFFF ∨ ioCheck s k e false false = none → ∃ t, exec (.nvmeFlush k) s = .next t ∧
         NvmeDone s t k l l' q c s.hmem stOk 0 true ∧ NvmeFrame s t ∧ t.ftl = s.ftl)))

/-- Flash work (R382, R383, R389, R395-R411): a slot goes to URGENT up to 16 times a frame, then to BACKGROUND up to 8; folding, reclamation and
rewrite erase a superblock once nothing in it is valid, and rest where their condition fails; a patrol read counts what it meets; a checkpoint
holds the group's map as it stands; an hour's interval heads the temperature history.
NAND_OP_DONE and the hold-up bank (R389, R403, R407): the oldest operation of the kind on the die ends; the last erase of a superblock frees
it and counts a QLC erase, or a twentieth of one for SLC; a failed program or erase takes a spare and retires its plane-block. A measurement
is recorded, the Critical Warning says whether it is below 6.00 J, and one at or above that leaves every cache as it is. Where pages or the map
are said to stay, no shutdown waits for the cache, which what frees a superblock would drain. -/
def Obligations.FlashOperations : Prop :=
  ((∀ (s : State) (ch : Fin 128) (w : ChannelWaits), ∃ t, exec (.channelFrameSlot ch w) s = .next t ∧ { t with ftl := s.ftl } = s ∧
    (chan t ch.val).slot = (chan s ch.val).slot + 1 ∧ (∀ j, j ≠ ch.val → chan t j = chan s j) ∧
    (w.urgent = true → (chan s ch.val).urgent < 16 → (chan t ch.val).grant = 1) ∧
    (w.urgent = false ∨ 16 ≤ (chan s ch.val).urgent → w.background = true → (chan s ch.val).background < 8 → (chan t ch.val).grant = 4) ∧
    (w.urgent = false → w.background = false → w.host = true → w.service = false → (chan t ch.val).grant = 2) ∧
    (w.urgent = false → w.background = false → w.host = true → w.service = true →
      (chan t ch.val).grant = (if (chan s ch.val).lastHost then 3 else 2) ∧ (chan t ch.val).lastHost = !(chan s ch.val).lastHost) ∧
    (w.urgent = false → w.background = false → w.host = false → (chan t ch.val).grant = (if w.service then 3 else 0))) ∧
  (∀ (s : State) (g : GroupIx),
    (slcOverHalf (grp s g.val) = false → ∃ t, exec (.fold g) s = .next t ∧ t = updGrp s g.val fun x => { x with folding := false }) ∧
    (16 ≤ freeQlc (grp s g.val) → ∃ t, exec (.garbageCollect g) s = .next t ∧ t = updGrp s g.val fun x => { x with reclaiming := false }) ∧
    ((grp s g.val).toRewrite = [] → exec (.rewrite g) s = .next s) ∧
    (∀ k, validUnits (evacuate s g.val k) g.val k = 0 → NoShutdownWaits s →
      (let erased (t : State) : Prop := (sbOf (grp t g.val) k).st = .erasing ∧ k ∉ (grp t g.val).toRewrite ∧
         (∀ y ∈ t.ftl.pages, ¬(aGroup y.1 = g.val ∧ aBlock y.1 = k)) ∧ t.klv = s.klv ∧ t.nvm = s.nvm ∧ t.mem = s.mem
       (slcOverHalf (grp s g.val) = true → oldestSb (grp s g.val) slcSbs (fun k => (sbOf (grp s g.val) k).st == .closed) = some k →
         ∃ t, exec (.fold g) s = .next t ∧ erased t) ∧
       (freeQlc (grp s g.val) < 16 → victim s g.val = some k → ∃ t, exec (.garbageCollect g) s = .next t ∧ erased t) ∧
       (∀ ks, (grp s g.val).toRewrite = k :: ks → ∃ t, exec (.rewrite g) s = .next t ∧ erased t))) ∧
    (∀ (nsid : Word) (unit : Nat) (n : Fin 4), entryOf s nsid.toNat unit ≠ 0 → aGroup (entryOf s nsid.toNat unit) = g.val → n.val ≠ 0 →
      ∃ t, exec (.patrolRead g nsid unit (.soft n)) s = .next t ∧ { t with ftl := s.ftl } = s ∧
        (grp t g.val).soft = satInc (grp s g.val).soft ∧ (∀ k, unitSb (unitRec s nsid.toNat unit) = some k → k ∈ (grp t g.val).toRewrite)) ∧
    (∀ (nsid : Word) (unit : Nat) (b : Nat), entryOf s nsid.toNat unit ≠ 0 → aGroup (entryOf s nsid.toNat unit) = g.val →
      b ≤ (grp s g.val).thresh.toNat → exec (.patrolRead g nsid unit (.hard b)) s = .next s) ∧
    (0x100000000 ≤ (grp s g.val).journal → ∃ t, exec (.checkpoint g) s = .next t ∧ { t with ftl := s.ftl } = s ∧
      (grp t g.val).ckptMap = s.ftl.map.filter (fun e => aGroup e.2 == g.val) ∧ (grp t g.val).ckptSeq = coveredTo s g.val ∧
      (grp t g.val).ckptFrags = (grp s g.val).frags ∧ (grp t g.val).journal = 0) ∧
    (0 < (grp s g.val).journal → (grp s g.val).journal < 0x100000000 → (grp s g.val).ckptAt + 30000000000 < 2 ^ 64 →
      ∃ t, exec (.checkpoint g) s = .next t ∧ (grp s g.val).ckptAt + 30000000000 ≤ now t ∧ (grp t g.val).journal = 0) ∧
    ((grp s g.val).journal = 0 → exec (.checkpoint g) s = .next s)) ∧
  (∀ s : State, ∃ t, exec .tempHistoryInterval s = .next t ∧ t.ftl.temps.length = min 168 (s.ftl.temps.length + 1) ∧ t.ftl.tempAt = t.ts ∧
    t.ftl.hour = (0, 0, 0, 0, 0) ∧ t.mem = s.mem ∧
    (∀ count, s.ftl.hour.2.1 = count → count ≠ 0 → (t.ftl.temps.head?.map fun y => (y.min, y.max, y.mean)) =
      some (s.ftl.hour.2.2.1, s.ftl.hour.2.2.2.1, s.ftl.hour.1 / count)))) ∧
  ((∀ (s : State) (g : GroupIx) (die : Fin 36) (kind : NandKind) (ok : Bool) (o : DieOp),
    (grp s g.val).ops.find? (fun o => o.die == die.val && o.kind == kind) = some o →
    NoShutdownWaits s →
    (kind = .read → ∃ t, exec (.nandOpDone g die kind ok) s = .next t ∧
      (grp t g.val).ops = dropFirst (fun o => o.die == die.val && o.kind == kind) (grp s g.val).ops ∧ t.ftl.map = s.ftl.map) ∧
    (kind = .erase → ∃ t, exec (.nandOpDone g die kind ok) s = .next t ∧
      (grp t g.val).ops = dropFirst (fun o => o.die == die.val && o.kind == kind) (grp s g.val).ops ∧
      (grp t g.val).spare = (if ok then (grp s g.val).spare else (grp s g.val).spare - 1) ∧
      (ok = false → (grp s g.val).spare ≤ 1 → (grp s g.val).st ≠ 0 → (grp t g.val).st = 2) ∧
      (((dropFirst (fun o => o.die == die.val && o.kind == kind) (grp s g.val).ops).any fun p => p.kind == .erase && p.sb == o.sb) = false →
        (sbOf (grp t g.val) o.sb).st = .free ∧ (sbOf (grp t g.val) o.sb).next = 0 ∧
        (sbOf (grp t g.val) o.sb).erases = (sbOf (grp s g.val) o.sb).erases + (if 1114 ≤ o.sb then 1 else 20)) ∧
      t.ftl.map = s.ftl.map) ∧
    (kind = .program → ok = true → o.owner = none → ∃ t, exec (.nandOpDone g die kind ok) s = .next t ∧
      (grp t g.val).ops = dropFirst (fun o => o.die == die.val && o.kind == kind) (grp s g.val).ops ∧ t.ftl.map = s.ftl.map ∧
      t.ftl.pages = s.ftl.pages) ∧
    (∀ k x, kind = .program → ok = true → o.owner = some k → findCmd s k = some x → opsOf (dropOp s g.val die.val kind) k = false →
      ∃ t, exec (.nandOpDone g die kind ok) s = .next t ∧ t.ftl.pages = s.ftl.pages ∧
        tget 0 t.ftl.writeCmds (nsPart (sqNsid x.sqe)) = tget 0 s.ftl.writeCmds (nsPart (sqNsid x.sqe)) + 1 ∧
        tget 0 t.ftl.writtenBlocks (nsPart (sqNsid x.sqe)) = tget 0 s.ftl.writtenBlocks (nsPart (sqNsid x.sqe)) + ioCount x.sqe)) ∧
  (∀ (s : State) (energy : Nat),
    (∃ t, exec (.holdupMeasure energy) s = .next t ∧ t.ftl.energy = BitVec.ofNat 16 (min energy 0xFFFF) ∧ t.mem = s.mem ∧
      ∀ gs, criticalWarning t gs / 16 = bnat (decide (energy < 600))) ∧
    (600 ≤ energy → ∃ t, exec (.holdupMeasure energy) s = .next t ∧ t.ftl.cache = s.ftl.cache ∧ t.ftl.map = s.ftl.map ∧
      t.ftl.pages = s.ftl.pages ∧ t.slots = s.slots)))

/-- The MEDIA class (R397, R402, R403, R412, R413): a namespace or group that is not the partition's gives NOT_FOUND; NS_COMMIT advances the
epoch and returns it; NS_MODE refuses a namespace in use, and the legacy mode below 6.00 J, and otherwise sets the mode; NS_INFO and GROUP_INFO
describe; HOLDUP_TEST measures and returns the energy, the health logs saying nothing new. -/
def Obligations.MediaRequests : Prop :=
  ∀ (s : State) (r : ReqId) (x : Exec), Outlet s r x →
    (let ns := prm x 0x20 4
     let p := reqPart r
     (nsIn s p ns = none → ∀ (op : Nat) (row : Instr), (op, row) ∈ [(1, Instr.nsCommit r), (2, .nsMode r), (3, .nsInfo r)] → AtTurn s r x 8 op →
       ∃ t, exec row s = .next t ∧ OnlyMailboxAndHost s t r.mb.val ∧ Completes s t r x false (ansErr 0x0004)) ∧
     (∀ k, nsIn s p ns = some k →
       (AtTurn s r x 8 1 →
         (∀ g, nsReadOnly s ns = some g → ∃ t, exec (.nsCommit r) s = .next t ∧ OnlyMailboxAndHost s t r.mb.val ∧
           Completes s t r x false (ansErr 0x0102 g)) ∧
         (nsReadOnly s ns = none → (∀ z ∈ s.ftl.cache, z.1 ≠ ns) → RecordPage s ns → ∃ t, exec (.nsCommit r) s = .next t ∧ Completes s t r x true (ansOk (k.epoch + 1).toNat) ∧
           nsOf t ns = some { k with epoch := k.epoch + 1 } ∧ (∀ m, m ≠ ns → nsOf t m = nsOf s m) ∧ t.mem = s.mem)) ∧
       (AtTurn s r x 8 2 → nsReadOnly s ns = none →
         (nsBusy s ns = true → ∃ t, exec (.nsMode r) s = .next t ∧ OnlyMailboxAndHost s t r.mb.val ∧ Completes s t r x false (ansErr 0x0101)) ∧
         (nsBusy s ns = false → prm x 0x24 4 = 1 → s.ftl.energy.toNat < 600 → ∃ t, exec (.nsMode r) s = .next t ∧
           OnlyMailboxAndHost s t r.mb.val ∧ Completes s t r x false (ansErr 0x0100 s.ftl.energy.toNat)) ∧
         (nsBusy s ns = false → prm x 0x24 4 ≠ 1 ∨ 600 ≤ s.ftl.energy.toNat →
           k.legacy = (prm x 0x24 4 == 1) ∨ ((∀ z ∈ s.ftl.cache, z.1 ≠ ns) ∧ RecordPage s ns) → ∃ t, exec (.nsMode r) s = .next t ∧
           Completes s t r x true (ansOk 0) ∧ nsOf t ns = some { k with legacy := prm x 0x24 4 == 1 } ∧
           (∀ m, m ≠ ns → nsOf t m = nsOf s m) ∧ t.mem = s.mem)) ∧
       (AtTurn s r x 8 3 → ∃ t d, exec (.nsInfo r) s = .next t ∧ OnlyMailboxAndHost s t r.mb.val ∧ Completes s t r x false (ansOk 64 d) ∧
         d.length = 64 ∧ fld d 0 4 = ns ∧ fld d 4 4 = k.epoch.toNat ∧ fld d 8 1 = bnat k.legacy)) ∧
     (AtTurn s r x 8 4 →
       (isActive s p = true ∧ (prec s p).dieGroups.getLsbD ns = true ∧ ns < 32 → ∃ t d, exec (.groupInfo r) s = .next t ∧
         OnlyMailboxAndHost s t r.mb.val ∧ Completes s t r x false (ansOk 96 d) ∧ d.length = 96 ∧ fld d 0 4 = ns) ∧
       (isActive s p = false ∨ (prec s p).dieGroups.getLsbD ns = false → ∃ t, exec (.groupInfo r) s = .next t ∧
         OnlyMailboxAndHost s t r.mb.val ∧ Completes s t r x false (ansErr 0x0004))) ∧
     (∀ energy, AtTurn s r x 8 5 →
       (∃ t, exec (.holdupTest r energy) s = .next t ∧ t.ftl.energy = BitVec.ofNat 16 (min energy 0xFFFF) ∧ t.mem = s.mem) ∧
       (600 ≤ energy → healthWatch (bankSound (begunExec s r) energy) = bankSound (begunExec s r) energy →
         ∃ t, exec (.holdupTest r energy) s = .next t ∧ Completes s t r x false (ansOk (min energy 0xFFFF)))))

/-- Link states (R417, R421-R423, R440): the PHY of a port's link brings it UP; a link that loses its PHY, or gets no HELLO for 4.0 ms, leaves
UP, which is counted, and the eighth departure within 10 s holds it for 30 s, after which it is DOWN; HOLD places a link in HELD_ADMIN, and
RELEASE returns a held link to DOWN, refusing any other with BAD_STATE; a link without a use goes to UNUSED in DOWN's place. Each change is told to every partition. No other link changes.
The LINK class (R438, R439): LINK_INFO and NEIGHBOURS answer with the module's identity in its group and with every link's state; FORWARD
sends the inner request of its payload to the partner as a KLOVA_REQ and waits, and refuses one that itself has a payload. -/
def Obligations.LinkStates : Prop :=
  (∀ (s : State) (l : LinkIx),
    (∀ f, isTrunk s l.val = false → (portOf s l.val).isSome = true → s.rst.released = true → (link s l.val).st = 0 →
      ∃ t, exec (.linkUp l f) s = .next t ∧ LinkSet s t l.val { link s l.val with st := 1 } ∧ Told s t 0x0007 l.val ∧ t.ts = s.ts) ∧
    ((link s l.val).st = 4 → ∃ t, exec (.linkDown l) s = .next t ∧ LinkSet s t l.val { link s l.val with st := 0 } ∧ Told s t 0x0007 l.val) ∧
    ((link s l.val).st = 1 → ∃ t, exec (.linkDown l) s = .next t ∧ LinkSet s t l.val (departed (link s l.val) (now s)) ∧
      Told s t 0x0007 l.val) ∧
    ((link s l.val).st ≠ 1 → (link s l.val).st ≠ 4 → exec (.linkDown l) s = .next s) ∧
    ((link s l.val).st = 2 → ∃ t, exec (.flapHoldExpire l) s = .next t ∧ LinkSet s t l.val { link s l.val with st := linkIdle s l.val } ∧
      t.ts = (reach s (link s l.val).holdUntil).ts) ∧
    (isTrunk s l.val = true → (link s l.val).st = 1 →
      ∃ t, exec (.helloTimeout l) s = .next t ∧ t.ts = (reach s ((link s l.val).helloAt + 4000000)).ts ∧
        LinkSet s t l.val (departed (link s l.val) (now t))) ∧
    (∀ (r : ReqId) (x : Exec), Outlet s r x → prm x 0x20 1 = l.val →
      (AtTurn s r x 7 0x10 → (link s l.val).st ≠ 1 → (∀ n : Mb, (mbox s n.val).registered = false) →
        ∃ t, exec (.hold r) s = .next t ∧ Completes s t r x true (ansOk (link s l.val).st.val) ∧
          LinkSet s t l.val { link s l.val with st := 3 }) ∧
      (AtTurn s r x 7 0x10 → (link s l.val).st = 1 → (∀ n : Mb, (mbox s n.val).registered = false) →
        ∃ t, exec (.hold r) s = .next t ∧ Completes s t r x true (ansOk 1) ∧ (link t l.val).st = 3 ∧
          (link t l.val).downs = satInc (link s l.val).downs ∧ ∀ i, i ≠ l.val → link t i = link s i) ∧
      (AtTurn s r x 7 0x11 → (link s l.val).st ≠ 2 → (link s l.val).st ≠ 3 →
        ∃ t, exec (.linkRelease r) s = .next t ∧ Completes s t r x false (ansErr 0x0103 l.val) ∧ t.lnk = s.lnk) ∧
      (AtTurn s r x 7 0x11 → ((link s l.val).st = 2 ∨ (link s l.val).st = 3) → (∀ n : Mb, (mbox s n.val).registered = false) →
        ∃ t, exec (.linkRelease r) s = .next t ∧ Completes s t r x true (ansOk (link s l.val).st.val) ∧
          LinkSet s t l.val { link s l.val with st := linkIdle s l.val }))) ∧
  (∀ (s : State) (r : ReqId) (x : Exec), Outlet s r x →
    (AtTurn s r x 7 1 → ∃ t, exec (.linkInfo r) s = .next t ∧ OnlyMailboxAndHost s t r.mb.val ∧
      Completes s t r x false (ansOk 64 (fit (leBytes 8 s.ident.nodeId.toNat ++ leBytes 8 s.ident.macBase.toNat ++
        leBytes 8 s.prt.cfg.links.groupId.toNat ++ leBytes 1 s.rst.groupPos ++ leBytes 1 s.prt.cfg.links.present.toNat ++
        leBytes 1 (reachable s)) 64))) ∧
    (AtTurn s r x 7 2 → ∃ t bs, exec (.neighbours r) s = .next t ∧ OnlyMailboxAndHost s t r.mb.val ∧
      Completes s t r x false (ansOk 1536 bs) ∧ bs.length = 1536 ∧
      ∀ l, l < 96 → slice bs (16 * l) 1 = leBytes 1 (link s l).st.val ∧ slice bs (16 * l + 8) 8 = leBytes 8 (link s l).partnerNode.toNat) ∧
    (AtTurn s r x 7 3 → (mbox s r.mb.val).dmaBlock = false → forwarding (conn s (prm x 0x20 1) (reqPart r)) r = false →
      (let b := inPayload s x
       let q := prm x 0x20 1
       let p := reqPart r
       ((entList b = true ∨ fld b 0x10 8 ≠ 0) → ∃ t, exec (.forward r) s = .next t ∧ OnlyMailboxAndHost s t r.mb.val ∧
         Completes s t r x false (ansErr 0x0018)) ∧
       (entList b = false → fld b 0x10 8 = 0 → (conn s q p).waiting = [] → outstanding s q < 8192 →
         ∃ t m, exec (.forward r) s = .next t ∧ (conn t q p).msgs = (conn s q p).msgs ++ [m] ∧ m.kind = 0 ∧ m.payload = b ∧
           m.owner = .forward r ∧ m.psn = (conn s q p).nextPsn ∧ m.msn = (conn s q p).nextMsn ∧
           (conn t q p).nextMsn = ((conn s q p).nextMsn + 1) % 2 ^ 32 ∧ (mbox t r.mb.val).waiting = (mbox s r.mb.val).waiting ∧
           t.mem = s.mem))))

/-- HELLO_TX, LLDP_TX and received HELLOs (R418, R422, R425, R430): a transmitting trunk link sends its HELLO when it is due, with the
module's NODE_ID, group identity and incarnation, and the next is due 1.0 ms later; LLDP goes out every 30 s; a HELLO that matches brings the
link UP and is recorded, and one that does not match leaves it MISMATCH, or held at its eighth departure from UP within 10 s (R423). -/
def Obligations.HelloFrames : Prop :=
  ∀ (s : State) (l : LinkIx), transmits s l.val = true →
    (isTrunk s l.val = true →
      ∃ t h body, exec (.helloTx l) s = .next t ∧ t.ts = (reach s (link s l.val).helloDue).ts ∧
        t.out = s.out ++ [.frame l.val (evWrap s l.val 56) h body] ∧
        body = leBytes 8 s.ident.nodeId.toNat ++ leBytes 8 s.prt.cfg.links.groupId.toNat ++ leBytes 4 s.klv.incarnation.toNat ++ zeros 4 ∧
        fld h 1 1 = 4 ∧ fld h 3 1 = 0xFF ∧ fld h 0x1C 4 = evCheck h body % 2 ^ 32 ∧
        link t l.val = { link s l.val with helloDue := now t + 1000000, txEnd := max (link s l.val).txEnd (now t * 25) + 142 } ∧
        (∀ i, i ≠ l.val → link t i = link s i) ∧
        { t with lnk := s.lnk, out := s.out, ts := s.ts } = s) ∧
    ((isTrunk s l.val = true ∨ (portOf s l.val).isSome = true) →
      ∃ t b, exec (.lldpTx l) s = .next t ∧ t.ts = (reach s (link s l.val).lldpDue).ts ∧ t.out = s.out ++ [.ether l.val b] ∧
        link t l.val = { link s l.val with lldpDue := now t + 30000000000 } ∧ (∀ i, i ≠ l.val → link t i = link s i) ∧
        { t with lnk := s.lnk, out := s.out, ts := s.ts } = s) ∧
    (∀ (f : EvFrame) (q : Nat), isTrunk s l.val = true → (facing s l.val).map (·.1) = some q → frameBad f = false →
      fld f.header 1 1 = 4 →
      (let src := fld f.header 0x18 4
       let inc : Word := BitVec.ofNat 32 (fld f.payload 16 4)
       let shown : Link := { link s l.val with
         partnerPos := bits src 10 8, partnerLink := bits src 6 0, partnerNode := BitVec.ofNat 64 (fld f.payload 0 8), partnerInc := some inc }
       ∀ (row : Instr) (sts : List Nat), (row, sts) ∈ [(Instr.linkUp l f, [0]), (.evselHello l f, [1, 4])] → (link s l.val).st.val ∈ sts →
         (helloMatches s l.val f = true → ((trunk s q).incarnation = none ∨ (trunk s q).incarnation = some inc) →
           ∃ t, exec row s = .next t ∧ link t l.val = { shown with st := 1, helloAt := now s } ∧
             (trunk t q) = { trunk s q with incarnation := some inc } ∧ (∀ i, i ≠ l.val → link t i = link s i) ∧
             t.lnk.conns = s.lnk.conns ∧ { t with klv := s.klv, hmem := s.hmem, bus := s.bus, free := s.free, lnk := s.lnk } = s) ∧
         (helloMatches s l.val f = true → ∃ t, exec row s = .next t ∧ (link t l.val).st = 1 ∧ (link t l.val).helloAt = now s ∧
           (trunk t q).incarnation = some inc) ∧
         (helloMatches s l.val f = false → ∃ t, exec row s = .next t ∧
           (link t l.val).st = (if (link s l.val).st = 1 ∧ (departed (link s l.val) (now s)).st = 2 then 2 else 4) ∧
           t.lnk.trunks = s.lnk.trunks ∧ t.lnk.conns = s.lnk.conns ∧ (∀ i, i ≠ l.val → link t i = link s i) ∧
           { t with klv := s.klv, hmem := s.hmem, bus := s.bus, free := s.free, lnk := s.lnk } = s)))

/-- Frames of a connection (R425-R428, R431). EVSEL_ACK: an ACK_PSN that acknowledges something new ends the messages it covers, and any other
changes nothing. EVSEL_DATA that acknowledges nothing new: a packet already held or passed is counted as a duplicate; the one packet of a
whole message, at the expected number, joins the inbox; one beyond a gap is held and the gap noted. NACK_SEQ sends every unacknowledged
packet again and counts them; NACK_RNR notes that the partner is not ready. CANCEL ends the message it numbers, a FORWARD with REFUSED.
The timers of a connection (R426-R428): ACK_TIMER acknowledges 2 us after a packet came, GAP_TIMER tells a gap 4 us old; 50 us after a
NACK_RNR, and after RTO without progress, what is unacknowledged is sent again, RTO doubling up to 1,024 us; a message not acknowledged
within MSG_TIMEOUT, the time under NACK_RNR not counted, ends the epoch: the unacknowledged messages fail and are counted. -/
def Obligations.Connections : Prop :=
  (∀ (s : State) (l : LinkIx) (f : EvFrame) (q p : Nat),
    (let c := conn s q p
     let a := fld f.header 0xC 4
     let psn := fld f.header 8 4
     let unacked := if 15 ≤ c.unacked then 0 else c.unacked + 1
     let at' := if c.unacked = 0 then now s else c.unackedAt
     let k : EvPacket := { first := bitAt (fld f.header 2 1) 0, last := bitAt (fld f.header 2 1) 1, msn := fld f.header 0x10 4
                           kind := fld f.header 0x16 1, payload := f.payload }
     (FrameAt s l f 1 q p →
       (¬AckNew c a → exec (.evselAck l f) s = .next s) ∧
       (AckNew c a → NoneWaits s q → ∃ t, exec (.evselAck l f) s = .next t ∧
         (conn t q p).acked = a ∧ (conn t q p).rto = rtoUs s ∧ (conn t q p).progressAt = now s ∧ (conn t q p).nextPsn = c.nextPsn ∧
         (conn t q p).msgs = c.msgs.filter (fun m => ¬psnDist a (psnAdd m.psn (msgPackets m)) < 2 ^ 31) ∧ t.lnk.trunks = s.lnk.trunks)) ∧
     (FrameAt s l f 0 q p → ¬AckNew c a →
       ((2 ^ 31 ≤ psnDist psn c.rxBase ∨ (tfind? c.held psn).isSome = true) →
         ∃ t, exec (.evselData l f) s = .next t ∧ ConnSet s t q p { c with unacked := unacked, unackedAt := at' } ∧
           trunk t q = { trunk s q with dup := satInc (trunk s q).dup }) ∧
       (psn = c.rxBase → c.held = [] → k.last = true →
         ∃ t, exec (.evselData l f) s = .next t ∧ t.lnk.trunks = s.lnk.trunks ∧
           ConnSet s t q p { c with rxBase := psnAdd psn 1, unacked := unacked, unackedAt := at', gapAt := none
                                    inbox := c.inbox ++ [{ msn := k.msn, kind := k.kind, payload := k.payload, psn := psn, lastPsn := psn }] }) ∧
       (0 < psnDist psn c.rxBase → psnDist psn c.rxBase < 2 ^ 31 → tfind? c.held psn = none → tfind? c.held c.rxBase = none →
         ∃ t, exec (.evselData l f) s = .next t ∧ t.lnk.trunks = s.lnk.trunks ∧
           ConnSet s t q p { c with held := tput c.held psn k, unacked := unacked, unackedAt := at', gapAt := c.gapAt.or (some (now s)) })) ∧
     (FrameAt s l f 2 q p → ¬AckNew c a → blockBusy s 3 l.val = false →
       ∃ t, exec (.nackSeq l f) s = .next t ∧ ConnSet s t q p c ∧ t.out.length = s.out.length + unackedCount c ∧
         trunk t q = { trunk s q with retx := satAdd (trunk s q).retx (unackedCount c) }) ∧
     (FrameAt s l f 3 q p → ¬AckNew c a →
       ∃ t, exec (.nackRnr l f) s = .next t ∧ ConnSet s t q p { c with rnrAt := c.rnrAt.or (some (now s)) } ∧ t.out = s.out ∧
         trunk t q = { trunk s q with rnr := satInc (trunk s q).rnr }) ∧
     (FrameAt s l f 5 q p → ¬AckNew c a →
       (let n := fld f.header 0x10 4
        (c.msgs.find? (fun m => m.msn == n) = none →
          ∃ t, exec (.cancel l f) s = .next t ∧ t.out = s.out ∧
            ConnSet s t q p { c with inbox := c.inbox.filter fun m => !(m.msn == n && m.kind != 0) }) ∧
        (∀ m r x, c.msgs.find? (fun m => m.msn == n) = some m → m.owner = .forward r → findExec s r = some x → Outlet s r x →
          NoneWaits s q → ∃ t, exec (.cancel l f) s = .next t ∧ Completes s t r x false (ansErr 0x0101) ∧
            conn t q p = { c with msgs := dropFirst (fun m => m.msn == n) c.msgs }))))) ∧
  (∀ (s : State) (k : ConnId),
    (let q := k.pos.val
     let p := k.part.val
     let c := conn s q p
     (c.unacked ≠ 0 → ∃ t, exec (.ackTimer k) s = .next t ∧ ConnSet s t q p { c with unacked := 0 } ∧
       t.ts = (reach s (c.unackedAt + 2000)).ts ∧ t.out = (sendControl (reach s (c.unackedAt + 2000)) q p 1 0).out) ∧
     (∀ u, c.gapAt = some u → ∃ t, exec (.gapTimer k) s = .next t ∧ t.ts = (reach s (u + 4000)).ts ∧
       ConnSet s t q p { c with gapAt := some (now t) } ∧ t.out = (sendControl (reach s (u + 4000)) q p 2 0).out) ∧
     (∀ u, c.rnrAt = some u → ∃ t, exec (.rnrResendTimer k) s = .next t ∧ t.ts = (reach s (u + 50000)).ts ∧
       ConnSet s t q p { c with rnrAt := none, progressAt := now t
                                msgs := c.msgs.map fun m => { m with paused := m.paused + (now t - u) } } ∧
       trunk t q = { trunk s q with retx := satAdd (trunk s q).retx (unackedCount c) }) ∧
     (c.msgs ≠ [] → c.rnrAt = none →
       (∃ t, exec (.rtoExpire k) s = .next t ∧ t.ts = (reach s (c.progressAt + c.rto * 1000)).ts ∧
         ConnSet s t q p { c with rto := min 1024 (2 * c.rto), progressAt := now t } ∧
         trunk t q = { trunk s q with retx := satAdd (trunk s q).retx (unackedCount c) }) ∧
       (∀ m rest, c.msgs = m :: rest → NoneWaits s q →
         ∃ t, exec (.msgTimeoutExpire k) s = .next t ∧ t.ts = (reach s (m.sentAt + msgTimeout s * 1000 + m.paused)).ts ∧
           conn t q p = { c with txEpoch := (c.txEpoch + 1) % 2 ^ 32, nextPsn := 0, acked := 0, msgs := [], rnrAt := none } ∧
           trunk t q = { trunk s q with fail := satAdd (trunk s q).fail c.msgs.length }))))

/-- Messages consumed (R248, R250, R431, R438): the oldest message of a connection leaves its inbox and an acknowledgement is due; one that
names no rank of a launched job of the partition, or exceeds its landing area, is refused with a CANCEL and changes no memory. PUT writes the
landing area and counts its signal; GET_REQ is answered with GET_DATA; GET_DATA is delivered to the entry that asked; SIGNAL counts;
KLOVA_CPL completes the FORWARD whose inner request it answers, with PAYLOAD_RANGE where the out payload has no room for it; for a partition that
may not be reached each is refused. KLOVA_REQ is taken by the partition's Evsel mailbox, refused where it has none, and answered with NACK_RNR where the mailbox has no room. -/
def Obligations.MessagesConsumed : Prop :=
  ∀ (s : State) (k : ConnId) (i : InMsg) (rest : List InMsg), (conn s k.pos.val k.part.val).inbox = i :: rest →
    (let q := k.pos.val
     let p := k.part.val
     let c := consumedConn s (conn s q p) rest
     let u := updConn s q p fun _ => c
     (∀ m : PutMsg, i.kind = 2 →
       (targetJob s p m.job m.rank = none → ∃ t, exec (.put k m) s = .next t ∧ ConnSet s t q p c ∧ t.out = (refuseMsg s q p i).out) ∧
       (∀ j, targetJob s p m.job m.rank = some j →
         (jLanding j < m.off + m.data.length → ∃ t, exec (.put k m) s = .next t ∧ ConnSet s t q p c ∧
           t.out = (refuseMsg s q p i).out) ∧
         (m.off + m.data.length ≤ jLanding j → ∃ t, exec (.put k m) s = .next t ∧ conn t q p = c ∧ t.out = s.out ∧
           t.mem = (ncWrite u (jLandingArea j m.rank + m.off) m.data).mem ∧ (m.sig = none → t.slots = s.slots) ∧
           (∀ g d, m.sig = some g → j.clusters[m.rank]? = some d → OtherSlotsSame s t d j.slotIx ∧
             slot t d j.slotIx = { slot s d j.slotIx with sigcnt := tmod 0 (slot s d j.slotIx).sigcnt g.val (· + 1) })))) ∧
     (∀ m : GetMsg, i.kind = 3 →
       (targetJob s p m.job m.rank = none → ∃ t, exec (.getReq k m) s = .next t ∧ ConnSet s t q p c ∧
         t.out = (refuseMsg s q p i).out) ∧
       (∀ j, targetJob s p m.job m.rank = some j →
         (let a := jLandingArea j m.rank + m.off
          (jLanding j < m.off + m.len → ∃ t, exec (.getReq k m) s = .next t ∧ ConnSet s t q p c ∧ t.out = (refuseMsg s q p i).out) ∧
          (m.off + m.len ≤ jLanding j → poisoned s a m.len = false → (conn s q p).waiting = [] → outstanding s q < 8192 →
            ∃ t o, exec (.getReq k m) s = .next t ∧ t.mem = (ncRead u a m.len).mem ∧ (conn t q p).inbox = rest ∧
              (conn t q p).msgs = (conn s q p).msgs ++ [o] ∧ o.kind = 4 ∧ o.psn = (conn s q p).nextPsn ∧
              o.msn = (conn s q p).nextMsn ∧ t.slots = s.slots ∧
              o.payload = Config.remoteBytes 4 [m.fromJob.toNat, m.fromRank, m.runEpoch.toNat, m.tag] (mread t.mem a m.len))))) ∧
     (unreachable s p = true → ∀ (row : Instr) (kind : Nat), ((∃ x, row = .getData k x) ∧ kind = 4) ∨ (row = .klovaCpl k ∧ kind = 1) →
       i.kind = kind → ∃ t, exec row s = .next t ∧ ConnSet s t q p c ∧ t.out = (refuseMsg s q p i).out) ∧
     (∀ x : RemoteResp, i.kind = 4 → unreachable s p = false →
       (jobOf s x.job.toNat = none → ∃ t, exec (.getData k x) s = .next t ∧ conn t q p = c ∧ t.mem = s.mem ∧ t.slots = s.slots ∧
         (schPart t (bits x.job.toNat 15 12)).lateDrop = satInc (schPart s (bits x.job.toNat 15 12)).lateDrop) ∧
       (∀ (j : Job) (d : Nat) (e : Remote), jobOf s x.job.toNat = some j → j.st = .running → j.ending = none → j.runEpoch = x.runEpoch →
         j.clusters[x.rank]? = some d → (slot s d j.slotIx).remotes.find? (fun e => e.tag == x.tag && !e.landed) = some e →
         e.isPut = false →
         ∃ t, exec (.getData k x) s = .next t ∧ conn t q p = c ∧ OtherSlotsSame s t d j.slotIx ∧
           (slot t d j.slotIx).remotes = dropFirst (fun y => y.tag == x.tag) (slot s d j.slotIx).remotes ∧
           (slot t d j.slotIx).tkt = (finishedSlot (budgetOf s d) (slot s d j.slotIx) e.cmd.word).tkt)) ∧
     (∀ (h : Word) (rank : Nat) (g : Fin 16), i.kind = 5 →
       (targetJob s p h rank = none → ∃ t, exec (.signal k h rank g) s = .next t ∧ ConnSet s t q p c ∧
         t.out = (refuseMsg s q p i).out) ∧
       (∀ j d, targetJob s p h rank = some j → j.clusters[rank]? = some d →
         ∃ t, exec (.signal k h rank g) s = .next t ∧ conn t q p = c ∧ t.mem = s.mem ∧ OtherSlotsSame s t d j.slotIx ∧
           slot t d j.slotIx = { slot s d j.slotIx with sigcnt := tmod 0 (slot s d j.slotIx).sigcnt g.val (· + 1) })) ∧
     (i.kind = 1 → unreachable s p = false →
       (let fits (f : ReqId × List Byte) : Bool :=
          fld f.2 0 2 == fld i.payload 0 2 && fld f.2 4 4 == fld i.payload 4 4 && fld f.2 0xC 4 == fld i.payload 0xC 4
        ((conn s q p).forwards.find? fits = none → ∃ t, exec (.klovaCpl k) s = .next t ∧ ConnSet s t q p c ∧ t.out = s.out) ∧
        (∀ g x, (conn s q p).forwards.find? fits = some g → findExec s g.1 = some x → Outlet s g.1 x →
          ∃ t, exec (.klovaCpl k) s = .next t ∧
            (conn t q p).forwards = dropFirst (fun y => y.1 == g.1) (conn s q p).forwards ∧ (conn t q p).inbox = rest ∧
            Completes s t g.1 x false (if outRoom s x < i.payload.length then ansErr 0x0008
              else ansOk (i.payload.length - 32) i.payload)))) ∧
     (∀ n : Mb, n.val = 16 * p + 15 → i.kind = 0 → s.rst.ready = true → s.rst.halt = .no →
       ((isEvselMb s n.val = false ∨ unreachable s p = true ∨ i.payload.length < 64) →
         ∃ t, exec (.klovaReq k) s = .next t ∧ ConnSet s t q p c ∧ t.out = (refuseMsg s q p i).out) ∧
       (isEvselMb s n.val = true → unreachable s p = false → 64 ≤ i.payload.length →
         ((mbox s n.val).resetting = true ∨ roomFor s n.val (mbox s n.val) (i.payload.take 64) = false →
           ∃ t, exec (.klovaReq k) s = .next t ∧ t.out = (sendControl s q p 3 i.msn).out ∧
             ConnSet s t q p { conn s q p with rxBase := i.psn, inbox := [], held := [], gapAt := none }) ∧
         ((mbox s n.val).resetting = false → roomFor s n.val (mbox s n.val) (i.payload.take 64) = true →
           (BitVec.ofNat 32 (fld (i.payload.take 64) 4 4) : Word) = (mbox s n.val).nextHseq → entOow (i.payload.take 64) = false →
           ∃ t, exec (.klovaReq k) s = .next t ∧ conn t q p = c ∧ t.mem = s.mem ∧ t.slots = s.slots ∧
             (mbox t n.val).nextHseq = (mbox s n.val).nextHseq + 1 ∧ ∀ b, b ≠ n.val → mbox t b = mbox s b))))

/-- Reset sources (R448, R449, R451, R453, R454, R362, R465, R467, R468): POR, MOD_RST_N low, PERST_N low, WARM after a WARM_RESET or an NVMe
subsystem reset, and the watchdog 2.0 s after the last kick (WARM in its place in trial) each assert their source and reset its reach. A
level input that rises releases its source; a level that does not change does nothing; a pulse shorter than 1 us is counted; a kick starts the
watchdog again. -/
def Obligations.ResetSources : Prop :=
  ∀ s : State, s.memOk →
    (∃ t, exec .porAssert s = .next t ∧ Asserted s t 1 ∧ t.rst.por = true) ∧
    (s.rst.sbLevel.getLsbD 0 = true → ∃ t, exec (.modRstN (.level false)) s = .next t ∧ Asserted s t 2 ∧ t.rst.modRst = true ∧
      LevelSet s t 0 false) ∧
    (s.rst.sbLevel.getLsbD 0 = false → ∃ t, exec (.modRstN (.level true)) s = .next t ∧ { t with rst := s.rst } = s ∧
      t.rst.modRst = false ∧ LevelSet s t 0 true ∧ t.rst.active = s.rst.active) ∧
    (s.rst.sbLevel.getLsbD 1 = true → s.rst.halt = .no → ∃ t, exec (.perstN (.level false)) s = .next t ∧ Asserted s t 3 ∧
      t.rst.perst = true ∧ LevelSet s t 1 false) ∧
    (s.rst.sbLevel.getLsbD 1 = true → s.rst.halt = .thermal → ∃ t, exec (.perstN (.level false)) s = .next t ∧
      { t with rst := s.rst } = s ∧ t.rst.active = s.rst.active ∧ LevelSet s t 1 false) ∧
    (s.rst.sbLevel.getLsbD 1 = false → ∃ t, exec (.perstN (.level true)) s = .next t ∧ { t with rst := s.rst } = s ∧
      t.rst.perst = false ∧ LevelSet s t 1 true) ∧
    (∀ (i : Nat) (row : SbEvent → Instr), (i, row) ∈ [(0, Instr.modRstN), (1, .perstN), (2, .pwrbrkN), (3, .tsSyncN), (4, .wakeReqN)] →
      exec (row (.level (s.rst.sbLevel.getLsbD i))) s = .next s ∧
      ∃ t, exec (row .glitch) s = .next t ∧ { t with rst := s.rst } = s ∧ { t.rst with sbGlitch := s.rst.sbGlitch } = s.rst ∧
        tget 0 t.rst.sbGlitch i = satInc (tget 0 s.rst.sbGlitch i)) ∧
    (s.fw.warmAsked = true → s.rst.halt = .no → ∃ t, exec .warm s = .next t ∧ Asserted s t 4 ∧ t.rst.warm = true ∧ t.rst.heldAt = now s ∧
      t.fw.warmAsked = false) ∧
    (∀ (fn : Fn) (v : Word), fn.val = 0 → v = 0x4E564D65 → s.rst.active = false →
      (s.rst.halt = .no → ∃ t, exec (.nssr fn v) s = .next t ∧ Asserted s t 4 ∧ t.rst.warm = true ∧ t.nvm.nssro = true) ∧
      (s.rst.halt = .thermal → exec (.nssr fn v) s = .next s)) ∧
    (∀ (fn : Fn) (v : Word), (fn.val ≠ 0 ∨ v ≠ 0x4E564D65) → exec (.nssr fn v) s = .next s) ∧
    (s.rst.sage = true → s.rst.active = false → s.dbg.halted = 0 → s.rst.halt = .no →
      (let d := reach s (s.rst.kickAt + 2000000000)
       ∃ t, exec .wdt s = .next t ∧ Asserted d t (if s.fw.trial then 4 else 5) ∧ t.rst.heldAt = now d ∧
         (if s.fw.trial then t.rst.warm = true ∧ t.rst.wdt = s.rst.wdt else t.rst.wdt = true ∧ t.rst.warm = s.rst.warm))) ∧
    ((s.rst.sage = false ∨ s.rst.active = true ∨ s.dbg.halted ≠ 0) → exec .wdt s = .next s) ∧
    (∀ v : Word, v.getLsbD 0 = true → ∃ t, exec (.kick v) s = .next t ∧ t = { s with rst := { s.rst with kickAt := now s } }) ∧
    (∀ v : Word, v.getLsbD 0 = false → exec (.kick v) s = .next s)

/-- RESET_EXIT (R448, R451, R452, R457, R465, R506): while a source is asserted nothing happens; once none is, the module leaves reset, WARM and
WDT after their 100 us: Sage is released, every loop is locked, pending repairs are in effect, the straps are sampled after a reset that
reaches them, and RST_CAUSE and WIDEST tell of it; a PERST_N still low asserts instead. -/
def Obligations.ResetExit : Prop :=
  ∀ s : State,
    ((s.rst.active = false ∨ s.rst.por = true ∨ s.rst.modRst = true ∨ s.rst.perst = true) → exec .resetExit s = .next s) ∧
    (s.rst.active = true → s.rst.por = false → s.rst.modRst = false → s.rst.perst = false →
      (s.rst.halt = .thermal → (∃ x ∈ s.pwr.tj, 950 ≤ x.2) → exec .resetExit s = .next s) ∧
      ((s.rst.halt = .no ∨ ∀ x ∈ s.pwr.tj, x.2 < 950) →
        (s.rst.sbLevel.getLsbD 1 = true → ∃ t, exec .resetExit s = .next t ∧ t.rst.active = false ∧ t.rst.sage = true ∧
          t.rst.warm = false ∧ t.rst.wdt = false ∧ t.rst.halt = .no ∧ t.rst.cause = s.rst.cause ∧ t.rst.widest = s.rst.widest ∧
          t.rst.ready = false ∧ t.rst.exitTs = t.ts ∧ t.rst.kickAt = now t ∧
          t.ts = (if s.rst.warm || s.rst.wdt then (reach s (s.rst.heldAt + 100000)).ts else s.ts) ∧
          t.clk.locked = 0x3FFFF ∧ (∀ x ∈ t.ras.repairs, x.kind ≠ 4 ∨ s.rst.w ≤ 2 → x.inEffect = true) ∧ t.klv.mbs = [] ∧ t.sch = schReset ∧
          (if s.rst.w ≤ 2 then t.rst.bootSel = s.rst.strapPins.toNat % 4 ∧ t.rst.clkMode = s.rst.strapPins.getLsbD 2 ∧
              t.rst.groupPos = s.rst.strapPins.toNat / 8 % 8
            else t.rst.bootSel = s.rst.bootSel ∧ t.rst.clkMode = s.rst.clkMode ∧ t.rst.groupPos = s.rst.groupPos)) ∧
        (s.rst.sbLevel.getLsbD 1 = false → ∃ t, exec .resetExit s = .next t ∧ t.rst.active = true ∧ t.rst.perst = true ∧
          t.rst.w = min s.rst.w 3 ∧ t.rst.sage = false)))

/-- Losses of clock (R443, R445): a loop that loses lock is counted; CK01 asserts the watchdog's source, a domain of blocks fences, counts and resets
them and locks again, with every cluster of a compute die at its reset values, and any other domain asserts WARM; CK00 and a loop not locked
have nothing to lose. A lost reference clock is replaced by the local oscillator.
Block resets (R455, R456, R470): RST_BLOCK_REQ is ignored while a block reset is in progress, and without GO, or with a block that does not
exist, only takes its fields; otherwise the reset begins and the jobs of a cluster end. When the block is idle, or is fenced once the timeout
has run, it is at its reset values and BUSY falls; fenced blocks are counted. -/
def Obligations.ClockAndBlockResets : Prop :=
  (∀ s : State,
    (∀ d : Fin 18, (d.val = 0 ∨ s.rst.active = true ∨ s.clk.locked.getLsbD d.val = false) → exec (.pllLockLoss d) s = .next s) ∧
    (∀ d : Fin 18, d.val ≠ 0 → s.rst.active = false → s.clk.locked.getLsbD d.val = true →
      ∃ t, exec (.pllLockLoss d) s = .next t ∧
        (s.rst.halt = .no → domainBlocks d.val = [] → t.rst.active = true ∧ t.rst.sage = false ∧
          (d.val = 1 → t.rst.w = 5 ∧ t.rst.wdt = true ∧ t.clk.unlocks = satInc s.clk.unlocks ∧ t.clk.locked.getLsbD 1 = false) ∧
          (d.val ≠ 1 → t.rst.w = 4 ∧ t.rst.warm = true ∧ t.clk.unlocks = satInc s.clk.unlocks ∧ t.clk.locked.getLsbD d.val = false)) ∧
        (domainBlocks d.val ≠ [] → t.rst = { s.rst with blkTimedOut := true, blkFenced := t.rst.blkFenced } ∧
          (s.rst.blkFenced.toNat + (domainBlocks d.val).length < 2 ^ 32 →
            t.rst.blkFenced.toNat = s.rst.blkFenced.toNat + (domainBlocks d.val).length) ∧
          t.clk.locked = s.clk.locked ∧ t.clk.unlocks = satInc s.clk.unlocks ∧
          ∀ c i, (0, c) ∈ domainBlocks d.val → i < 4 → slot t c i = slotReset)) ∧
    (s.rst.clkMode = false → s.clk.source = false → ∃ t, exec .refclkLost s = .next t ∧
      t = { s with clk := { s.clk with source := true, refLost := true } }) ∧
    ((s.rst.clkMode = true ∨ s.clk.source = true) → exec .refclkLost s = .next s)) ∧
  (∀ s : State,
    (∀ v : Word, s.rst.blkBusy = true → exec (.blockReset v) s = .next s) ∧
    (∀ v : Word, s.rst.blkBusy = false →
      ∃ t, exec (.blockReset v) s = .next t ∧ t.rst.blkIndex.toNat = v.toNat % 256 ∧ t.rst.blkType.toNat = v.toNat / 256 % 8 ∧
        t.rst.active = s.rst.active ∧
        ((v.getLsbD 11 = false ∨ blockExists (v.toNat / 256 % 8) (v.toNat % 256) = false ∨ s.rst.active = true) →
          t.rst.blkBusy = false ∧ { t with rst := s.rst } = s) ∧
        (v.getLsbD 11 = true → blockExists (v.toNat / 256 % 8) (v.toNat % 256) = true → s.rst.active = false →
          t.rst.blkBusy = true ∧ t.rst.blkAt = now s ∧ t.ras.seq = s.ras.seq + 1 ∧
          (v.toNat / 256 % 8 ≠ 0 → t.sch = s.sch ∧ t.slots = s.slots ∧ t.mem = s.mem) ∧
          (v.toNat / 256 % 8 = 0 → ∀ k j, tfind? s.sch.jobs k = some j → j.clusters.contains (v.toNat % 256) = true → j.ending = none →
            ∃ j', tfind? t.sch.jobs k = some j' ∧ j'.st = .ended ∧ j'.clusters = []))) ∧
    (s.rst.blkBusy = false → exec .blockIdle s = .next s ∧ exec .blockResetTimeout s = .next s) ∧
    (s.rst.blkBusy = true → ∀ (timedOut : Bool) (row : Instr), (timedOut, row) ∈ [(false, Instr.blockIdle), (true, .blockResetTimeout)] →
      ∃ t, exec row s = .next t ∧ t.rst.blkBusy = false ∧
        t.rst.blkTimedOut = timedOut ∧ t.rst.blkFenced = (if timedOut then satInc s.rst.blkFenced else s.rst.blkFenced) ∧
        t.ts = (if timedOut then (reach s (s.rst.blkAt + s.rst.blkTimeout.toNat * 1000)).ts else s.ts) ∧
        (let ix := s.rst.blkIndex.toNat
         (s.rst.blkType = 0 → ix < 32 → (∀ i, i < 4 → slot t ix i = slotReset) ∧
           (∃ b, cluster t ix = { clusterReset with katDone := true, katFail := b, thyWords := 64 }) ∧
           tget [] t.coh.caches ix = [] ∧ (∀ c i, c ≠ ix → i < 4 → slot t c i = slot s c i)) ∧
         (s.rst.blkType = 1 → t.ing.engines = tdel s.ing.engines ix ∧ t.slots = s.slots) ∧
         (s.rst.blkType = 2 → t.ftl.chans = tdel s.ftl.chans ix ∧ t.srch.chans = tdel s.srch.chans ix ∧ t.slots = s.slots) ∧
         (s.rst.blkType = 3 → t.slots = s.slots ∧ (link t ix).st =
           (if (link s ix).st = 2 ∨ (link s ix).st = 3 ∨ (link s ix).st = 5 then (link s ix).st else linkIdle s ix)) ∧
         (s.rst.blkType = 4 → t.slots = s.slots ∧ t.mem = s.mem))))

/-- Power (R448, R459-R463, R466, R401): a sample is recorded with the calibration's gains, a dip of one sample is counted, and POR is released,
with the timestamp at 0, by the 10,000th sample in a row within 42.0-60.0 V; a loss of power counts, asserts POR and sets RST_CAUSE; the
control's tick lowers the dies together, then raises the withholding level, a step each millisecond while a mean is above the cap in force, and
gives them back after 10 ms well under it; each die slews to the point the two controls leave it; a falling PWRBRK_N lowers nothing while both
means are within its cap, and otherwise takes steps whose number no one states. -/
def Obligations.PowerControl : Prop :=
  ∀ s : State,
    (∀ cv w m10 m1 : Nat,
      (let gv := calEffective s 2 0
       let gi := calEffective s 3 0
       let v := withGain cv gv
       let n := if 4200 ≤ v ∧ v ≤ 6000 then s.rst.inRange + 1 else 0
       ∃ t, exec (.powerSample cv w m10 m1) s = .next t ∧ t.pwr.volts.toNat = min v 0xFFFF ∧
         t.pwr.mean10.toNat = min (withGain (withGain m10 gv) gi) 0xFFFF ∧ t.pwr.mean1s.toNat = min (withGain (withGain m1 gv) gi) 0xFFFF ∧
         t.pwr.low = (if v < 3800 then s.pwr.low + 1 else 0) ∧
         t.pwr.dips = (if 3800 ≤ v ∧ s.pwr.low = 1 then satInc s.pwr.dips else s.pwr.dips) ∧
         { t with pwr := s.pwr, rst := s.rst, ts := s.ts, ftl := s.ftl } = s ∧
         (s.rst.por = false → t.rst = s.rst ∧ t.ts = s.ts ∧ t.ftl = s.ftl) ∧
         (s.rst.por = true → n < 10000 → t.rst = { s.rst with inRange := n } ∧ t.ts = s.ts ∧ t.ftl = s.ftl) ∧
         (s.rst.por = true → 10000 ≤ n → t.rst = { s.rst with inRange := 0, por := false } ∧ t.ts = 0 ∧
           t.ftl = { s.ftl with powerCycles := s.ftl.powerCycles + 1 }))) ∧
    (∀ rails : Bool, (s.pwr.low = 0 ∨ s.rst.por = true) → exec (.powerLoss rails) s = .next s) ∧
    (∀ rails : Bool, s.pwr.low ≠ 0 → s.rst.por = false →
      ∃ t, exec (.powerLoss rails) s = .next t ∧ t.rst.por = true ∧ t.rst.active = true ∧ t.rst.w = (if s.rst.active then min s.rst.w 1 else 1) ∧
        t.rst.cause = ((s.rst.cause ||| 0x40) &&& 0x60) ||| 1 ∧ t.rst.sage = false ∧ t.ts = 0 ∧ t.klv.mbs = [] ∧ t.sch = schReset ∧
        t.ftl.powerLosses = satInc s.ftl.powerLosses ∧
        t.ftl.unsafeShutdowns = s.ftl.unsafeShutdowns + (if (ctrl s 0).shst = 2 then 0 else 1)) ∧
    (∀ d : Fin 4, ∃ t, exec (.operatingPointChange d) s = .next t ∧ { t with clk := s.clk } = s ∧ { t.clk with point := s.clk.point } = s.clk ∧
      tget 0 t.clk.point d.val = min 4 (s.pwr.pPoint + tget 0 s.pwr.tPoint d.val) ∧
      ∀ i, i ≠ d.val → tget 0 t.clk.point i = tget 0 s.clk.point i) ∧
    (s.rst.por = true → exec .powerControlTick s = .next s) ∧
    (s.rst.por = false →
      (let cap := capInForce s
       let overCap := cap < s.pwr.mean1s.toNat ∨ 11 * cap < 10 * s.pwr.mean10.toNat
       let under := 100 * s.pwr.mean1s.toNat ≤ 95 * cap ∧ 1000 * s.pwr.mean10.toNat ≤ 95 * 11 * cap
       let due := s.pwr.pStepAt + 1000000 ≤ now s ∨ s.pwr.pStepAt = 0
       ∃ t, exec .powerControlTick s = .next t ∧ { t with pwr := s.pwr, klv := s.klv, hmem := s.hmem, bus := s.bus, free := s.free } = s ∧
         (overCap → due → t.pwr.throttling = true ∧ t.pwr.pCalm = none ∧ t.pwr.pStepAt = now s ∧
           (if s.pwr.pPoint < 4 then t.pwr.pPoint = s.pwr.pPoint + 1 ∧ t.pwr.pLevel = s.pwr.pLevel
             else t.pwr.pPoint = s.pwr.pPoint ∧ t.pwr.pLevel = min 15 (s.pwr.pLevel + 1)) ∧
           (s.pwr.throttling = false → Told s t 0x0003 1)) ∧
         ((overCap ∧ ¬due ∨ ¬overCap ∧ ¬under) → t.pwr = { s.pwr with pCalm := none } ∧ t.klv = s.klv) ∧
         (¬overCap → under → s.pwr.pCalm = none → t.pwr.pCalm = some (now s) ∧ t.pwr.pPoint = s.pwr.pPoint ∧ t.pwr.pLevel = s.pwr.pLevel) ∧
         (¬overCap → under → due → ∀ u, s.pwr.pCalm = some u → u + 10000000 ≤ now s → (s.pwr.pLevel ≠ 0 ∨ s.pwr.pPoint ≠ 0) →
           t.pwr.pStepAt = now s ∧ t.pwr.pCalm = some u ∧
           (if 0 < s.pwr.pLevel then t.pwr.pLevel = s.pwr.pLevel - 1 ∧ t.pwr.pPoint = s.pwr.pPoint
             else t.pwr.pLevel = 0 ∧ t.pwr.pPoint = s.pwr.pPoint - 1) ∧
           (t.pwr.pLevel = 0 → t.pwr.pPoint = 0 → t.pwr.throttling = false)))) ∧
    (s.rst.sbLevel.getLsbD 2 = true →
      (let cap := min (psWatts s s.nvm.ps.val) 800
       ∃ t, exec (.pwrbrkN (.level false)) s = .next t ∧ LevelSet s t 2 false ∧
         (s.pwr.mean1s.toNat ≤ cap → 10 * s.pwr.mean10.toNat ≤ 11 * cap → { t with rst := s.rst } = s) ∧
         ((cap < s.pwr.mean1s.toNat ∨ 11 * cap < 10 * s.pwr.mean10.toNat) → t.pwr.pStepAt = now s ∧ t.pwr.pCalm = none ∧
           s.pwr.pPoint ≤ t.pwr.pPoint ∧ t.pwr.pPoint ≤ max s.pwr.pPoint 4 ∧ s.pwr.pLevel ≤ t.pwr.pLevel ∧
           (t.pwr.pPoint ≠ 0 → t.pwr.throttling = true)))) ∧
    (s.rst.sbLevel.getLsbD 2 = false → ∃ t, exec (.pwrbrkN (.level true)) s = .next t ∧ LevelSet s t 2 true ∧ { t with rst := s.rst } = s)

/-- Temperatures (R464-R466, R535, R538): a sample gives each die its hottest sensor; 115.0 degrees halts the module, resets it and is counted;
at 100.0 degrees and above each hot compute die goes a point down, and at the last point, or for a hot DX, the withholding level rises, a step
each millisecond; below 95.0 degrees for 10 ms a step is given back each millisecond. IN_ENVELOPE falls at once outside the envelope and rises
after 1 s inside it. -/
def Obligations.ThermalControl : Prop :=
  (∀ (s : State) (temps : List Int),
    (let hot (d : Nat) (x : Int) : Prop := x ≤ hottest s temps d
     let any (x : Int) : Prop := ∃ d, d < 5 ∧ hot d x
     let due := s.pwr.tStepAt + 1000000 ≤ now s ∨ s.pwr.tStepAt = 0
     ∃ t, exec (.thermalSample temps) s = .next t ∧ t.ts = s.ts ∧ (∀ d, d < 5 → tget 0 t.pwr.tj d = hottest s temps d) ∧
       t.pwr.inlet = (temps[40]?).getD 0 / 10 ∧ t.pwr.outlet = (temps[41]?).getD 0 / 10 ∧
       (any 1150 → s.rst.halt = .no → t.rst.halt = .thermal ∧ t.rst.cause = s.rst.cause ||| 0x20 ∧ t.pwr.trips = satInc s.pwr.trips ∧
         t.rst.sage = false ∧ t.klv.mbs = [] ∧ t.sch = schReset) ∧
       (¬any 1150 → t.rst = s.rst ∧ t.mem = s.mem ∧ t.slots = s.slots ∧ t.sch = s.sch) ∧
       (¬any 1150 → any 1000 → due → t.pwr.tStepAt = now s ∧ t.pwr.tCalm = none ∧ t.pwr.thermal = true ∧
         (∀ d, d < 4 → tget 0 t.pwr.tPoint d = if hot d 1000 ∧ s.pwr.pPoint + tget 0 s.pwr.tPoint d < 4
           then tget 0 s.pwr.tPoint d + 1 else tget 0 s.pwr.tPoint d) ∧
         t.pwr.tLevel = if hot 4 1000 ∨ ∃ d, d < 4 ∧ hot d 1000 ∧ 4 ≤ s.pwr.pPoint + tget 0 s.pwr.tPoint d
           then min 15 (s.pwr.tLevel + 1) else s.pwr.tLevel) ∧
       (¬any 1150 → (any 1000 ∧ ¬due ∨ ¬any 1000 ∧ any 950) → t.pwr.tCalm = none ∧ t.pwr.tLevel = s.pwr.tLevel ∧
         t.pwr.tPoint = s.pwr.tPoint ∧ t.pwr.tStepAt = s.pwr.tStepAt) ∧
       (¬any 950 → s.pwr.tCalm = none → t.pwr.tCalm = some (now s) ∧ t.pwr.tLevel = s.pwr.tLevel ∧ t.pwr.tPoint = s.pwr.tPoint) ∧
       (¬any 950 → due → s.pwr.thermal = true → ∀ u, s.pwr.tCalm = some u → u + 10000000 ≤ now s →
         t.pwr.tStepAt = now s ∧ (0 < s.pwr.tLevel → t.pwr.tLevel = s.pwr.tLevel - 1 ∧ t.pwr.tPoint = s.pwr.tPoint) ∧
         (s.pwr.tLevel = 0 → t.pwr.tLevel = 0 ∧ t.pwr.tPoint = (s.pwr.tPoint.map fun x => (x.1, x.2 - 1)).filter fun x => x.2 != 0)))) ∧
  (∀ (s : State) (inlet : Int),
    (let inside := insideEnvelope { s with pwr := { s.pwr with inlet := inlet } } = true
     ∃ t, exec (.envelopeSample inlet) s = .next t ∧ { t with pwr := s.pwr, prt := s.prt } = s ∧ t.pwr.inlet = inlet ∧
       { t.prt with inEnvelope := s.prt.inEnvelope } = s.prt ∧
       (¬inside → t.prt.inEnvelope = false ∧ t.pwr.envSince = none) ∧
       (inside → s.pwr.envSince = none → t.pwr.envSince = some (now s) ∧ t.prt.inEnvelope = s.prt.inEnvelope) ∧
       (inside → ∀ u, s.pwr.envSince = some u → t.pwr.envSince = some u ∧
         t.prt.inEnvelope = if u + 1000000000 ≤ now s then true else s.prt.inEnvelope)))

/-- Event inputs (R467-R469, R381): the falling edge of TS_SYNC_N captures the timestamp, and that of WAKE_REQ_N wakes the module from PS3 and
PS4, unless the input is masked or the last event was accepted less than 100 us ago, which is counted; the thousandth accepted within 1 s masks
the input, with an entry in the log. -/
def Obligations.EventInputs : Prop :=
  ∀ (s : State) (i : Nat) (row : SbEvent → Instr), (i, row) ∈ [(3, Instr.tsSyncN), (4, .wakeReqN)] →
    (s.rst.sbLevel.getLsbD i = false → ∃ t, exec (row (.level true)) s = .next t ∧ LevelSet s t i true ∧ { t with rst := s.rst } = s ∧
      t.rst.tsSync = s.rst.tsSync ∧ t.rst.sbLast = s.rst.sbLast) ∧
    (s.rst.sbLevel.getLsbD i = true →
      (let soon := ∃ u, tfind? s.rst.sbLast i = some u ∧ now s < u + 100000
       let recent := (tget [] s.rst.sbRecent i).filter fun u => decide (now s < u + 1000000000)
       ∃ t, exec (row (.level false)) s = .next t ∧ LevelSet s t i false ∧
         (s.rst.sbMask.getLsbD (i - 3) = true → { t with rst := s.rst } = s ∧ t.rst.tsSync = s.rst.tsSync ∧ t.rst.sbDropped = s.rst.sbDropped) ∧
         (s.rst.sbMask.getLsbD (i - 3) = false → soon → { t with rst := s.rst } = s ∧ t.rst.tsSync = s.rst.tsSync ∧
           tget 0 t.rst.sbDropped i = satInc (tget 0 s.rst.sbDropped i)) ∧
         (s.rst.sbMask.getLsbD (i - 3) = false → ¬soon → tfind? t.rst.sbLast i = some (now s) ∧
           tget [] t.rst.sbRecent i = recent ++ [now s] ∧
           (i = 3 → t.rst.tsSync = s.ts ∧ t.nvm = s.nvm) ∧
           (i = 4 → t.nvm.ps = (if 3 ≤ s.nvm.ps.val then s.nvm.lastOp else s.nvm.ps) ∧ t.rst.tsSync = s.rst.tsSync) ∧
           (recent.length < 999 → t.rst.sbMask = s.rst.sbMask ∧ t.ras = s.ras ∧ t.klv = s.klv) ∧
           (999 ≤ recent.length → t.rst.sbMask.getLsbD (i - 3) = true ∧ t.ras.seq = s.ras.seq + 1))))

/-- The management endpoint (R469, R533-R535): it answers from when Klova is ready until the next reset, and otherwise a command does
nothing. Every command is answered with one message: Configuration Set clears masks of event inputs and bits of RST_CAUSE where its value has
ones, sets the SMBus frequency, and takes a transmission unit of 64 alone; every query changes nothing; an unsupported identifier gives Invalid
Command Opcode. An I3C controller gives the endpoint its dynamic address. The messages' layouts are the model's (log entry 65). -/
def Obligations.Management : Prop :=
  ∀ s : State,
    (miAnswers s = false → ∀ row : Instr,
      ((∃ id v, row = .configurationSet id v) ∨ (∃ id, row = .configurationGet id) ∨ (∃ d, row = .readNvmeMiDataStructure d) ∨
        row = .subsystemHealthStatusPoll ∨ row = .controllerHealthStatusPoll ∨ (∃ o n, row = .vpdRead o n) ∨
        (∃ e, row = .tunnelledAdmin e) ∨ (∃ a, row = .dynamicAddressAssignment a)) → exec row s = .next s) ∧
    (miAnswers s = true →
      (∀ (id : Byte) (v : Word), ∃ t b, exec (.configurationSet id v) s = .next t ∧ t.out = s.out ++ [.mi b] ∧
        (id = 0xC0 → t.rst.sbMask = s.rst.sbMask &&& ~~~ (v.setWidth 2) ∧ { t with rst := s.rst, out := s.out } = s ∧
          b = miOk [] ∧ t.rst.cause = s.rst.cause) ∧
        (id = 0xC1 → t.rst = { s.rst with cause := s.rst.cause &&& ~~~ (v.setWidth 7) } ∧ b = miOk [] ∧
          { t with rst := s.rst, out := s.out } = s) ∧
        (id = 0x01 → { t with mi := s.mi, out := s.out } = s ∧
          (if 1 ≤ v.toNat / 256 % 16 ∧ v.toNat / 256 % 16 ≤ 3 then t.mi.smbusFreq.toNat = v.toNat / 256 % 16 ∧ b = miOk []
            else t.mi = s.mi ∧ b = miBadParam)) ∧
        (id = 0x03 → { t with out := s.out } = s ∧ b = if v.toNat / 65536 = 64 then miOk [] else miBadParam) ∧
        (id ∉ [0x01, 0x03, 0xC0, 0xC1] → { t with out := s.out } = s ∧ b = miBadOpcode)) ∧
      (∀ id : Byte, ∃ t b, exec (.configurationGet id) s = .next t ∧ t = { s with out := s.out ++ [.mi b] } ∧
        (id = 0xC0 → b = miOk (leBytes 4 s.rst.sbMask.toNat)) ∧ (id = 0x01 → b = miOk (leBytes 4 s.mi.smbusFreq.toNat)) ∧
        (id = 0xC1 → b = miOk (leBytes 4 (s.rst.cause.toNat + s.rst.widest % 8 * 256))) ∧ (id = 0x03 → b = miOk (leBytes 4 64)) ∧
        (id ∉ [0x01, 0x03, 0xC0, 0xC1] → b = miBadOpcode)) ∧
      (∀ d : Byte, ∃ t b, exec (.readNvmeMiDataStructure d) s = .next t ∧ t = { s with out := s.out ++ [.mi b] } ∧
        (4 < d.toNat → b = miBadParam)) ∧
      (∃ t b, exec .subsystemHealthStatusPoll s = .next t ∧ t = { s with out := s.out ++ [.mi b] }) ∧
      (∃ t b, exec .controllerHealthStatusPoll s = .next t ∧ t = { s with out := s.out ++ [.mi b] }) ∧
      (∀ o n : Nat, ∃ t, exec (.vpdRead o n) s = .next t ∧
        t = { s with out := s.out ++ [.mi (if 256 < o + n then miBadParam else miOk (slice (vpd s) o n))] }) ∧
      (∀ e : List Byte, ∃ t b, exec (.tunnelledAdmin e) s = .next t ∧ t.out = s.out ++ [.mi b] ∧ t.mem = s.mem ∧ t.klv = s.klv ∧
        (sqOpc e = 0x06 → { t with out := s.out } = s) ∧ (sqOpc e = 0x0A → { t with out := s.out } = s) ∧
        (sqOpc e ∉ [0x02, 0x06, 0x0A] → { t with out := s.out } = s ∧ b = tunnelled stOpcode 0 [])) ∧
      (∀ a : BitVec 7, ∃ t, exec (.dynamicAddressAssignment a) s = .next t ∧ t = { s with mi := { s.mi with dynamicAddr := some a } }))

/-- The CAL class (R485-R487): READ and BOOT_STATUS answer and change nothing; WRITE checks its whole payload first, then waits for its
USER_CAL record, as CLEAR does, with the offsets as they were until the record is written; WARM_RESET completes and WARM follows;
RECOVERY_LOAD is refused outside recovery boot, and refuses an image that does not verify with the check that failed; one that verifies is
started, or is first written to the block asked for. -/
def Obligations.CalRequests : Prop :=
  ∀ (s : State) (r : ReqId) (x : Exec), Outlet s r x →
    (let stays (t : State) : Prop := (findExec t r).isSome = true ∧ (mbox t r.mb.val).waiting = (mbox s r.mb.val).waiting ∧
       t.hmem = s.hmem ∧ t.fw.offsets = s.fw.offsets ∧ { t with klv := s.klv, fw := s.fw, bus := s.bus } = s
     let appends (t : State) (body : List Byte) : Prop := .append 3 body ∈ t.fw.ops ∨ t.fw.cur = some (.op (.append 3 body))
     (AtTurn s r x 0x0B 1 → ∃ t b, exec (.calRead r) s = .next t ∧ OnlyMailboxAndHost s t r.mb.val ∧ Completes s t r x false (ansOk 236 b) ∧
       b.length = 3776 ∧ ∀ i, i < 40 → slice b (16 * i + 12) 4 = leBytes 4 (unsign 32 (calEffective s 1 i))) ∧
     (AtTurn s r x 0x0B 2 → s.fw.waits.any (fun w => w.1 == r) = false →
       (let b := inPayload s x
        let bad := badCalEntry b
        let res := (List.range (b.length / 8)).find? fun i => fld b (8 * i + 2) 2 != 0
        (s.fw.factoryOk = false → ∃ t, exec (.calWrite r) s = .next t ∧ OnlyMailboxAndHost s t r.mb.val ∧
          Completes s t r x false (ansErr 0x0009)) ∧
        (s.fw.factoryOk = true → ∀ i, bad = some i → ∃ t, exec (.calWrite r) s = .next t ∧ OnlyMailboxAndHost s t r.mb.val ∧
          Completes s t r x false (ansErr 0x0100 i)) ∧
        (s.fw.factoryOk = true → bad = none → ∀ i, res = some i → ∃ t, exec (.calWrite r) s = .next t ∧
          OnlyMailboxAndHost s t r.mb.val ∧ Completes s t r x false (ansErr 0x0015 (8 * i + 2))) ∧
        (s.fw.factoryOk = true → bad = none → res = none → ∃ t n body, exec (.calWrite r) s = .next t ∧ stays t ∧ appends t body ∧
          t.fw.waits = s.fw.waits ++ [(r, 3, n)] ∧ t.fw.clamped = satAdd s.fw.clamped n))) ∧
     (AtTurn s r x 0x0B 3 → s.fw.waits.any (fun w => w.1 == r) = false → ∃ t, exec (.calClear r) s = .next t ∧ stays t ∧ appends t [] ∧
       t.fw.waits = s.fw.waits ++ [(r, 3, 0)]) ∧
     (AtTurn s r x 0x0B 4 → ∃ t, exec (.warmReset r) s = .next t ∧ Completes s t r x true (ansOk 0) ∧ t.fw = { s.fw with warmAsked := true } ∧
       { t with klv := s.klv, fw := s.fw } = s) ∧
     (AtTurn s r x 0x0B 5 → ∃ t b, exec (.bootStatus r) s = .next t ∧ OnlyMailboxAndHost s t r.mb.val ∧ Completes s t r x false (ansOk 64 b) ∧
       b.length = 64 ∧ b.take 6 = leBytes 1 s.fw.running.val ++ selection s) ∧
     (AtTurn s r x 0x0B 6 →
       (let img := inPayload s x
        let code := verifyImage s img
        let unsigned := code = 3 ∧ s.dbg.locked = false
        let a := bitAt (prm x 0x20 1) 0
        let b := bitAt (prm x 0x20 1) 1
        (inRecovery s = false → ∃ t, exec (.recoveryLoad r) s = .next t ∧ OnlyMailboxAndHost s t r.mb.val ∧
          Completes s t r x false (ansErr 0x0102)) ∧
        (inRecovery s = true → s.fw.loadSigned = none → code ≠ 0 → ¬unsigned → ∃ t, exec (.recoveryLoad r) s = .next t ∧
          OnlyMailboxAndHost s t r.mb.val ∧ Completes s t r x false (ansErr 0x0101 code)) ∧
        (inRecovery s = true → s.fw.loadSigned = none → (unsigned ∨ code = 0 ∧ a = false ∧ b = false) → s.fw.job = none →
          ∃ t, exec (.recoveryLoad r) s = .next t ∧ t.rst.ready = true ∧ t.fw.recovered = true ∧ t.fw.loadSigned = none ∧
            t.fw.loadVersion = slice img 0x10 16 ∧ t.prt.loaded = true ∧ t.klv.incarnation = (if s.klv.started then s.klv.incarnation + 1 else s.klv.incarnation) ∧
              t.klv.started = true) ∧
        (inRecovery s = true → s.fw.loadSigned = none → code = 0 → (a = true ∨ b = true) →
          ∃ t, exec (.recoveryLoad r) s = .next t ∧ t.fw.loadSigned = some true ∧ (findExec t r).isSome = true ∧
            (mbox t r.mb.val).waiting = (mbox s r.mb.val).waiting ∧
            t.fw.job = some { block := if a then 0 else 1, image := img.take (fld img 8 4), select := none, erased := 0, paged := 0
                              cmd := none, req := some r, also := if a && b then some 1 else none }))))

/-- The boot (R482-R485, R454): it runs once, after the release of Sage; the strap, or the boot selection, or after a watchdog start what ran
before, chooses the block, and the other where that one does not verify; with none recovery boot begins, and otherwise Tilir starts, with the
configuration loaded and the incarnation counted at every start since POR but the first. Klova is ready in every case. A trial block ready for 60 s is confirmed and FWS_SEC_MIN
raised.
The firmware store (R474-R479): an operation that fails is counted and done again, an erase of a log sector erases its bytes and drops its
records, an appended record takes the next SEQ and counts, and a request that waited for it completes past its commit point; with fewer than 8
free sectors the records that govern are copied to a free one, and after the last copy those that hold nothing that governs are erased; with no
free sector they are erased at once (log entry 133); a read of the busy sector gives 0xA55A_A55A and is counted, and of another sector
its data, or zero from an XO section, with the operation suspended; in a brown-out nothing further is started. -/
def Obligations.BootAndStore : Prop :=
  (∀ s : State,
    ((s.rst.sage = false ∨ s.rst.ready = true ∨ s.rst.active = true ∨ s.rst.halt ≠ .no) → exec .boot s = .next s) ∧
    (s.rst.sage = true → s.rst.ready = false → s.rst.active = false → s.rst.halt = .no →
      (let sel := selection s
       let pick (c : Nat) : Nat := if blockVerifies s c then c else if blockVerifies s (1 - c) then 1 - c else 2
       let b := if s.rst.w = 5 then s.fw.running.val
         else if s.rst.bootSel = 3 then 2
         else if s.rst.bootSel = 1 then (if blockVerifies s 0 then 0 else 2)
         else if s.rst.bootSel = 2 then (if blockVerifies s 1 then 1 else 2)
         else if fld sel 2 1 = 1 ∧ fld sel 3 1 = 0 then pick (fld sel 1 1) else pick (fld sel 0 1)
       ∃ t, exec .boot s = .next t ∧ t.rst.ready = true ∧ t.fw.recovered = false ∧ t.fw.running.val = min b 2 ∧ t.ts = s.ts ∧
         (b = 2 → t.prt = s.prt ∧ t.klv = s.klv ∧ t.rst.readyAt = now s) ∧
         (b ≠ 2 → t.prt.loaded = true ∧ t.klv.incarnation = (if s.klv.started then s.klv.incarnation + 1 else s.klv.incarnation) ∧
              t.klv.started = true ∧ t.rst.released = true))) ∧
    ((s.rst.ready = false ∨ s.fw.trial = false ∨ s.fw.running = 2) → exec .trialConfirm s = .next s) ∧
    (s.rst.ready = true → s.fw.trial = true → s.fw.running ≠ 2 →
      (let b := s.fw.running.val
       let body := selBytes b (1 - b) 0 0 0
       ∃ t, exec .trialConfirm s = .next t ∧ t.ts = (reach s (s.rst.readyAt + 60000000000)).ts ∧ { t with fw := s.fw, ts := s.ts } = s ∧
         t.fw.trial = false ∧ t.fw.secMin.toNat = max s.fw.secMin.toNat (fwBlock s b).secVersion.toNat ∧
         (.append 1 body ∈ t.fw.ops ∨ t.fw.cur = some (.op (.append 1 body)))))) ∧
  (∀ s : State,
    (s.fw.cur = none → s.fw.loadSigned = none → ∀ ok, exec (.firmwareStoreOpDone ok) s = .next s) ∧
    (∀ o, s.fw.cur = some (.op o) → s.fw.loadSigned = none →
      (∃ t, exec (.firmwareStoreOpDone false) s = .next t ∧ { t with fw := s.fw } = s ∧ t.fw.progFails = satInc s.fw.progFails ∧
        t.fw.nor = s.fw.nor ∧ t.fw.recs = s.fw.recs ∧ t.fw.suspended = false ∧ (t.fw.cur = some (.op o) ∨ o ∈ t.fw.ops) ∧
        (s.fw.brownOut = true → t.fw.cur = none)) ∧
      (∀ i, o = .erase i → Memory.wf s.fw.nor = true → ∃ t, exec (.firmwareStoreOpDone true) s = .next t ∧ { t with fw := s.fw } = s ∧
        t.fw.erases = s.fw.erases + 1 ∧ t.fw.recs = s.fw.recs.filter (fun r => r.sector != i) ∧
        (∀ a, (logBase / 65536 + i) * 65536 ≤ a → a < (logBase / 65536 + i) * 65536 + 65536 → mget t.fw.nor a = 0) ∧
        (∀ a, ¬((logBase / 65536 + i) * 65536 ≤ a ∧ a < (logBase / 65536 + i) * 65536 + 65536) → mget t.fw.nor a = mget s.fw.nor a) ∧
        (t.fw.cur = some (.op (.mark i)) ∨ .mark i ∈ t.fw.ops)) ∧
      (∀ i, o = .mark i → ∃ t, exec (.firmwareStoreOpDone true) s = .next t ∧ { t with fw := s.fw } = s ∧ t.fw.nor = s.fw.nor ∧
        tget sectorReset t.fw.sectors i = { erasedOk := true, used := 0 }) ∧
      (∀ kind body k, o = .append kind body → sectorFor s (recBytes kind (s.fw.seq + 1) body).length = some k →
        ∃ t, exec (.firmwareStoreOpDone true) s = .next t ∧ t.fw.seq = s.fw.seq + 1 ∧
          t.fw.recs = s.fw.recs ++ [{ kind := kind, seq := s.fw.seq + 1, body := body, sector := k }] ∧
          t.fw.nor = mwrite s.fw.nor (logBase + k * 65536 + 64 + (sectorOf s k).used)
            ((recBytes kind (s.fw.seq + 1) body).map fun b => ~~~ b) ∧
          t.fw.offsets = (if kind = 3 then calOfBody body else s.fw.offsets) ∧
          (∀ w x, kind = 3 → s.fw.waits.find? (fun w => w.2.1 == 3) = some w → findExec s w.1 = some x → Outlet s w.1 x →
            Completes s t w.1 x true (ansOk w.2.2) ∧ t.fw.waits = dropFirst (fun w => w.2.1 == 3) s.fw.waits))) ∧
    (∀ j, s.fw.cur = some .image → s.fw.job = some j → s.fw.loadSigned = none → j.erased < 1920 →
      ∃ t, exec (.firmwareStoreOpDone true) s = .next t ∧ { t with fw := s.fw } = s ∧ t.fw.erases = s.fw.erases + 1 ∧
        t.fw.job = some { j with erased := j.erased + 1 }) ∧
    (8 ≤ logFree s ∨ compacting s = true → exec .logCompact s = .next s) ∧
    (logFree s < 8 → compacting s = false →
      (∀ i, freeSector s = some i → ∃ t, exec .logCompact s = .next t ∧ { t with fw := s.fw } = s ∧ t.fw.recs = s.fw.recs ∧ t.fw.nor = s.fw.nor ∧
        ∀ k, k ∈ [1, 2, 3, 4] → (governing s k).isSome = true → (.copy k i ∈ t.fw.ops ∨ t.fw.cur = some (.op (.copy k i)))) ∧
      (freeSector s = none → ∃ t, exec .logCompact s = .next t ∧ { t with fw := s.fw } = s ∧ t.fw.recs = s.fw.recs ∧ t.fw.nor = s.fw.nor ∧
        ∀ i, i < 64 → (sectorOf s i).used ≠ 0 → (∀ k r, k ∈ [1, 2, 3, 4] → governing s k = some r → r.sector ≠ i) →
          (.erase i ∈ t.fw.ops ∨ t.fw.cur = some (.op (.erase i))))) ∧
    (∀ kind i r, s.fw.cur = some (.op (.copy kind i)) → s.fw.loadSigned = none → kind ≠ 2 → governing s kind = some r →
      sectorFits s (recSize r.body) i = true →
      ∃ t, exec (.firmwareStoreOpDone true) s = .next t ∧ { t with fw := s.fw } = s ∧ t.fw.seq = s.fw.seq + 1 ∧
        t.fw.recs = s.fw.recs ++ [{ kind := kind, seq := s.fw.seq + 1, body := r.body, sector := i }] ∧
        (kind ∈ [1, 3, 4] → (∀ y ∈ s.fw.recs, y.seq ≤ s.fw.seq) → (∀ a b, .copy a b ∉ s.fw.ops) →
          ∀ j, j < 64 → j ≠ i → (sectorOf s j).used ≠ 0 → (∀ k y, k ∈ [1, 2, 3, 4] → k ≠ kind → governing s k = some y → y.sector ≠ j) →
            (.erase j ∈ t.fw.ops ∨ t.fw.cur = some (.op (.erase j))))) ∧
    (∀ off, busySector s = none → exec (.storeReadBusy off) s = .next s) ∧
    (∀ off k, busySector s = some k → off < 0x10000000 →
      (off / 65536 = k → ∃ t, exec (.storeReadBusy off) s = .next t ∧ t.rdata = 0xA55AA55A ∧
        t.fw = { s.fw with busyHit := true, busyReads := satInc s.fw.busyReads } ∧ { t with fw := s.fw, rdata := s.rdata } = s) ∧
      (off / 65536 ≠ k → isXo s (off / 4 * 4) = true → ∃ t, exec (.storeReadBusy off) s = .next t ∧ t.rdata = 0 ∧
        t.fw = { s.fw with xoHit := true, xoReads := satInc s.fw.xoReads, suspended := true } ∧ { t with fw := s.fw, rdata := s.rdata } = s) ∧
      (off / 65536 ≠ k → isXo s (off / 4 * 4) = false → ∃ t, exec (.storeReadBusy off) s = .next t ∧
        t.rdata.toNat = leNat (norRead s (off / 4 * 4) 4) ∧ t.fw = { s.fw with suspended := true } ∧
        { t with fw := s.fw, rdata := s.rdata } = s)) ∧
    (∃ t, exec .storeBrownOut s = .next t ∧ t = { s with fw := { s.fw with brownOut := true } }))

/-- Scrubbing (R491, R492, R496, R499, R500): each scrubber goes on to its next line, past the last back to the first; a DRAM line with a
transaction under way waits. A clean line is left alone; a corrected one is counted and a row of a store gets its corrected data, unless
another write waits for it, which is counted; an uncorrectable one is counted, poisoned and logged, and one with an address error is counted
as such too.
The DIAG class (R501, R505-R508): LOG_READ gives the entries from a sequence number on that the mailbox may see, redacted where they are
of a sealed partition; RETIRE programs a fuse for the unit of an entry, once, if a spare is left, and refuses an entry that is not of a
memory; REPAIR_STATUS counts the repairs in effect by kind, those that wait, and the spares. -/
def Obligations.ScrubsAndRepairs : Prop :=
  (∀ s : State, s.memOk →
    (∀ (ch : Fin 32) (o : Option LineRead),
      (let n := tget 0 s.ras.scrubDram ch.val
       let line := ch.val + 32 * (n % 2 ^ 28)
       let busy := (dirOf s line).txn.isSome = true ∨ (dirOf s line).queue ≠ []
       (busy → exec (.dramScrub ch o) s = .next s) ∧
       (¬busy → ∃ t, exec (.dramScrub ch o) s = .next t ∧ tget 0 t.ras.scrubDram ch.val = n + 1 ∧ t.mem = s.mem ∧ t.coh = s.coh ∧
         ((∀ r, o = some r → lineOutcome (line * 64) r.data r.side.toNat = .clean) → { t with ras := s.ras } = s ∧ t.ras.seq = s.ras.seq) ∧
         (∀ r, o = some r →
           (∀ p, lineOutcome (line * 64) r.data r.side.toNat = .corrected p → t.ras.ceDram = satInc s.ras.ceDram ∧
             t.ras.ueDram = s.ras.ueDram ∧
             (metaPoison (correctedMeta (line * 64) r.data r.side.toNat) = false → t.ras.poison = s.ras.poison)) ∧
           (∀ p, lineOutcome (line * 64) r.data r.side.toNat = .address p → t.ras.addrErr = satInc s.ras.addrErr) ∧
           ((lineOutcome (line * 64) r.data r.side.toNat = .uncorrectable ∨ ∃ p, lineOutcome (line * 64) r.data r.side.toNat = .address p) →
             t.ras.ueDram = satInc s.ras.ueDram ∧ t.ras.seq = s.ras.seq + 1 ∧ tfind? t.ras.poison line = some true))))) ∧
    (∀ (c : Clu) (g : Fin 7) (o : Option LineRead),
      (let k := c.val * 8 + g.val
       let n := tget 0 s.ras.scrubStore k
       let a := storeBase c.val + g.val * 0x01000000 + 64 * n
       ((cluster s c.val).clearing.any (fun y => y.1 == g.val) = true → exec (.storeScrub c g o) s = .next s) ∧
       ((cluster s c.val).clearing.any (fun y => y.1 == g.val) = false →
       ∃ t, exec (.storeScrub c g o) s = .next t ∧ tget 0 t.ras.scrubStore k = (n + 1) % 262144 ∧
         ((∀ r, o = some r → lineOutcome a r.data r.side.toNat = .clean) → { t with ras := s.ras } = s ∧ t.ras.seq = s.ras.seq) ∧
         (∀ r, o = some r →
           (∀ p, lineOutcome a r.data r.side.toNat = .corrected p → t.ras.ceStore = satInc s.ras.ceStore ∧
             (rowWritePending s c.val a = true → t.mem = s.mem ∧ t.ras.scrubDrop = satInc s.ras.scrubDrop) ∧
             (rowWritePending s c.val a = false → mread t.mem a 64 = correctedData a r.data r.side.toNat ∧
               t.ras.scrubDrop = s.ras.scrubDrop ∧ ∀ b, b < a ∨ a + 64 ≤ b → mget t.mem b = mget s.mem b)) ∧
           ((lineOutcome a r.data r.side.toNat = .uncorrectable ∨ ∃ p, lineOutcome a r.data r.side.toNat = .address p) →
             t.ras.ueStore = satInc s.ras.ueStore ∧ t.ras.seq = s.ras.seq + 1 ∧ t.mem = s.mem ∧
             tfind? t.ras.poison (a / 64) = some true))))) ∧
    (∀ o : Option LineRead,
      (let n := s.ras.scrubRoot
       let a := rootBase + 64 * n
       ∃ t, exec (.rootScrub o) s = .next t ∧ t.ras.scrubRoot = (n + 1) % 8388608 ∧
         ((∀ r, o = some r → lineOutcome a r.data r.side.toNat = .clean) → { t with ras := s.ras } = s ∧ t.ras.seq = s.ras.seq) ∧
         (∀ r, o = some r →
           (∀ p, lineOutcome a r.data r.side.toNat = .corrected p → t.ras.ceRoot = satInc s.ras.ceRoot ∧
             mread t.mem a 64 = correctedData a r.data r.side.toNat ∧ ∀ b, b < a ∨ a + 64 ≤ b → mget t.mem b = mget s.mem b) ∧
           ((lineOutcome a r.data r.side.toNat = .uncorrectable ∨ ∃ p, lineOutcome a r.data r.side.toNat = .address p) →
             t.ras.ueRoot = satInc s.ras.ueRoot ∧ t.ras.seq = s.ras.seq + 1 ∧ t.mem = s.mem ∧
             tfind? t.ras.poison (a / 64) = some true))))) ∧
  (∀ (s : State) (r : ReqId) (x : Exec), Outlet s r x →
    (AtTurn s r x 9 1 →
      (let first := max (prm x 0x20 4) (s.ras.seq.toNat - 65536)
       let l := ((List.range (s.ras.seq.toNat - first)).filterMap fun i => (logEntry s (first + i)).bind (seenEntry s r.mb.val)).take
         (prm x 0x24 2)
       ∃ t, exec (.logRead r) s = .next t ∧ OnlyMailboxAndHost s t r.mb.val ∧ Completes s t r x false (ansOk l.length l.flatten) ∧
         l.length ≤ prm x 0x24 2)) ∧
    (AtTurn s r x 9 2 →
      (let scope := prm x 0x24 1
       (logEntry s (prm x 0x20 4) = none → ∃ t, exec (.retire r) s = .next t ∧ OnlyMailboxAndHost s t r.mb.val ∧
         Completes s t r x false (ansErr 0x0100 0x20)) ∧
       (∀ e, logEntry s (prm x 0x20 4) = some e →
         (let source := fld e 4 1
          let u := fld e 0x10 4
          ((source = 0 ∨ 3 < source) → ∃ t, exec (.retire r) s = .next t ∧ OnlyMailboxAndHost s t r.mb.val ∧
            Completes s t r x false (ansErr 0x0100 0x20)) ∧
          (source = 1 → scope = 1 → ∃ t, exec (.retire r) s = .next t ∧ OnlyMailboxAndHost s t r.mb.val ∧
            Completes s t r x false (ansErr 0x0100 0x24)) ∧
          (1 ≤ source → source ≤ 3 → ¬(source = 1 ∧ scope = 1) →
            (∀ y, repairOf s source u = some y → ∃ t, exec (.retire r) s = .next t ∧ OnlyMailboxAndHost s t r.mb.val ∧
              Completes s t r x false (ansOk (if y.inEffect then 0 else 1))) ∧
            (repairOf s source u = none → spareLeft s source scope u = false → ∃ t, exec (.retire r) s = .next t ∧
              OnlyMailboxAndHost s t r.mb.val ∧ Completes s t r x false (ansErr 0x0101)) ∧
            (repairOf s source u = none → spareLeft s source scope u = true →
              (let y : Repair := { kind := repairKind source scope, unit := repairUnit source scope u, inEffect := false }
               let now' := source = 2 ∧ clusterOwner s (u % 32) = none
               ∃ t, exec (.retire r) s = .next t ∧
                 ((now' → ∀ n : Mb, (mbox s n.val).registered = false) →
                   Completes s t r x true (ansOk (if source = 2 ∧ clusterOwner s (u % 32) = none then 0 else 1))) ∧
                 t.ras.dxFree = (if source = 1 then s.ras.dxFree - 1 else s.ras.dxFree) ∧
                 (¬now' → t.ras.repairs = s.ras.repairs ++ [y] ∧ t.mem = s.mem ∧ t.slots = s.slots) ∧
                 (now' → t.ras.repairs.length = s.ras.repairs.length + 1 ∧
                   ∀ z ∈ t.ras.repairs, (z.kind = 0 ∨ z.kind = 1) → z.unit % 32 = u % 32 → z.inEffect = true)))))))) ∧
    (AtTurn s r x 9 3 → ∃ t b, exec (.repairStatus r) s = .next t ∧ OnlyMailboxAndHost s t r.mb.val ∧
      Completes s t r x false (ansOk 64 b) ∧ b.length = 64 ∧
      ∀ k, k < 5 → slice b (4 * k) 4 = leBytes 4 (s.ras.repairs.filter fun y => y.kind == k && y.inEffect).length))

/-- The debug transport (R510-R517, R524): while debug is locked an access answers LOCKED, halts and steps do nothing, and otherwise one with
a reserved bit or a misaligned address answers RESERVED, one of what a sealed partition hides DENIED, which is counted; a peek of a register
changes nothing; a store of a cluster is read and written as memory. Cores halt, resume and step; the last to resume starts the watchdog
again; one halted for 10 ms stalls debug, which is told. An instruction's data register can be shifted out while the output pins are driven. -/
def Obligations.DebugTransport : Prop :=
  ∀ s : State,
    (∀ v : BitVec 128,
      (let n := v.toNat
       let a := n % 2 ^ 48
       let w := n / 2 ^ 64 % 2 ^ 32
       let fine := n / 2 ^ 48 % 2 ^ 16 = 0 ∧ n / 2 ^ 98 = 0 ∧ a % 4 = 0
       let answered (t : State) (code data : Nat) : Prop := t.dbg.resp.toNat = data + code * 2 ^ 32
       (s.dbg.locked = true → ∃ t, exec (.dbgCmd v) s = .next t ∧ { t with dbg := s.dbg } = s ∧ answered t 1 0 ∧
         t.dbg.denied = s.dbg.denied) ∧
       (s.dbg.locked = false → ¬fine → ∃ t, exec (.dbgCmd v) s = .next t ∧ { t with dbg := s.dbg } = s ∧ answered t 5 0) ∧
       (s.dbg.locked = false → fine →
         (debugDenied s a = true → ∃ t, exec (.dbgCmd v) s = .next t ∧ answered t 2 0 ∧ t.dbg.denied = satInc s.dbg.denied ∧
           t.mem = s.mem ∧ t.slots = s.slots) ∧
         (debugDenied s a = false →
           (regBase ≤ a → v.getLsbD 96 = false → v.getLsbD 97 = false →
             (∀ y, modRead s a = some y → ∃ t, exec (.dbgCmd v) s = .next t ∧ { t with dbg := s.dbg } = s ∧ answered t 0 y.1.toNat ∧
               t.dbg.denied = s.dbg.denied) ∧
             (modRead s a = none → ∃ t, exec (.dbgCmd v) s = .next t ∧ { t with dbg := s.dbg } = s ∧ answered t 3 0)) ∧
           (a < regBase → populated a 4 = false → ∃ t, exec (.dbgCmd v) s = .next t ∧ { t with dbg := s.dbg } = s ∧ answered t 3 0) ∧
           (a < regBase → populated a 4 = true → inDram a 4 = false →
             (v.getLsbD 96 = false → poisoned s a 4 = false → ∃ t, exec (.dbgCmd v) s = .next t ∧ { t with dbg := s.dbg } = s ∧
               answered t 0 (leNat (mread s.mem a 4))) ∧
             (v.getLsbD 96 = true → ∃ t, exec (.dbgCmd v) s = .next t ∧ answered t 0 0 ∧ t.mem = mwrite s.mem a (leBytes 4 w) ∧
               t.klv = s.klv ∧ t.slots = s.slots)))))) ∧
    (∀ v : Word, s.dbg.locked = true → exec (.dbgHalt v) s = .next s ∧ exec (.dbgResume v) s = .next s ∧ exec (.dbgStep v) s = .next s) ∧
    (∀ v : Word, s.dbg.locked = false →
      (∃ t, exec (.dbgHalt v) s = .next t ∧ { t with dbg := s.dbg, free := s.free } = s ∧
        t.dbg.halted = s.dbg.halted ||| v.setWidth 16 ∧
        ∀ c, c < 16 → v.getLsbD c = true → s.dbg.halted.getLsbD c = false → tget 0 t.dbg.haltedAt c = now s ∧
          tget true t.dbg.reserved c = false) ∧
      (∃ t, exec (.dbgStep v) s = .next t ∧ { t with dbg := s.dbg, free := s.free } = s ∧ t.dbg.halted = s.dbg.halted ∧
        ∀ c, c < 16 → v.getLsbD c = true → s.dbg.halted.getLsbD c = true → tget true t.dbg.reserved c = false) ∧
      (∃ t, exec (.dbgResume v) s = .next t ∧ t.dbg.halted = s.dbg.halted &&& ~~~ (v.setWidth 16) ∧ t.mem = s.mem ∧
        (s.dbg.halted ≠ 0 → t.dbg.halted = 0 → t.rst = { s.rst with kickAt := now s } ∧ t.dbg.stalled = false ∧
          (s.dbg.stalled = true → Told s t 0x0002 0)) ∧
        (t.dbg.halted ≠ 0 → { t with dbg := s.dbg } = s ∧ t.dbg.stalled = s.dbg.stalled))) ∧
    ((s.dbg.halted = 0 ∨ s.dbg.stalled = true) → exec .debugStalled s = .next s) ∧
    (s.dbg.halted ≠ 0 → s.dbg.stalled = false → ∃ t, exec .debugStalled s = .next t ∧ t.dbg = { s.dbg with stalled := true } ∧
      t.ts = (reach s ((s.dbg.haltedAt.map (·.2)).foldl min (2 ^ 64) + 10000000)).ts ∧ Told s t 0x0002 1 ∧
      { t with dbg := s.dbg, ts := s.ts, klv := s.klv, hmem := s.hmem, bus := s.bus, free := s.free } = s) ∧
    (∀ ir : Byte, ∃ t d, exec (.tapInstructionUpdate ir) s = .next t ∧
      t = { s with dbg := { s.dbg with tapIr := ir }, out := s.out ++ (if pinsDriven s then [.tap d] else []) } ∧
      (ir = 0x02 → d = 0x05A095AB) ∧ (ir = 0x11 → d = if s.dbg.locked then 2 ^ 32 else s.dbg.resp.toNat) ∧ (ir = 0x12 → d = dbgStatus s)) ∧
    (∃ t, exec .trstN s = .next t ∧ t = { s with dbg := { s.dbg with tapIr := 0x02 } })

/-- The DEBUG class (R518-R524): CHALLENGE records and returns a 128-byte record with its magic number, valid for 300 s; UNLOCK consumes it and,
after its checks in order, unlocks debug, having erased every sealed partition without consent; LOCK resumes every core and locks; CONSENT is
the partition's; STATUS reads the block's registers and clears the count of denied accesses. -/
def Obligations.DebugRequests : Prop :=
  ∀ (s : State) (r : ReqId) (x : Exec), Outlet s r x →
    (AtTurn s r x 0x0A 1 → ∃ t b, exec (.challenge r) s = .next t ∧ Completes s t r x true (ansOk 128 b) ∧ b.length = 128 ∧
      b.take 4 = leBytes 4 0x4C474244 ∧ fld b 6 2 = eraseSet s % 65536 ∧ t.dbg = { s.dbg with challenge := some b, challengeAt := now s } ∧
      { t with klv := s.klv, hmem := s.hmem, bus := s.bus, dbg := s.dbg, free := s.free } = s) ∧
    (s.dbg.challenge = none → exec .challengeExpire s = .next s) ∧
    (s.dbg.challenge ≠ none → ∃ t, exec .challengeExpire s = .next t ∧ t.ts = (reach s (s.dbg.challengeAt + 300000000000)).ts ∧
      t.dbg = { s.dbg with challenge := none } ∧ { t with dbg := s.dbg, ts := s.ts } = s) ∧
    (AtTurn s r x 0x0A 2 →
      (let valid := if challengeValid s then s.dbg.challenge else none
       let b := inPayload s x
       (∀ st d, unlockFails s valid b = some (st, d) → ∃ t, exec (.unlock r) s = .next t ∧ Completes s t r x false (ansErr st d) ∧
         t.dbg = { s.dbg with challenge := none } ∧ { t with klv := s.klv, hmem := s.hmem, bus := s.bus, free := s.free, dbg := s.dbg } = s) ∧
       (unlockFails s valid b = none → ∃ t, exec (.unlock r) s = .next t ∧ t.dbg.locked = false ∧ t.dbg.unlocks = s.dbg.unlocks + 1 ∧
         t.dbg.challenge = none ∧
         (eraseList s = [] → Completes s t r x true (ansOk 0) ∧
           { t with klv := s.klv, hmem := s.hmem, bus := s.bus, free := s.free, dbg := s.dbg } = s)))) ∧
    (AtTurn s r x 0x0A 3 → ∃ t, exec (.lock r) s = .next t ∧ t.dbg.locked = true ∧ t.dbg.halted = 0 ∧ t.mem = s.mem ∧
      (s.dbg.halted ≠ 0 → t.dbg.stalled = false ∧ t.rst.kickAt = now s) ∧
      (s.dbg.stalled = false → Completes s t r x true (ansOk (if s.dbg.locked then 1 else 0)))) ∧
    (AtTurn s r x 0x0A 4 → ∃ t, exec (.consent r) s = .next t ∧ Completes s t r x true (ansOk (if (pst s (reqPart r)).consent then 1 else 0)) ∧
      pst t (reqPart r) = { pst s (reqPart r) with consent := prm x 0x20 1 == 1 } ∧ (∀ p, p ≠ reqPart r → pst t p = pst s p) ∧
      { t with klv := s.klv, hmem := s.hmem, bus := s.bus, prt := s.prt } = s) ∧
    (AtTurn s r x 0x0A 5 → ∃ t b, exec (.debugStatus r) s = .next t ∧ Completes s t r x false (ansOk 64 b) ∧ b.length = 64 ∧
      b.take 4 = leBytes 4 (dbgStatus s) ∧ slice b 0x14 4 = leBytes 4 s.dbg.denied.toNat ∧ t.dbg = { s.dbg with denied := 0 } ∧
      { t with klv := s.klv, hmem := s.hmem, bus := s.bus, dbg := s.dbg } = s)

/-- Register writes (R17, R18, R32, R35, R36, R358, R470, R489): in a mailbox window the guarded registers take a value only while ENABLED is 0 and
otherwise set CFG_ERR, KLV_DEF_TIMEOUT always takes it, a 1 clears CFG_ERR, and a read-only or unnamed offset ignores it; a controller's
interrupt mask is set and cleared by ones and its admin queue registers keep their reserved bits zero; of the module's blocks the writable
fields act by their types, and every block without any ignores the write, as every module register does before Sage is released. Window n of the
physical function is mailbox n's, and window k of a virtual function its partition's k-th (R30). An access of Sage where nothing lies is an
address fault, which is logged (R23, R498).
Register reads (R17, R18, R35, R509): a read returns the register's value, and clears it where it is one of the read-clear counts named; a
read of a mailbox register that is not read-clear, of a controller property or of a block that has none leaves the state as it is, but for
the value returned; a 64-bit read of a ring base returns both its words. A window of another function, and a module register before Sage is
released, read zero. -/
def Obligations.RegisterAccess : Prop :=
  (∀ (s : State) (v : Word),
    (∀ (fn : Fn) (x : BitVec 24) (n : Mb) (off : Nat), windowOf s fn x.toNat = some (n, off) → Writable s fn n →
      (let m := mbox s n.val
       let row := Instr.registerWrite (.bar2 fn x) v
       let guarded (m' : Mailbox) : Prop := ∃ t, exec row s = .next t ∧ OnlyMailbox s t n.val ∧
         mbox t n.val = if m.enabled then { m with cfgErr := true } else m'
       (off = 0x1008 → guarded { m with reqBase := BitVec.ofNat 64 (m.reqBase.toNat / 2 ^ 32 * 2 ^ 32 + v.toNat) }) ∧
       (off = 0x100C → guarded { m with reqBase := BitVec.ofNat 64 (m.reqBase.toNat % 2 ^ 32 + v.toNat * 2 ^ 32) }) ∧
       (off = 0x1010 → guarded { m with cplBase := BitVec.ofNat 64 (m.cplBase.toNat / 2 ^ 32 * 2 ^ 32 + v.toNat) }) ∧
       (off = 0x1014 → guarded { m with cplBase := BitVec.ofNat 64 (m.cplBase.toNat % 2 ^ 32 + v.toNat * 2 ^ 32) }) ∧
       (off = 0x1018 → guarded { m with hseqBase := v }) ∧
       (off = 0x101C → ∃ t, exec row s = .next t ∧ OnlyMailbox s t n.val ∧ mbox t n.val = { m with defTimeout := v }) ∧
       (off = 0x1004 → ∃ t, exec row s = .next t ∧ OnlyMailbox s t n.val ∧
         mbox t n.val = { m with cfgErr := m.cfgErr && !v.getLsbD 3 }) ∧
       (off = 0x1000 → v.getLsbD 3 = false → ∃ t, exec row s = .next t ∧ OnlyMailbox s t n.val ∧ mbox t n.val = ctrlFields v m) ∧
       (off ∉ [0x0000, 0x0004, 0x1000, 0x1004, 0x1008, 0x100C, 0x1010, 0x1014, 0x1018, 0x101C] → exec row s = .next s))) ∧
    (∀ (fn : Fn) (n : Mb) (off : Nat), off < 0x10000 →
      (fn.val = 0 → windowOf s fn (n.val * 0x10000 + off) = some (n, off)) ∧
      (∀ p k, vfExists s fn.val = true → partOfVf s fn.val = some p → k < 16 → n.val = 16 * p + k →
        windowOf s fn (k * 0x10000 + off) = some (n, off)) ∧
      (∀ k, fn.val ≠ 0 → (vfExists s fn.val = false ∨ partOfVf s fn.val = none ∨ 16 ≤ k) → windowOf s fn (k * 0x10000 + off) = none)) ∧
    (∀ (fn : Fn) (off : Half), (ctrlExists s fn.val = false ∨ s.rst.active = true) → exec (.registerWrite (.bar0 fn off) v) s = .next s) ∧
    (∀ (fn : Fn) (off : Half), ctrlExists s fn.val = true → s.rst.active = false →
      (let k := ctrl s fn.val
       let sets (k' : Ctrl) : Prop := ∃ t, exec (.registerWrite (.bar0 fn off) v) s = .next t ∧ { t with nvm := s.nvm } = s ∧
         ctrl t fn.val = k' ∧ ∀ g, g ≠ fn.val → ctrl t g = ctrl s g
       (off = 0x0C → sets { k with intm := k.intm ||| v }) ∧ (off = 0x10 → sets { k with intm := k.intm &&& ~~~ v }) ∧
       (off = 0x24 → sets { k with aqa := v &&& 0x0FFF0FFF }) ∧
       (off = 0x2C → sets { k with asq := BitVec.ofNat 64 (k.asq.toNat % 2 ^ 32 + v.toNat * 2 ^ 32) }) ∧
       (off = 0x34 → sets { k with acq := BitVec.ofNat 64 (k.acq.toNat % 2 ^ 32 + v.toNat * 2 ^ 32) }) ∧
       (off = 0x00 → exec (.registerWrite (.bar0 fn off) v) s = .next s))) ∧
    (∀ a, s.rst.sage = false → exec (.registerWrite (.module a) v) s = .next s) ∧
    (∀ a, s.rst.sage = true → regAt a.toNat = none → ¬(fwsWindow ≤ a.toNat ∧ a.toNat < fwsWindow + 0x10000000) →
      populated a.toNat 4 = false → ∀ row, row ∈ [Instr.registerWrite (.module a) v, .rcRead (.module a) false] →
      ∃ t, exec row s = .next t ∧ t.ras.seq = s.ras.seq + 1 ∧ t.mem = s.mem ∧ t.slots = s.slots ∧ t.rdata = s.rdata ∧
        (let e := tget [] t.ras.log (s.ras.seq.toNat % 65536)
         fld e 4 1 = 9 ∧ fld e 0x18 8 = a.toNat)) ∧
    (∀ a b i off, s.rst.sage = true → regAt a.toNat = some (b, i, off) →
      (let row := Instr.registerWrite (.module a) v
       (b ∉ [.clu, .num, .ftl, .rst, .clk, .fws] → exec row s = .next s) ∧
       (b = .rst → off = 0x00 → ∃ t, exec row s = .next t ∧ t = { s with rst := { s.rst with cause := s.rst.cause &&& ~~~ (v.setWidth 7) } }) ∧
       (b = .rst → off = 0x44 → ∃ t, exec row s = .next t ∧ { t with rst := s.rst } = s ∧
         { t.rst with sbRecent := s.rst.sbRecent } = { s.rst with sbMask := s.rst.sbMask &&& ~~~ (v.setWidth 2) }) ∧
       (b = .clk → off = 0x00 → ∃ t, exec row s = .next t ∧
         t = { s with clk := { s.clk with refLost := s.clk.refLost && !v.getLsbD 18 } }) ∧
       (b = .fws → off = 0x00 → ∃ t, exec row s = .next t ∧
         t = { s with fw := { s.fw with busyHit := s.fw.busyHit && !v.getLsbD 2, xoHit := s.fw.xoHit && !v.getLsbD 3 } }) ∧
       (b = .clu → off = 0x04 → Memory.wf s.mem = true →
         (let use (g : Nat) : Nat := v.toNat / 8 ^ g % 8
          ∃ t, exec row s = .next t ∧ (∀ g, g < 7 → segUse t i g = use g ∧ (segUse s i g ≠ use g → ∀ x, x < 0x01000000 →
              mget t.mem (storeBase i + g * 0x01000000 + x) = 0)) ∧
            (cacheSegs s i = ((List.range 7).filter fun g => use g == 4).length →
              ∀ x, (∀ g, g < 7 → segUse s i g ≠ use g → x < storeBase i + g * 0x01000000 ∨ storeBase i + (g + 1) * 0x01000000 ≤ x) →
                mget t.mem x = mget s.mem x))) ∧
       (b = .num → off < 0x10 → ∃ t, exec row s = .next t ∧ { t with slots := s.slots } = s ∧
         (slot t i (off / 4)).flags = nfClear (slot s i (off / 4)).flags v)))) ∧
  (∀ s : State,
    (∀ (fn : Fn) (x : BitVec 24) (n : Mb) (off : Nat), windowOf s fn x.toNat = some (n, off) → ownerOf s n.val = fn.val → s.rst.active = false →
      (let m := mbox s n.val
       let row := Instr.rcRead (.bar2 fn x) false
       (off = 0x103C → ∃ t, exec row s = .next t ∧ t.rdata.toNat = m.lateCnt.toNat ∧ mbox t n.val = { m with lateCnt := 0 } ∧
         OnlyMailbox { s with rdata := t.rdata } t n.val) ∧
       (off = 0x1040 → ∃ t, exec row s = .next t ∧ t.rdata.toNat = m.heldCnt.toNat ∧ mbox t n.val = { m with heldCnt := 0 } ∧
         OnlyMailbox { s with rdata := t.rdata } t n.val) ∧
       (off ≠ 0x103C → off ≠ 0x1040 → ∃ t, exec row s = .next t ∧ { t with rdata := s.rdata } = s ∧
         (off = 0x1020 → t.rdata.toNat = m.nextHseq.toNat) ∧ (off = 0x1024 → t.rdata.toNat = m.nextDseq.toNat) ∧
         (off = 0x1028 → t.rdata.toNat = m.reqHead.toNat) ∧ (off = 0x102C → t.rdata.toNat = m.cplTail.toNat) ∧
         (off = 0x1034 → t.rdata.toNat = s.klv.cfgEpoch.toNat) ∧ (off = 0x1038 → t.rdata.toNat = s.klv.incarnation.toNat) ∧
         (off ∈ [0x0000, 0x0004] → t.rdata = 0)) ∧
       ((off = 0x1008 ∨ off = 0x1010) → ∃ t, exec (.rcRead (.bar2 fn x) true) s = .next t ∧ { t with rdata := s.rdata } = s ∧
         t.rdata = (if off = 0x1008 then m.reqBase else m.cplBase)))) ∧
    (∀ (fn : Fn) (x : BitVec 24), (windowOf s fn x.toNat = none ∨ s.rst.active = true ∨ ∃ n off, windowOf s fn x.toNat = some (n, off) ∧
      ownerOf s n.val ≠ fn.val) → exec (.rcRead (.bar2 fn x) false) s = .next { s with rdata := 0 }) ∧
    (∀ (fn : Fn) (off : Half), ∃ t, exec (.rcRead (.bar0 fn off) false) s = .next t ∧ { t with rdata := s.rdata } = s ∧
      ((ctrlExists s fn.val = false ∨ s.rst.active = true) → t.rdata = 0)) ∧
    (∀ a, s.rst.sage = false → exec (.rcRead (.module a) false) s = .next { s with rdata := 0 }) ∧
    (∀ a b i off, s.rst.sage = true → regAt a.toNat = some (b, i, off) → ¬(fwsWindow ≤ a.toNat ∧ a.toNat < fwsWindow + 0x10000000) →
      ∃ t, exec (.rcRead (.module a) false) s = .next t ∧ t.rdata.toNat = blockReg s b i off % 2 ^ 32 ∧
        (b ∈ [.thy, .schClu, .ftlModule, .lnkModule] → { t with rdata := s.rdata } = s) ∧
        (b = .ras → off = 0x04 → t.rdata.toNat = s.ras.ceDram.toNat ∧ t.ras = { s.ras with ceDram := 0 } ∧
          { t with ras := s.ras, rdata := s.rdata } = s) ∧
        (b = .ras → off = 0x10 → t.rdata.toNat = s.ras.ueDram.toNat ∧ t.ras = { s.ras with ueDram := 0 } ∧
          { t with ras := s.ras, rdata := s.rdata } = s) ∧
        (b = .ras → off = 0x00 → t.rdata.toNat = s.ras.seq.toNat ∧ { t with rdata := s.rdata } = s) ∧
        (b = .pwr → off = 0x40 → t.rdata.toNat = s.pwr.dips.toNat ∧ t.pwr = { s.pwr with dips := 0 } ∧
          { t with pwr := s.pwr, rdata := s.rdata } = s) ∧
        (b = .rst → off = 0x2C → t.rdata.toNat = s.rst.blkFenced.toNat ∧ t.rst = { s.rst with blkFenced := 0 } ∧
          { t with rst := s.rst, rdata := s.rdata } = s)))

/-- A step takes the command at the front of the queue and runs it with the queue's rest; on an empty queue 10 ns pass, unless POR is asserted,
and a suspended operation of the firmware store resumes (the model's choice, log entries 1 and 59). -/
def Obligations.StepRunsFront : Prop :=
  (∀ (s : State) (c : Instr) (q : List Instr), s.pending = c :: q → step s = exec c { s with pending := q }) ∧
  (∀ s : State, s.pending = [] → ∃ t, step s = .next t ∧ t.fw = { s.fw with suspended := false } ∧
    t.ts = (if s.rst.por then s.ts else s.ts + 10) ∧ { t with ts := s.ts, fw := s.fw } = s)

/-- The module after power-on (R448-R451, R35, R103, R470): POR is asserted and is the widest source; Sage is held, Klova is not ready, no output
is released; every mailbox is at its reset values, no loop is locked, debug is locked, no command waits, and every memory is in its
canonical form. What no table gives is the model's choice (log entries 2, 24 and 66). -/
def Obligations.ResetState : Prop :=
  State.reset.memOk ∧ State.reset.pending = [] ∧
  (State.reset.rst.por = true ∧ State.reset.rst.active = true ∧ State.reset.rst.w = 1 ∧ State.reset.rst.widest = 1 ∧ State.reset.rst.cause = 1 ∧
    State.reset.rst.sage = false ∧ State.reset.rst.ready = false ∧ State.reset.rst.released = false ∧ State.reset.rst.blkTimeout = 1000) ∧
  State.reset.ts = 0 ∧ State.reset.klv.cfgEpoch = 0 ∧ State.reset.klv.incarnation = 1 ∧ State.reset.prt.loaded = false ∧
  State.reset.prt.vfEnable = false ∧ State.reset.clk.locked = 0 ∧ State.reset.dbg.locked = true ∧ State.reset.dbg.halted = 0 ∧
  (∀ n, mbox State.reset n = mailboxReset) ∧ (∀ c i, slot State.reset c i = slotReset) ∧ (∀ l, (link State.reset l).st = 0) ∧
  (∀ a, mget State.reset.mem a = 0)

/-- The chunk codec (R264-R266): decoding the entry and frame of any chunk of 65,536 bytes, compressed or not, gives the chunk back; the frame is
as long as the entry's granules say, at most a whole chunk, and a chunk of zeros takes none. -/
def Obligations.ChunkCodec : Prop :=
  ∀ (compress : Bool) (chunk : List Byte), chunk.length = 65536 →
    decodeChunk (encodeChunk compress chunk).1 (encodeChunk compress chunk).2 = some chunk ∧
    (encodeChunk compress chunk).2.length = 256 * eGranules (encodeChunk compress chunk).1 ∧
    eGranules (encodeChunk compress chunk).1 ≤ 256 ∧ (encodeChunk compress chunk).1 < 2 ^ 64 ∧
    (allZero chunk = true → (encodeChunk compress chunk).2 = []) ∧ (compress = false → eMethod (encodeChunk compress chunk).1 ≠ 2)

/-- The configuration image (R82, R83, R434): the image of a configuration whose records stand in their places and whose texts and addresses have
their lengths is 5,184 bytes and reads back as that configuration, with its NEW_KEYS bits. -/
def Obligations.ConfigCodec : Prop :=
  ∀ (s : State) (c : Cfg) (newKeys : Half),
    c.parts = (List.range 16).map (fun p => (p, tget partRecNone c.parts p)) → (∀ x ∈ c.parts, x.2.label.length = 32) →
    c.links.shTrunk.length = 16 → c.links.ports.length = 12 → (∀ q ∈ c.links.ports, q.ipv6.length = 16) →
    (encodeCfg s c newKeys).length = 5184 ∧ decodeCfg (encodeCfg s c newKeys) c.epoch.toNat = c ∧
      newKeysOf (encodeCfg s c newKeys) = newKeys

/-- Every step keeps every memory (module memory, host memory, the firmware store and the staged image) in its canonical form. -/
def Obligations.MemoryInvariant : Prop :=
  ∀ s t : State, s.memOk → step s = .next t → t.memOk
end

