-- ==== Sys2Proof/Laws/Bytes.lean ====
section
/-! SUPPORT. Laws of bytes and fields: lengths, and the field a laid-out record gives back. -/

namespace Sys2Proof.Machine

@[simp] theorem leBytes_length (n v : Nat) : (leBytes n v).length = n := by
  induction n generalizing v with
  | zero => rfl
  | succ n ih => simp [leBytes, ih]

@[simp] theorem zeros_length (n : Nat) : (zeros n).length = n := by simp [zeros]

@[simp] theorem slice_length (bs : List Byte) (off n : Nat) : (slice bs off n).length = n := by
  simp only [slice, List.length_append, List.length_replicate, List.length_take, List.length_drop]
  omega

@[simp] theorem fit_length (bs : List Byte) (n : Nat) : (fit bs n).length = n := slice_length bs 0 n

@[simp] theorem ascii_length (t : String) (n : Nat) : (ascii t n).length = n := by
  simp only [ascii, List.length_append, List.length_replicate, List.length_take]
  omega

@[simp] theorem overlay_length (bs v : List Byte) (off : Nat) (h : off ≤ bs.length) : (overlay bs off v).length = bs.length := by
  simp only [overlay, List.length_append, List.length_take, List.length_drop]
  omega

/-- A number that fits is given back by its bytes. -/
theorem leNat_leBytes (n v : Nat) : leNat (leBytes n v) = v % 256 ^ n := by
  induction n generalizing v with
  | zero => simp [leBytes, leNat, Nat.mod_one]
  | succ n ih =>
    simp only [leBytes, leNat, ih, BitVec.toNat_ofNat]
    rw [show (256 : Nat) ^ (n + 1) = 256 * 256 ^ n from Nat.pow_succ' , Nat.mod_mul]

theorem fld_append_right (l m : List Byte) (off n : Nat) (h : l.length ≤ off) : fld (l ++ m) off n = fld m (off - l.length) n := by
  simp only [fld, List.drop_append, List.drop_eq_nil_of_le h, List.nil_append]

theorem fld_append_left (l m : List Byte) (off n : Nat) (h : off + n ≤ l.length) : fld (l ++ m) off n = fld l off n := by
  unfold fld
  rw [List.drop_append_of_le_length (by omega), List.take_append_of_le_length (by simp; omega)]

/-- The field of `n` bytes at the start of a record that begins with the bytes of `v`. -/
theorem fld_leBytes (n v : Nat) (t : List Byte) : fld (leBytes n v ++ t) 0 n = v % 256 ^ n := by
  rw [fld_append_left _ _ _ _ (by simp)]
  have : (leBytes n v).take n = leBytes n v := List.take_of_length_le (by simp)
  simp only [fld, List.drop_zero, this, leNat_leBytes]

theorem leNat_lt (bs : List Byte) : leNat bs < 256 ^ bs.length := by
  induction bs with
  | nil => simp [leNat]
  | cons b t ih =>
    have := b.isLt
    simp only [leNat, List.length_cons, Nat.pow_succ]
    omega

theorem fld_lt (bs : List Byte) (off n : Nat) : fld bs off n < 256 ^ n := by
  refine Nat.lt_of_lt_of_le (leNat_lt _) (Nat.pow_le_pow_right (by omega) ?_)
  simp only [List.length_take, List.length_drop]
  omega

theorem leBytes_leNat (bs : List Byte) : leBytes bs.length (leNat bs) = bs := by
  induction bs with
  | nil => rfl
  | cons b t ih =>
    have := b.isLt
    simp only [leNat, List.length_cons, leBytes]
    have h2 : (b.toNat + 256 * leNat t) / 256 = leNat t := by omega
    rw [h2, ih]
    congr 1
    apply BitVec.eq_of_toNat_eq
    simp only [BitVec.toNat_ofNat]
    omega

/-- A field by the bytes it takes; past the end they are zero. -/
theorem fld_getD (bs : List Byte) (o k : Nat) : fld bs o k = leNat ((List.range k).map fun i => bs.getD (o + i) 0) := by
  unfold fld
  induction k generalizing o with
  | zero => simp [leNat]
  | succ k ih =>
    rw [List.range_succ_eq_map]
    simp only [List.map_cons, List.map_map, leNat]
    cases h : bs.drop o with
    | nil =>
      have hl : bs.length ≤ o := by simpa using h
      have z : ∀ i, bs.getD (o + i) 0 = 0 := fun i => by simp [List.getD, List.getElem?_eq_none (by omega : bs.length ≤ o + i)]
      have := ih (o + 1)
      rw [List.drop_eq_nil_of_le (by omega)] at this
      have z' : ∀ i, bs.getD (o + 1 + i) 0 = 0 := fun i => by simp [List.getD, List.getElem?_eq_none (by omega : bs.length ≤ o + 1 + i)]
      simp only [z', List.take_nil, leNat] at this
      simp only [List.take_nil, leNat, Function.comp_def, z]
      rw [← this]; rfl
    | cons b t =>
      have h0 : bs.getD (o + 0) 0 = b := by
        have := congrArg (fun l => l.getD 0 0) h
        simpa [List.getD] using this
      have ht : bs.drop (o + 1) = t := by rw [← List.drop_drop, h]; rfl
      have := ih (o + 1)
      rw [ht] at this
      simp only [List.take_succ_cons, leNat, h0, this, Function.comp_def]
      congr 3
      apply List.map_congr_left
      intro i _
      congr 1
      omega

theorem slice_getD (bs : List Byte) (off n i : Nat) (h : i < n) : (slice bs off n).getD i 0 = bs.getD (off + i) 0 := by
  simp only [slice, List.getD, List.getElem?_append, List.getElem?_take, List.getElem?_drop, List.getElem?_replicate, List.length_take, List.length_drop]
  by_cases h1 : i < min n (bs.length - off)
  · rw [if_pos h1, if_pos h]
  · rw [if_neg h1, List.getElem?_eq_none (by omega : bs.length ≤ off + i)]
    split <;> rfl

/-- A field of a slice is a field of the whole. -/
theorem fld_slice (bs : List Byte) (off n o k : Nat) (h : o + k ≤ n) : fld (slice bs off n) o k = fld bs (off + o) k := by
  rw [fld_getD, fld_getD]
  congr 1
  apply List.map_congr_left
  intro i hi
  rw [List.mem_range] at hi
  rw [slice_getD _ _ _ _ (by omega)]
  congr 1; omega

end Sys2Proof.Machine
end

