-- ==== Sys2Proof/Laws/State.lean ====
section
/-! SUPPORT. One lemma per field per update of the state: an update leaves every field it does not name. -/

namespace Sys2Proof.Machine

@[simp] theorem reach_ident (s : State) (due : Nat) : (reach s due).ident = s.ident := rfl
@[simp] theorem reach_klv (s : State) (due : Nat) : (reach s due).klv = s.klv := rfl
@[simp] theorem reach_prt (s : State) (due : Nat) : (reach s due).prt = s.prt := rfl
@[simp] theorem reach_clus (s : State) (due : Nat) : (reach s due).clus = s.clus := rfl
@[simp] theorem reach_slots (s : State) (due : Nat) : (reach s due).slots = s.slots := rfl
@[simp] theorem reach_arrs (s : State) (due : Nat) : (reach s due).arrs = s.arrs := rfl
@[simp] theorem reach_coh (s : State) (due : Nat) : (reach s due).coh = s.coh := rfl
@[simp] theorem reach_sch (s : State) (due : Nat) : (reach s due).sch = s.sch := rfl
@[simp] theorem reach_tie (s : State) (due : Nat) : (reach s due).tie = s.tie := rfl
@[simp] theorem reach_ing (s : State) (due : Nat) : (reach s due).ing = s.ing := rfl
@[simp] theorem reach_srch (s : State) (due : Nat) : (reach s due).srch = s.srch := rfl
@[simp] theorem reach_lnk (s : State) (due : Nat) : (reach s due).lnk = s.lnk := rfl
@[simp] theorem reach_ras (s : State) (due : Nat) : (reach s due).ras = s.ras := rfl
@[simp] theorem reach_ftl (s : State) (due : Nat) : (reach s due).ftl = s.ftl := rfl
@[simp] theorem reach_nvm (s : State) (due : Nat) : (reach s due).nvm = s.nvm := rfl
@[simp] theorem reach_rst (s : State) (due : Nat) : (reach s due).rst = s.rst := rfl
@[simp] theorem reach_clk (s : State) (due : Nat) : (reach s due).clk = s.clk := rfl
@[simp] theorem reach_pwr (s : State) (due : Nat) : (reach s due).pwr = s.pwr := rfl
@[simp] theorem reach_fw (s : State) (due : Nat) : (reach s due).fw = s.fw := rfl
@[simp] theorem reach_dbg (s : State) (due : Nat) : (reach s due).dbg = s.dbg := rfl
@[simp] theorem reach_mi (s : State) (due : Nat) : (reach s due).mi = s.mi := rfl
@[simp] theorem reach_mem (s : State) (due : Nat) : (reach s due).mem = s.mem := rfl
@[simp] theorem reach_hmem (s : State) (due : Nat) : (reach s due).hmem = s.hmem := rfl
@[simp] theorem reach_out (s : State) (due : Nat) : (reach s due).out = s.out := rfl
@[simp] theorem reach_rdata (s : State) (due : Nat) : (reach s due).rdata = s.rdata := rfl
@[simp] theorem reach_free (s : State) (due : Nat) : (reach s due).free = s.free := rfl
@[simp] theorem reach_hdead (s : State) (due : Nat) : (reach s due).hdead = s.hdead := rfl
@[simp] theorem reach_bus (s : State) (due : Nat) : (reach s due).bus = s.bus := rfl
@[simp] theorem reach_pending (s : State) (due : Nat) : (reach s due).pending = s.pending := rfl

@[simp] theorem drawn_ident (s : State) : (drawn s).ident = s.ident := rfl
@[simp] theorem drawn_ts (s : State) : (drawn s).ts = s.ts := rfl
@[simp] theorem drawn_klv (s : State) : (drawn s).klv = s.klv := rfl
@[simp] theorem drawn_prt (s : State) : (drawn s).prt = s.prt := rfl
@[simp] theorem drawn_clus (s : State) : (drawn s).clus = s.clus := rfl
@[simp] theorem drawn_slots (s : State) : (drawn s).slots = s.slots := rfl
@[simp] theorem drawn_arrs (s : State) : (drawn s).arrs = s.arrs := rfl
@[simp] theorem drawn_coh (s : State) : (drawn s).coh = s.coh := rfl
@[simp] theorem drawn_sch (s : State) : (drawn s).sch = s.sch := rfl
@[simp] theorem drawn_tie (s : State) : (drawn s).tie = s.tie := rfl
@[simp] theorem drawn_ing (s : State) : (drawn s).ing = s.ing := rfl
@[simp] theorem drawn_srch (s : State) : (drawn s).srch = s.srch := rfl
@[simp] theorem drawn_lnk (s : State) : (drawn s).lnk = s.lnk := rfl
@[simp] theorem drawn_ras (s : State) : (drawn s).ras = s.ras := rfl
@[simp] theorem drawn_ftl (s : State) : (drawn s).ftl = s.ftl := rfl
@[simp] theorem drawn_nvm (s : State) : (drawn s).nvm = s.nvm := rfl
@[simp] theorem drawn_rst (s : State) : (drawn s).rst = s.rst := rfl
@[simp] theorem drawn_clk (s : State) : (drawn s).clk = s.clk := rfl
@[simp] theorem drawn_pwr (s : State) : (drawn s).pwr = s.pwr := rfl
@[simp] theorem drawn_fw (s : State) : (drawn s).fw = s.fw := rfl
@[simp] theorem drawn_dbg (s : State) : (drawn s).dbg = s.dbg := rfl
@[simp] theorem drawn_mi (s : State) : (drawn s).mi = s.mi := rfl
@[simp] theorem drawn_mem (s : State) : (drawn s).mem = s.mem := rfl
@[simp] theorem drawn_hmem (s : State) : (drawn s).hmem = s.hmem := rfl
@[simp] theorem drawn_out (s : State) : (drawn s).out = s.out := rfl
@[simp] theorem drawn_rdata (s : State) : (drawn s).rdata = s.rdata := rfl
@[simp] theorem drawn_hdead (s : State) : (drawn s).hdead = s.hdead := rfl
@[simp] theorem drawn_bus (s : State) : (drawn s).bus = s.bus := rfl
@[simp] theorem drawn_pending (s : State) : (drawn s).pending = s.pending := rfl

@[simp] theorem emit_ident (s : State) (o : Out) : (emit s o).ident = s.ident := rfl
@[simp] theorem emit_ts (s : State) (o : Out) : (emit s o).ts = s.ts := rfl
@[simp] theorem emit_klv (s : State) (o : Out) : (emit s o).klv = s.klv := rfl
@[simp] theorem emit_prt (s : State) (o : Out) : (emit s o).prt = s.prt := rfl
@[simp] theorem emit_clus (s : State) (o : Out) : (emit s o).clus = s.clus := rfl
@[simp] theorem emit_slots (s : State) (o : Out) : (emit s o).slots = s.slots := rfl
@[simp] theorem emit_arrs (s : State) (o : Out) : (emit s o).arrs = s.arrs := rfl
@[simp] theorem emit_coh (s : State) (o : Out) : (emit s o).coh = s.coh := rfl
@[simp] theorem emit_sch (s : State) (o : Out) : (emit s o).sch = s.sch := rfl
@[simp] theorem emit_tie (s : State) (o : Out) : (emit s o).tie = s.tie := rfl
@[simp] theorem emit_ing (s : State) (o : Out) : (emit s o).ing = s.ing := rfl
@[simp] theorem emit_srch (s : State) (o : Out) : (emit s o).srch = s.srch := rfl
@[simp] theorem emit_lnk (s : State) (o : Out) : (emit s o).lnk = s.lnk := rfl
@[simp] theorem emit_ras (s : State) (o : Out) : (emit s o).ras = s.ras := rfl
@[simp] theorem emit_ftl (s : State) (o : Out) : (emit s o).ftl = s.ftl := rfl
@[simp] theorem emit_nvm (s : State) (o : Out) : (emit s o).nvm = s.nvm := rfl
@[simp] theorem emit_rst (s : State) (o : Out) : (emit s o).rst = s.rst := rfl
@[simp] theorem emit_clk (s : State) (o : Out) : (emit s o).clk = s.clk := rfl
@[simp] theorem emit_pwr (s : State) (o : Out) : (emit s o).pwr = s.pwr := rfl
@[simp] theorem emit_fw (s : State) (o : Out) : (emit s o).fw = s.fw := rfl
@[simp] theorem emit_dbg (s : State) (o : Out) : (emit s o).dbg = s.dbg := rfl
@[simp] theorem emit_mi (s : State) (o : Out) : (emit s o).mi = s.mi := rfl
@[simp] theorem emit_mem (s : State) (o : Out) : (emit s o).mem = s.mem := rfl
@[simp] theorem emit_hmem (s : State) (o : Out) : (emit s o).hmem = s.hmem := rfl
@[simp] theorem emit_rdata (s : State) (o : Out) : (emit s o).rdata = s.rdata := rfl
@[simp] theorem emit_free (s : State) (o : Out) : (emit s o).free = s.free := rfl
@[simp] theorem emit_hdead (s : State) (o : Out) : (emit s o).hdead = s.hdead := rfl
@[simp] theorem emit_bus (s : State) (o : Out) : (emit s o).bus = s.bus := rfl
@[simp] theorem emit_pending (s : State) (o : Out) : (emit s o).pending = s.pending := rfl

@[simp] theorem updPst_ident (s : State) (p : Nat) (f : PartState → PartState) : (updPst s p f).ident = s.ident := rfl
@[simp] theorem updPst_ts (s : State) (p : Nat) (f : PartState → PartState) : (updPst s p f).ts = s.ts := rfl
@[simp] theorem updPst_klv (s : State) (p : Nat) (f : PartState → PartState) : (updPst s p f).klv = s.klv := rfl
@[simp] theorem updPst_clus (s : State) (p : Nat) (f : PartState → PartState) : (updPst s p f).clus = s.clus := rfl
@[simp] theorem updPst_slots (s : State) (p : Nat) (f : PartState → PartState) : (updPst s p f).slots = s.slots := rfl
@[simp] theorem updPst_arrs (s : State) (p : Nat) (f : PartState → PartState) : (updPst s p f).arrs = s.arrs := rfl
@[simp] theorem updPst_coh (s : State) (p : Nat) (f : PartState → PartState) : (updPst s p f).coh = s.coh := rfl
@[simp] theorem updPst_sch (s : State) (p : Nat) (f : PartState → PartState) : (updPst s p f).sch = s.sch := rfl
@[simp] theorem updPst_tie (s : State) (p : Nat) (f : PartState → PartState) : (updPst s p f).tie = s.tie := rfl
@[simp] theorem updPst_ing (s : State) (p : Nat) (f : PartState → PartState) : (updPst s p f).ing = s.ing := rfl
@[simp] theorem updPst_srch (s : State) (p : Nat) (f : PartState → PartState) : (updPst s p f).srch = s.srch := rfl
@[simp] theorem updPst_lnk (s : State) (p : Nat) (f : PartState → PartState) : (updPst s p f).lnk = s.lnk := rfl
@[simp] theorem updPst_ras (s : State) (p : Nat) (f : PartState → PartState) : (updPst s p f).ras = s.ras := rfl
@[simp] theorem updPst_ftl (s : State) (p : Nat) (f : PartState → PartState) : (updPst s p f).ftl = s.ftl := rfl
@[simp] theorem updPst_nvm (s : State) (p : Nat) (f : PartState → PartState) : (updPst s p f).nvm = s.nvm := rfl
@[simp] theorem updPst_rst (s : State) (p : Nat) (f : PartState → PartState) : (updPst s p f).rst = s.rst := rfl
@[simp] theorem updPst_clk (s : State) (p : Nat) (f : PartState → PartState) : (updPst s p f).clk = s.clk := rfl
@[simp] theorem updPst_pwr (s : State) (p : Nat) (f : PartState → PartState) : (updPst s p f).pwr = s.pwr := rfl
@[simp] theorem updPst_fw (s : State) (p : Nat) (f : PartState → PartState) : (updPst s p f).fw = s.fw := rfl
@[simp] theorem updPst_dbg (s : State) (p : Nat) (f : PartState → PartState) : (updPst s p f).dbg = s.dbg := rfl
@[simp] theorem updPst_mi (s : State) (p : Nat) (f : PartState → PartState) : (updPst s p f).mi = s.mi := rfl
@[simp] theorem updPst_mem (s : State) (p : Nat) (f : PartState → PartState) : (updPst s p f).mem = s.mem := rfl
@[simp] theorem updPst_hmem (s : State) (p : Nat) (f : PartState → PartState) : (updPst s p f).hmem = s.hmem := rfl
@[simp] theorem updPst_out (s : State) (p : Nat) (f : PartState → PartState) : (updPst s p f).out = s.out := rfl
@[simp] theorem updPst_rdata (s : State) (p : Nat) (f : PartState → PartState) : (updPst s p f).rdata = s.rdata := rfl
@[simp] theorem updPst_free (s : State) (p : Nat) (f : PartState → PartState) : (updPst s p f).free = s.free := rfl
@[simp] theorem updPst_hdead (s : State) (p : Nat) (f : PartState → PartState) : (updPst s p f).hdead = s.hdead := rfl
@[simp] theorem updPst_bus (s : State) (p : Nat) (f : PartState → PartState) : (updPst s p f).bus = s.bus := rfl
@[simp] theorem updPst_pending (s : State) (p : Nat) (f : PartState → PartState) : (updPst s p f).pending = s.pending := rfl

@[simp] theorem updMb_ident (s : State) (n : Nat) (f : Mailbox → Mailbox) : (updMb s n f).ident = s.ident := rfl
@[simp] theorem updMb_ts (s : State) (n : Nat) (f : Mailbox → Mailbox) : (updMb s n f).ts = s.ts := rfl
@[simp] theorem updMb_prt (s : State) (n : Nat) (f : Mailbox → Mailbox) : (updMb s n f).prt = s.prt := rfl
@[simp] theorem updMb_clus (s : State) (n : Nat) (f : Mailbox → Mailbox) : (updMb s n f).clus = s.clus := rfl
@[simp] theorem updMb_slots (s : State) (n : Nat) (f : Mailbox → Mailbox) : (updMb s n f).slots = s.slots := rfl
@[simp] theorem updMb_arrs (s : State) (n : Nat) (f : Mailbox → Mailbox) : (updMb s n f).arrs = s.arrs := rfl
@[simp] theorem updMb_coh (s : State) (n : Nat) (f : Mailbox → Mailbox) : (updMb s n f).coh = s.coh := rfl
@[simp] theorem updMb_sch (s : State) (n : Nat) (f : Mailbox → Mailbox) : (updMb s n f).sch = s.sch := rfl
@[simp] theorem updMb_tie (s : State) (n : Nat) (f : Mailbox → Mailbox) : (updMb s n f).tie = s.tie := rfl
@[simp] theorem updMb_ing (s : State) (n : Nat) (f : Mailbox → Mailbox) : (updMb s n f).ing = s.ing := rfl
@[simp] theorem updMb_srch (s : State) (n : Nat) (f : Mailbox → Mailbox) : (updMb s n f).srch = s.srch := rfl
@[simp] theorem updMb_lnk (s : State) (n : Nat) (f : Mailbox → Mailbox) : (updMb s n f).lnk = s.lnk := rfl
@[simp] theorem updMb_ras (s : State) (n : Nat) (f : Mailbox → Mailbox) : (updMb s n f).ras = s.ras := rfl
@[simp] theorem updMb_ftl (s : State) (n : Nat) (f : Mailbox → Mailbox) : (updMb s n f).ftl = s.ftl := rfl
@[simp] theorem updMb_nvm (s : State) (n : Nat) (f : Mailbox → Mailbox) : (updMb s n f).nvm = s.nvm := rfl
@[simp] theorem updMb_rst (s : State) (n : Nat) (f : Mailbox → Mailbox) : (updMb s n f).rst = s.rst := rfl
@[simp] theorem updMb_clk (s : State) (n : Nat) (f : Mailbox → Mailbox) : (updMb s n f).clk = s.clk := rfl
@[simp] theorem updMb_pwr (s : State) (n : Nat) (f : Mailbox → Mailbox) : (updMb s n f).pwr = s.pwr := rfl
@[simp] theorem updMb_fw (s : State) (n : Nat) (f : Mailbox → Mailbox) : (updMb s n f).fw = s.fw := rfl
@[simp] theorem updMb_dbg (s : State) (n : Nat) (f : Mailbox → Mailbox) : (updMb s n f).dbg = s.dbg := rfl
@[simp] theorem updMb_mi (s : State) (n : Nat) (f : Mailbox → Mailbox) : (updMb s n f).mi = s.mi := rfl
@[simp] theorem updMb_mem (s : State) (n : Nat) (f : Mailbox → Mailbox) : (updMb s n f).mem = s.mem := rfl
@[simp] theorem updMb_hmem (s : State) (n : Nat) (f : Mailbox → Mailbox) : (updMb s n f).hmem = s.hmem := rfl
@[simp] theorem updMb_out (s : State) (n : Nat) (f : Mailbox → Mailbox) : (updMb s n f).out = s.out := rfl
@[simp] theorem updMb_rdata (s : State) (n : Nat) (f : Mailbox → Mailbox) : (updMb s n f).rdata = s.rdata := rfl
@[simp] theorem updMb_free (s : State) (n : Nat) (f : Mailbox → Mailbox) : (updMb s n f).free = s.free := rfl
@[simp] theorem updMb_hdead (s : State) (n : Nat) (f : Mailbox → Mailbox) : (updMb s n f).hdead = s.hdead := rfl
@[simp] theorem updMb_bus (s : State) (n : Nat) (f : Mailbox → Mailbox) : (updMb s n f).bus = s.bus := rfl
@[simp] theorem updMb_pending (s : State) (n : Nat) (f : Mailbox → Mailbox) : (updMb s n f).pending = s.pending := rfl

@[simp] theorem updExec_ident (s : State) (r : ReqId) (f : Exec → Exec) : (updExec s r f).ident = s.ident := rfl
@[simp] theorem updExec_ts (s : State) (r : ReqId) (f : Exec → Exec) : (updExec s r f).ts = s.ts := rfl
@[simp] theorem updExec_prt (s : State) (r : ReqId) (f : Exec → Exec) : (updExec s r f).prt = s.prt := rfl
@[simp] theorem updExec_clus (s : State) (r : ReqId) (f : Exec → Exec) : (updExec s r f).clus = s.clus := rfl
@[simp] theorem updExec_slots (s : State) (r : ReqId) (f : Exec → Exec) : (updExec s r f).slots = s.slots := rfl
@[simp] theorem updExec_arrs (s : State) (r : ReqId) (f : Exec → Exec) : (updExec s r f).arrs = s.arrs := rfl
@[simp] theorem updExec_coh (s : State) (r : ReqId) (f : Exec → Exec) : (updExec s r f).coh = s.coh := rfl
@[simp] theorem updExec_sch (s : State) (r : ReqId) (f : Exec → Exec) : (updExec s r f).sch = s.sch := rfl
@[simp] theorem updExec_tie (s : State) (r : ReqId) (f : Exec → Exec) : (updExec s r f).tie = s.tie := rfl
@[simp] theorem updExec_ing (s : State) (r : ReqId) (f : Exec → Exec) : (updExec s r f).ing = s.ing := rfl
@[simp] theorem updExec_srch (s : State) (r : ReqId) (f : Exec → Exec) : (updExec s r f).srch = s.srch := rfl
@[simp] theorem updExec_lnk (s : State) (r : ReqId) (f : Exec → Exec) : (updExec s r f).lnk = s.lnk := rfl
@[simp] theorem updExec_ras (s : State) (r : ReqId) (f : Exec → Exec) : (updExec s r f).ras = s.ras := rfl
@[simp] theorem updExec_ftl (s : State) (r : ReqId) (f : Exec → Exec) : (updExec s r f).ftl = s.ftl := rfl
@[simp] theorem updExec_nvm (s : State) (r : ReqId) (f : Exec → Exec) : (updExec s r f).nvm = s.nvm := rfl
@[simp] theorem updExec_rst (s : State) (r : ReqId) (f : Exec → Exec) : (updExec s r f).rst = s.rst := rfl
@[simp] theorem updExec_clk (s : State) (r : ReqId) (f : Exec → Exec) : (updExec s r f).clk = s.clk := rfl
@[simp] theorem updExec_pwr (s : State) (r : ReqId) (f : Exec → Exec) : (updExec s r f).pwr = s.pwr := rfl
@[simp] theorem updExec_fw (s : State) (r : ReqId) (f : Exec → Exec) : (updExec s r f).fw = s.fw := rfl
@[simp] theorem updExec_dbg (s : State) (r : ReqId) (f : Exec → Exec) : (updExec s r f).dbg = s.dbg := rfl
@[simp] theorem updExec_mi (s : State) (r : ReqId) (f : Exec → Exec) : (updExec s r f).mi = s.mi := rfl
@[simp] theorem updExec_mem (s : State) (r : ReqId) (f : Exec → Exec) : (updExec s r f).mem = s.mem := rfl
@[simp] theorem updExec_hmem (s : State) (r : ReqId) (f : Exec → Exec) : (updExec s r f).hmem = s.hmem := rfl
@[simp] theorem updExec_out (s : State) (r : ReqId) (f : Exec → Exec) : (updExec s r f).out = s.out := rfl
@[simp] theorem updExec_rdata (s : State) (r : ReqId) (f : Exec → Exec) : (updExec s r f).rdata = s.rdata := rfl
@[simp] theorem updExec_free (s : State) (r : ReqId) (f : Exec → Exec) : (updExec s r f).free = s.free := rfl
@[simp] theorem updExec_hdead (s : State) (r : ReqId) (f : Exec → Exec) : (updExec s r f).hdead = s.hdead := rfl
@[simp] theorem updExec_bus (s : State) (r : ReqId) (f : Exec → Exec) : (updExec s r f).bus = s.bus := rfl
@[simp] theorem updExec_pending (s : State) (r : ReqId) (f : Exec → Exec) : (updExec s r f).pending = s.pending := rfl

@[simp] theorem commit_ident (s : State) (r : ReqId) : (commit s r).ident = s.ident := rfl
@[simp] theorem commit_ts (s : State) (r : ReqId) : (commit s r).ts = s.ts := rfl
@[simp] theorem commit_prt (s : State) (r : ReqId) : (commit s r).prt = s.prt := rfl
@[simp] theorem commit_clus (s : State) (r : ReqId) : (commit s r).clus = s.clus := rfl
@[simp] theorem commit_slots (s : State) (r : ReqId) : (commit s r).slots = s.slots := rfl
@[simp] theorem commit_arrs (s : State) (r : ReqId) : (commit s r).arrs = s.arrs := rfl
@[simp] theorem commit_coh (s : State) (r : ReqId) : (commit s r).coh = s.coh := rfl
@[simp] theorem commit_sch (s : State) (r : ReqId) : (commit s r).sch = s.sch := rfl
@[simp] theorem commit_tie (s : State) (r : ReqId) : (commit s r).tie = s.tie := rfl
@[simp] theorem commit_ing (s : State) (r : ReqId) : (commit s r).ing = s.ing := rfl
@[simp] theorem commit_srch (s : State) (r : ReqId) : (commit s r).srch = s.srch := rfl
@[simp] theorem commit_lnk (s : State) (r : ReqId) : (commit s r).lnk = s.lnk := rfl
@[simp] theorem commit_ras (s : State) (r : ReqId) : (commit s r).ras = s.ras := rfl
@[simp] theorem commit_ftl (s : State) (r : ReqId) : (commit s r).ftl = s.ftl := rfl
@[simp] theorem commit_nvm (s : State) (r : ReqId) : (commit s r).nvm = s.nvm := rfl
@[simp] theorem commit_rst (s : State) (r : ReqId) : (commit s r).rst = s.rst := rfl
@[simp] theorem commit_clk (s : State) (r : ReqId) : (commit s r).clk = s.clk := rfl
@[simp] theorem commit_pwr (s : State) (r : ReqId) : (commit s r).pwr = s.pwr := rfl
@[simp] theorem commit_fw (s : State) (r : ReqId) : (commit s r).fw = s.fw := rfl
@[simp] theorem commit_dbg (s : State) (r : ReqId) : (commit s r).dbg = s.dbg := rfl
@[simp] theorem commit_mi (s : State) (r : ReqId) : (commit s r).mi = s.mi := rfl
@[simp] theorem commit_mem (s : State) (r : ReqId) : (commit s r).mem = s.mem := rfl
@[simp] theorem commit_hmem (s : State) (r : ReqId) : (commit s r).hmem = s.hmem := rfl
@[simp] theorem commit_out (s : State) (r : ReqId) : (commit s r).out = s.out := rfl
@[simp] theorem commit_rdata (s : State) (r : ReqId) : (commit s r).rdata = s.rdata := rfl
@[simp] theorem commit_free (s : State) (r : ReqId) : (commit s r).free = s.free := rfl
@[simp] theorem commit_hdead (s : State) (r : ReqId) : (commit s r).hdead = s.hdead := rfl
@[simp] theorem commit_bus (s : State) (r : ReqId) : (commit s r).bus = s.bus := rfl
@[simp] theorem commit_pending (s : State) (r : ReqId) : (commit s r).pending = s.pending := rfl

@[simp] theorem updDir_ident (s : State) (line : Nat) (f : Dir → Dir) : (updDir s line f).ident = s.ident := rfl
@[simp] theorem updDir_ts (s : State) (line : Nat) (f : Dir → Dir) : (updDir s line f).ts = s.ts := rfl
@[simp] theorem updDir_klv (s : State) (line : Nat) (f : Dir → Dir) : (updDir s line f).klv = s.klv := rfl
@[simp] theorem updDir_prt (s : State) (line : Nat) (f : Dir → Dir) : (updDir s line f).prt = s.prt := rfl
@[simp] theorem updDir_clus (s : State) (line : Nat) (f : Dir → Dir) : (updDir s line f).clus = s.clus := rfl
@[simp] theorem updDir_slots (s : State) (line : Nat) (f : Dir → Dir) : (updDir s line f).slots = s.slots := rfl
@[simp] theorem updDir_arrs (s : State) (line : Nat) (f : Dir → Dir) : (updDir s line f).arrs = s.arrs := rfl
@[simp] theorem updDir_sch (s : State) (line : Nat) (f : Dir → Dir) : (updDir s line f).sch = s.sch := rfl
@[simp] theorem updDir_tie (s : State) (line : Nat) (f : Dir → Dir) : (updDir s line f).tie = s.tie := rfl
@[simp] theorem updDir_ing (s : State) (line : Nat) (f : Dir → Dir) : (updDir s line f).ing = s.ing := rfl
@[simp] theorem updDir_srch (s : State) (line : Nat) (f : Dir → Dir) : (updDir s line f).srch = s.srch := rfl
@[simp] theorem updDir_lnk (s : State) (line : Nat) (f : Dir → Dir) : (updDir s line f).lnk = s.lnk := rfl
@[simp] theorem updDir_ras (s : State) (line : Nat) (f : Dir → Dir) : (updDir s line f).ras = s.ras := rfl
@[simp] theorem updDir_ftl (s : State) (line : Nat) (f : Dir → Dir) : (updDir s line f).ftl = s.ftl := rfl
@[simp] theorem updDir_nvm (s : State) (line : Nat) (f : Dir → Dir) : (updDir s line f).nvm = s.nvm := rfl
@[simp] theorem updDir_rst (s : State) (line : Nat) (f : Dir → Dir) : (updDir s line f).rst = s.rst := rfl
@[simp] theorem updDir_clk (s : State) (line : Nat) (f : Dir → Dir) : (updDir s line f).clk = s.clk := rfl
@[simp] theorem updDir_pwr (s : State) (line : Nat) (f : Dir → Dir) : (updDir s line f).pwr = s.pwr := rfl
@[simp] theorem updDir_fw (s : State) (line : Nat) (f : Dir → Dir) : (updDir s line f).fw = s.fw := rfl
@[simp] theorem updDir_dbg (s : State) (line : Nat) (f : Dir → Dir) : (updDir s line f).dbg = s.dbg := rfl
@[simp] theorem updDir_mi (s : State) (line : Nat) (f : Dir → Dir) : (updDir s line f).mi = s.mi := rfl
@[simp] theorem updDir_mem (s : State) (line : Nat) (f : Dir → Dir) : (updDir s line f).mem = s.mem := rfl
@[simp] theorem updDir_hmem (s : State) (line : Nat) (f : Dir → Dir) : (updDir s line f).hmem = s.hmem := rfl
@[simp] theorem updDir_out (s : State) (line : Nat) (f : Dir → Dir) : (updDir s line f).out = s.out := rfl
@[simp] theorem updDir_rdata (s : State) (line : Nat) (f : Dir → Dir) : (updDir s line f).rdata = s.rdata := rfl
@[simp] theorem updDir_free (s : State) (line : Nat) (f : Dir → Dir) : (updDir s line f).free = s.free := rfl
@[simp] theorem updDir_hdead (s : State) (line : Nat) (f : Dir → Dir) : (updDir s line f).hdead = s.hdead := rfl
@[simp] theorem updDir_bus (s : State) (line : Nat) (f : Dir → Dir) : (updDir s line f).bus = s.bus := rfl
@[simp] theorem updDir_pending (s : State) (line : Nat) (f : Dir → Dir) : (updDir s line f).pending = s.pending := rfl

@[simp] theorem updClu_ident (s : State) (c : Nat) (f : Cluster → Cluster) : (updClu s c f).ident = s.ident := rfl
@[simp] theorem updClu_ts (s : State) (c : Nat) (f : Cluster → Cluster) : (updClu s c f).ts = s.ts := rfl
@[simp] theorem updClu_klv (s : State) (c : Nat) (f : Cluster → Cluster) : (updClu s c f).klv = s.klv := rfl
@[simp] theorem updClu_prt (s : State) (c : Nat) (f : Cluster → Cluster) : (updClu s c f).prt = s.prt := rfl
@[simp] theorem updClu_slots (s : State) (c : Nat) (f : Cluster → Cluster) : (updClu s c f).slots = s.slots := rfl
@[simp] theorem updClu_arrs (s : State) (c : Nat) (f : Cluster → Cluster) : (updClu s c f).arrs = s.arrs := rfl
@[simp] theorem updClu_coh (s : State) (c : Nat) (f : Cluster → Cluster) : (updClu s c f).coh = s.coh := rfl
@[simp] theorem updClu_sch (s : State) (c : Nat) (f : Cluster → Cluster) : (updClu s c f).sch = s.sch := rfl
@[simp] theorem updClu_tie (s : State) (c : Nat) (f : Cluster → Cluster) : (updClu s c f).tie = s.tie := rfl
@[simp] theorem updClu_ing (s : State) (c : Nat) (f : Cluster → Cluster) : (updClu s c f).ing = s.ing := rfl
@[simp] theorem updClu_srch (s : State) (c : Nat) (f : Cluster → Cluster) : (updClu s c f).srch = s.srch := rfl
@[simp] theorem updClu_lnk (s : State) (c : Nat) (f : Cluster → Cluster) : (updClu s c f).lnk = s.lnk := rfl
@[simp] theorem updClu_ras (s : State) (c : Nat) (f : Cluster → Cluster) : (updClu s c f).ras = s.ras := rfl
@[simp] theorem updClu_ftl (s : State) (c : Nat) (f : Cluster → Cluster) : (updClu s c f).ftl = s.ftl := rfl
@[simp] theorem updClu_nvm (s : State) (c : Nat) (f : Cluster → Cluster) : (updClu s c f).nvm = s.nvm := rfl
@[simp] theorem updClu_rst (s : State) (c : Nat) (f : Cluster → Cluster) : (updClu s c f).rst = s.rst := rfl
@[simp] theorem updClu_clk (s : State) (c : Nat) (f : Cluster → Cluster) : (updClu s c f).clk = s.clk := rfl
@[simp] theorem updClu_pwr (s : State) (c : Nat) (f : Cluster → Cluster) : (updClu s c f).pwr = s.pwr := rfl
@[simp] theorem updClu_fw (s : State) (c : Nat) (f : Cluster → Cluster) : (updClu s c f).fw = s.fw := rfl
@[simp] theorem updClu_dbg (s : State) (c : Nat) (f : Cluster → Cluster) : (updClu s c f).dbg = s.dbg := rfl
@[simp] theorem updClu_mi (s : State) (c : Nat) (f : Cluster → Cluster) : (updClu s c f).mi = s.mi := rfl
@[simp] theorem updClu_mem (s : State) (c : Nat) (f : Cluster → Cluster) : (updClu s c f).mem = s.mem := rfl
@[simp] theorem updClu_hmem (s : State) (c : Nat) (f : Cluster → Cluster) : (updClu s c f).hmem = s.hmem := rfl
@[simp] theorem updClu_out (s : State) (c : Nat) (f : Cluster → Cluster) : (updClu s c f).out = s.out := rfl
@[simp] theorem updClu_rdata (s : State) (c : Nat) (f : Cluster → Cluster) : (updClu s c f).rdata = s.rdata := rfl
@[simp] theorem updClu_free (s : State) (c : Nat) (f : Cluster → Cluster) : (updClu s c f).free = s.free := rfl
@[simp] theorem updClu_hdead (s : State) (c : Nat) (f : Cluster → Cluster) : (updClu s c f).hdead = s.hdead := rfl
@[simp] theorem updClu_bus (s : State) (c : Nat) (f : Cluster → Cluster) : (updClu s c f).bus = s.bus := rfl
@[simp] theorem updClu_pending (s : State) (c : Nat) (f : Cluster → Cluster) : (updClu s c f).pending = s.pending := rfl

@[simp] theorem updSlot_ident (s : State) (c i : Nat) (f : Slot → Slot) : (updSlot s c i f).ident = s.ident := rfl
@[simp] theorem updSlot_ts (s : State) (c i : Nat) (f : Slot → Slot) : (updSlot s c i f).ts = s.ts := rfl
@[simp] theorem updSlot_klv (s : State) (c i : Nat) (f : Slot → Slot) : (updSlot s c i f).klv = s.klv := rfl
@[simp] theorem updSlot_prt (s : State) (c i : Nat) (f : Slot → Slot) : (updSlot s c i f).prt = s.prt := rfl
@[simp] theorem updSlot_clus (s : State) (c i : Nat) (f : Slot → Slot) : (updSlot s c i f).clus = s.clus := rfl
@[simp] theorem updSlot_arrs (s : State) (c i : Nat) (f : Slot → Slot) : (updSlot s c i f).arrs = s.arrs := rfl
@[simp] theorem updSlot_coh (s : State) (c i : Nat) (f : Slot → Slot) : (updSlot s c i f).coh = s.coh := rfl
@[simp] theorem updSlot_sch (s : State) (c i : Nat) (f : Slot → Slot) : (updSlot s c i f).sch = s.sch := rfl
@[simp] theorem updSlot_tie (s : State) (c i : Nat) (f : Slot → Slot) : (updSlot s c i f).tie = s.tie := rfl
@[simp] theorem updSlot_ing (s : State) (c i : Nat) (f : Slot → Slot) : (updSlot s c i f).ing = s.ing := rfl
@[simp] theorem updSlot_srch (s : State) (c i : Nat) (f : Slot → Slot) : (updSlot s c i f).srch = s.srch := rfl
@[simp] theorem updSlot_lnk (s : State) (c i : Nat) (f : Slot → Slot) : (updSlot s c i f).lnk = s.lnk := rfl
@[simp] theorem updSlot_ras (s : State) (c i : Nat) (f : Slot → Slot) : (updSlot s c i f).ras = s.ras := rfl
@[simp] theorem updSlot_ftl (s : State) (c i : Nat) (f : Slot → Slot) : (updSlot s c i f).ftl = s.ftl := rfl
@[simp] theorem updSlot_nvm (s : State) (c i : Nat) (f : Slot → Slot) : (updSlot s c i f).nvm = s.nvm := rfl
@[simp] theorem updSlot_rst (s : State) (c i : Nat) (f : Slot → Slot) : (updSlot s c i f).rst = s.rst := rfl
@[simp] theorem updSlot_clk (s : State) (c i : Nat) (f : Slot → Slot) : (updSlot s c i f).clk = s.clk := rfl
@[simp] theorem updSlot_pwr (s : State) (c i : Nat) (f : Slot → Slot) : (updSlot s c i f).pwr = s.pwr := rfl
@[simp] theorem updSlot_fw (s : State) (c i : Nat) (f : Slot → Slot) : (updSlot s c i f).fw = s.fw := rfl
@[simp] theorem updSlot_dbg (s : State) (c i : Nat) (f : Slot → Slot) : (updSlot s c i f).dbg = s.dbg := rfl
@[simp] theorem updSlot_mi (s : State) (c i : Nat) (f : Slot → Slot) : (updSlot s c i f).mi = s.mi := rfl
@[simp] theorem updSlot_mem (s : State) (c i : Nat) (f : Slot → Slot) : (updSlot s c i f).mem = s.mem := rfl
@[simp] theorem updSlot_hmem (s : State) (c i : Nat) (f : Slot → Slot) : (updSlot s c i f).hmem = s.hmem := rfl
@[simp] theorem updSlot_out (s : State) (c i : Nat) (f : Slot → Slot) : (updSlot s c i f).out = s.out := rfl
@[simp] theorem updSlot_rdata (s : State) (c i : Nat) (f : Slot → Slot) : (updSlot s c i f).rdata = s.rdata := rfl
@[simp] theorem updSlot_free (s : State) (c i : Nat) (f : Slot → Slot) : (updSlot s c i f).free = s.free := rfl
@[simp] theorem updSlot_hdead (s : State) (c i : Nat) (f : Slot → Slot) : (updSlot s c i f).hdead = s.hdead := rfl
@[simp] theorem updSlot_bus (s : State) (c i : Nat) (f : Slot → Slot) : (updSlot s c i f).bus = s.bus := rfl
@[simp] theorem updSlot_pending (s : State) (c i : Nat) (f : Slot → Slot) : (updSlot s c i f).pending = s.pending := rfl

@[simp] theorem updArr_ident (s : State) (c k : Nat) (f : Arr → Arr) : (updArr s c k f).ident = s.ident := rfl
@[simp] theorem updArr_ts (s : State) (c k : Nat) (f : Arr → Arr) : (updArr s c k f).ts = s.ts := rfl
@[simp] theorem updArr_klv (s : State) (c k : Nat) (f : Arr → Arr) : (updArr s c k f).klv = s.klv := rfl
@[simp] theorem updArr_prt (s : State) (c k : Nat) (f : Arr → Arr) : (updArr s c k f).prt = s.prt := rfl
@[simp] theorem updArr_clus (s : State) (c k : Nat) (f : Arr → Arr) : (updArr s c k f).clus = s.clus := rfl
@[simp] theorem updArr_slots (s : State) (c k : Nat) (f : Arr → Arr) : (updArr s c k f).slots = s.slots := rfl
@[simp] theorem updArr_coh (s : State) (c k : Nat) (f : Arr → Arr) : (updArr s c k f).coh = s.coh := rfl
@[simp] theorem updArr_sch (s : State) (c k : Nat) (f : Arr → Arr) : (updArr s c k f).sch = s.sch := rfl
@[simp] theorem updArr_tie (s : State) (c k : Nat) (f : Arr → Arr) : (updArr s c k f).tie = s.tie := rfl
@[simp] theorem updArr_ing (s : State) (c k : Nat) (f : Arr → Arr) : (updArr s c k f).ing = s.ing := rfl
@[simp] theorem updArr_srch (s : State) (c k : Nat) (f : Arr → Arr) : (updArr s c k f).srch = s.srch := rfl
@[simp] theorem updArr_lnk (s : State) (c k : Nat) (f : Arr → Arr) : (updArr s c k f).lnk = s.lnk := rfl
@[simp] theorem updArr_ras (s : State) (c k : Nat) (f : Arr → Arr) : (updArr s c k f).ras = s.ras := rfl
@[simp] theorem updArr_ftl (s : State) (c k : Nat) (f : Arr → Arr) : (updArr s c k f).ftl = s.ftl := rfl
@[simp] theorem updArr_nvm (s : State) (c k : Nat) (f : Arr → Arr) : (updArr s c k f).nvm = s.nvm := rfl
@[simp] theorem updArr_rst (s : State) (c k : Nat) (f : Arr → Arr) : (updArr s c k f).rst = s.rst := rfl
@[simp] theorem updArr_clk (s : State) (c k : Nat) (f : Arr → Arr) : (updArr s c k f).clk = s.clk := rfl
@[simp] theorem updArr_pwr (s : State) (c k : Nat) (f : Arr → Arr) : (updArr s c k f).pwr = s.pwr := rfl
@[simp] theorem updArr_fw (s : State) (c k : Nat) (f : Arr → Arr) : (updArr s c k f).fw = s.fw := rfl
@[simp] theorem updArr_dbg (s : State) (c k : Nat) (f : Arr → Arr) : (updArr s c k f).dbg = s.dbg := rfl
@[simp] theorem updArr_mi (s : State) (c k : Nat) (f : Arr → Arr) : (updArr s c k f).mi = s.mi := rfl
@[simp] theorem updArr_mem (s : State) (c k : Nat) (f : Arr → Arr) : (updArr s c k f).mem = s.mem := rfl
@[simp] theorem updArr_hmem (s : State) (c k : Nat) (f : Arr → Arr) : (updArr s c k f).hmem = s.hmem := rfl
@[simp] theorem updArr_out (s : State) (c k : Nat) (f : Arr → Arr) : (updArr s c k f).out = s.out := rfl
@[simp] theorem updArr_rdata (s : State) (c k : Nat) (f : Arr → Arr) : (updArr s c k f).rdata = s.rdata := rfl
@[simp] theorem updArr_free (s : State) (c k : Nat) (f : Arr → Arr) : (updArr s c k f).free = s.free := rfl
@[simp] theorem updArr_hdead (s : State) (c k : Nat) (f : Arr → Arr) : (updArr s c k f).hdead = s.hdead := rfl
@[simp] theorem updArr_bus (s : State) (c k : Nat) (f : Arr → Arr) : (updArr s c k f).bus = s.bus := rfl
@[simp] theorem updArr_pending (s : State) (c k : Nat) (f : Arr → Arr) : (updArr s c k f).pending = s.pending := rfl

@[simp] theorem storeWrite_ident (s : State) (a : Nat) (bs : List Byte) : (storeWrite s a bs).ident = s.ident := rfl
@[simp] theorem storeWrite_ts (s : State) (a : Nat) (bs : List Byte) : (storeWrite s a bs).ts = s.ts := rfl
@[simp] theorem storeWrite_klv (s : State) (a : Nat) (bs : List Byte) : (storeWrite s a bs).klv = s.klv := rfl
@[simp] theorem storeWrite_prt (s : State) (a : Nat) (bs : List Byte) : (storeWrite s a bs).prt = s.prt := rfl
@[simp] theorem storeWrite_clus (s : State) (a : Nat) (bs : List Byte) : (storeWrite s a bs).clus = s.clus := rfl
@[simp] theorem storeWrite_slots (s : State) (a : Nat) (bs : List Byte) : (storeWrite s a bs).slots = s.slots := rfl
@[simp] theorem storeWrite_coh (s : State) (a : Nat) (bs : List Byte) : (storeWrite s a bs).coh = s.coh := rfl
@[simp] theorem storeWrite_sch (s : State) (a : Nat) (bs : List Byte) : (storeWrite s a bs).sch = s.sch := rfl
@[simp] theorem storeWrite_tie (s : State) (a : Nat) (bs : List Byte) : (storeWrite s a bs).tie = s.tie := rfl
@[simp] theorem storeWrite_ing (s : State) (a : Nat) (bs : List Byte) : (storeWrite s a bs).ing = s.ing := rfl
@[simp] theorem storeWrite_srch (s : State) (a : Nat) (bs : List Byte) : (storeWrite s a bs).srch = s.srch := rfl
@[simp] theorem storeWrite_lnk (s : State) (a : Nat) (bs : List Byte) : (storeWrite s a bs).lnk = s.lnk := rfl
@[simp] theorem storeWrite_ftl (s : State) (a : Nat) (bs : List Byte) : (storeWrite s a bs).ftl = s.ftl := rfl
@[simp] theorem storeWrite_nvm (s : State) (a : Nat) (bs : List Byte) : (storeWrite s a bs).nvm = s.nvm := rfl
@[simp] theorem storeWrite_rst (s : State) (a : Nat) (bs : List Byte) : (storeWrite s a bs).rst = s.rst := rfl
@[simp] theorem storeWrite_clk (s : State) (a : Nat) (bs : List Byte) : (storeWrite s a bs).clk = s.clk := rfl
@[simp] theorem storeWrite_pwr (s : State) (a : Nat) (bs : List Byte) : (storeWrite s a bs).pwr = s.pwr := rfl
@[simp] theorem storeWrite_fw (s : State) (a : Nat) (bs : List Byte) : (storeWrite s a bs).fw = s.fw := rfl
@[simp] theorem storeWrite_dbg (s : State) (a : Nat) (bs : List Byte) : (storeWrite s a bs).dbg = s.dbg := rfl
@[simp] theorem storeWrite_mi (s : State) (a : Nat) (bs : List Byte) : (storeWrite s a bs).mi = s.mi := rfl
@[simp] theorem storeWrite_hmem (s : State) (a : Nat) (bs : List Byte) : (storeWrite s a bs).hmem = s.hmem := rfl
@[simp] theorem storeWrite_out (s : State) (a : Nat) (bs : List Byte) : (storeWrite s a bs).out = s.out := rfl
@[simp] theorem storeWrite_rdata (s : State) (a : Nat) (bs : List Byte) : (storeWrite s a bs).rdata = s.rdata := rfl
@[simp] theorem storeWrite_free (s : State) (a : Nat) (bs : List Byte) : (storeWrite s a bs).free = s.free := rfl
@[simp] theorem storeWrite_hdead (s : State) (a : Nat) (bs : List Byte) : (storeWrite s a bs).hdead = s.hdead := rfl
@[simp] theorem storeWrite_bus (s : State) (a : Nat) (bs : List Byte) : (storeWrite s a bs).bus = s.bus := rfl
@[simp] theorem storeWrite_pending (s : State) (a : Nat) (bs : List Byte) : (storeWrite s a bs).pending = s.pending := rfl

@[simp] theorem storeMove_ident (s : State) (a b n : Nat) : (storeMove s a b n).ident = s.ident := rfl
@[simp] theorem storeMove_ts (s : State) (a b n : Nat) : (storeMove s a b n).ts = s.ts := rfl
@[simp] theorem storeMove_klv (s : State) (a b n : Nat) : (storeMove s a b n).klv = s.klv := rfl
@[simp] theorem storeMove_prt (s : State) (a b n : Nat) : (storeMove s a b n).prt = s.prt := rfl
@[simp] theorem storeMove_clus (s : State) (a b n : Nat) : (storeMove s a b n).clus = s.clus := rfl
@[simp] theorem storeMove_slots (s : State) (a b n : Nat) : (storeMove s a b n).slots = s.slots := rfl
@[simp] theorem storeMove_coh (s : State) (a b n : Nat) : (storeMove s a b n).coh = s.coh := rfl
@[simp] theorem storeMove_sch (s : State) (a b n : Nat) : (storeMove s a b n).sch = s.sch := rfl
@[simp] theorem storeMove_tie (s : State) (a b n : Nat) : (storeMove s a b n).tie = s.tie := rfl
@[simp] theorem storeMove_ing (s : State) (a b n : Nat) : (storeMove s a b n).ing = s.ing := rfl
@[simp] theorem storeMove_srch (s : State) (a b n : Nat) : (storeMove s a b n).srch = s.srch := rfl
@[simp] theorem storeMove_lnk (s : State) (a b n : Nat) : (storeMove s a b n).lnk = s.lnk := rfl
@[simp] theorem storeMove_ftl (s : State) (a b n : Nat) : (storeMove s a b n).ftl = s.ftl := rfl
@[simp] theorem storeMove_nvm (s : State) (a b n : Nat) : (storeMove s a b n).nvm = s.nvm := rfl
@[simp] theorem storeMove_rst (s : State) (a b n : Nat) : (storeMove s a b n).rst = s.rst := rfl
@[simp] theorem storeMove_clk (s : State) (a b n : Nat) : (storeMove s a b n).clk = s.clk := rfl
@[simp] theorem storeMove_pwr (s : State) (a b n : Nat) : (storeMove s a b n).pwr = s.pwr := rfl
@[simp] theorem storeMove_fw (s : State) (a b n : Nat) : (storeMove s a b n).fw = s.fw := rfl
@[simp] theorem storeMove_dbg (s : State) (a b n : Nat) : (storeMove s a b n).dbg = s.dbg := rfl
@[simp] theorem storeMove_mi (s : State) (a b n : Nat) : (storeMove s a b n).mi = s.mi := rfl
@[simp] theorem storeMove_hmem (s : State) (a b n : Nat) : (storeMove s a b n).hmem = s.hmem := rfl
@[simp] theorem storeMove_out (s : State) (a b n : Nat) : (storeMove s a b n).out = s.out := rfl
@[simp] theorem storeMove_rdata (s : State) (a b n : Nat) : (storeMove s a b n).rdata = s.rdata := rfl
@[simp] theorem storeMove_free (s : State) (a b n : Nat) : (storeMove s a b n).free = s.free := rfl
@[simp] theorem storeMove_hdead (s : State) (a b n : Nat) : (storeMove s a b n).hdead = s.hdead := rfl
@[simp] theorem storeMove_bus (s : State) (a b n : Nat) : (storeMove s a b n).bus = s.bus := rfl
@[simp] theorem storeMove_pending (s : State) (a b n : Nat) : (storeMove s a b n).pending = s.pending := rfl

@[simp] theorem clearRange_ident (s : State) (a n : Nat) : (clearRange s a n).ident = s.ident := rfl
@[simp] theorem clearRange_ts (s : State) (a n : Nat) : (clearRange s a n).ts = s.ts := rfl
@[simp] theorem clearRange_klv (s : State) (a n : Nat) : (clearRange s a n).klv = s.klv := rfl
@[simp] theorem clearRange_prt (s : State) (a n : Nat) : (clearRange s a n).prt = s.prt := rfl
@[simp] theorem clearRange_clus (s : State) (a n : Nat) : (clearRange s a n).clus = s.clus := rfl
@[simp] theorem clearRange_slots (s : State) (a n : Nat) : (clearRange s a n).slots = s.slots := rfl
@[simp] theorem clearRange_coh (s : State) (a n : Nat) : (clearRange s a n).coh = s.coh := rfl
@[simp] theorem clearRange_sch (s : State) (a n : Nat) : (clearRange s a n).sch = s.sch := rfl
@[simp] theorem clearRange_tie (s : State) (a n : Nat) : (clearRange s a n).tie = s.tie := rfl
@[simp] theorem clearRange_ing (s : State) (a n : Nat) : (clearRange s a n).ing = s.ing := rfl
@[simp] theorem clearRange_srch (s : State) (a n : Nat) : (clearRange s a n).srch = s.srch := rfl
@[simp] theorem clearRange_lnk (s : State) (a n : Nat) : (clearRange s a n).lnk = s.lnk := rfl
@[simp] theorem clearRange_ftl (s : State) (a n : Nat) : (clearRange s a n).ftl = s.ftl := rfl
@[simp] theorem clearRange_nvm (s : State) (a n : Nat) : (clearRange s a n).nvm = s.nvm := rfl
@[simp] theorem clearRange_rst (s : State) (a n : Nat) : (clearRange s a n).rst = s.rst := rfl
@[simp] theorem clearRange_clk (s : State) (a n : Nat) : (clearRange s a n).clk = s.clk := rfl
@[simp] theorem clearRange_pwr (s : State) (a n : Nat) : (clearRange s a n).pwr = s.pwr := rfl
@[simp] theorem clearRange_fw (s : State) (a n : Nat) : (clearRange s a n).fw = s.fw := rfl
@[simp] theorem clearRange_dbg (s : State) (a n : Nat) : (clearRange s a n).dbg = s.dbg := rfl
@[simp] theorem clearRange_mi (s : State) (a n : Nat) : (clearRange s a n).mi = s.mi := rfl
@[simp] theorem clearRange_hmem (s : State) (a n : Nat) : (clearRange s a n).hmem = s.hmem := rfl
@[simp] theorem clearRange_out (s : State) (a n : Nat) : (clearRange s a n).out = s.out := rfl
@[simp] theorem clearRange_rdata (s : State) (a n : Nat) : (clearRange s a n).rdata = s.rdata := rfl
@[simp] theorem clearRange_free (s : State) (a n : Nat) : (clearRange s a n).free = s.free := rfl
@[simp] theorem clearRange_hdead (s : State) (a n : Nat) : (clearRange s a n).hdead = s.hdead := rfl
@[simp] theorem clearRange_bus (s : State) (a n : Nat) : (clearRange s a n).bus = s.bus := rfl
@[simp] theorem clearRange_pending (s : State) (a n : Nat) : (clearRange s a n).pending = s.pending := rfl

@[simp] theorem updTiePart_ident (s : State) (p : Nat) (f : TiePart → TiePart) : (updTiePart s p f).ident = s.ident := rfl
@[simp] theorem updTiePart_ts (s : State) (p : Nat) (f : TiePart → TiePart) : (updTiePart s p f).ts = s.ts := rfl
@[simp] theorem updTiePart_klv (s : State) (p : Nat) (f : TiePart → TiePart) : (updTiePart s p f).klv = s.klv := rfl
@[simp] theorem updTiePart_prt (s : State) (p : Nat) (f : TiePart → TiePart) : (updTiePart s p f).prt = s.prt := rfl
@[simp] theorem updTiePart_clus (s : State) (p : Nat) (f : TiePart → TiePart) : (updTiePart s p f).clus = s.clus := rfl
@[simp] theorem updTiePart_slots (s : State) (p : Nat) (f : TiePart → TiePart) : (updTiePart s p f).slots = s.slots := rfl
@[simp] theorem updTiePart_arrs (s : State) (p : Nat) (f : TiePart → TiePart) : (updTiePart s p f).arrs = s.arrs := rfl
@[simp] theorem updTiePart_coh (s : State) (p : Nat) (f : TiePart → TiePart) : (updTiePart s p f).coh = s.coh := rfl
@[simp] theorem updTiePart_sch (s : State) (p : Nat) (f : TiePart → TiePart) : (updTiePart s p f).sch = s.sch := rfl
@[simp] theorem updTiePart_ing (s : State) (p : Nat) (f : TiePart → TiePart) : (updTiePart s p f).ing = s.ing := rfl
@[simp] theorem updTiePart_srch (s : State) (p : Nat) (f : TiePart → TiePart) : (updTiePart s p f).srch = s.srch := rfl
@[simp] theorem updTiePart_lnk (s : State) (p : Nat) (f : TiePart → TiePart) : (updTiePart s p f).lnk = s.lnk := rfl
@[simp] theorem updTiePart_ras (s : State) (p : Nat) (f : TiePart → TiePart) : (updTiePart s p f).ras = s.ras := rfl
@[simp] theorem updTiePart_ftl (s : State) (p : Nat) (f : TiePart → TiePart) : (updTiePart s p f).ftl = s.ftl := rfl
@[simp] theorem updTiePart_nvm (s : State) (p : Nat) (f : TiePart → TiePart) : (updTiePart s p f).nvm = s.nvm := rfl
@[simp] theorem updTiePart_rst (s : State) (p : Nat) (f : TiePart → TiePart) : (updTiePart s p f).rst = s.rst := rfl
@[simp] theorem updTiePart_clk (s : State) (p : Nat) (f : TiePart → TiePart) : (updTiePart s p f).clk = s.clk := rfl
@[simp] theorem updTiePart_pwr (s : State) (p : Nat) (f : TiePart → TiePart) : (updTiePart s p f).pwr = s.pwr := rfl
@[simp] theorem updTiePart_fw (s : State) (p : Nat) (f : TiePart → TiePart) : (updTiePart s p f).fw = s.fw := rfl
@[simp] theorem updTiePart_dbg (s : State) (p : Nat) (f : TiePart → TiePart) : (updTiePart s p f).dbg = s.dbg := rfl
@[simp] theorem updTiePart_mi (s : State) (p : Nat) (f : TiePart → TiePart) : (updTiePart s p f).mi = s.mi := rfl
@[simp] theorem updTiePart_mem (s : State) (p : Nat) (f : TiePart → TiePart) : (updTiePart s p f).mem = s.mem := rfl
@[simp] theorem updTiePart_hmem (s : State) (p : Nat) (f : TiePart → TiePart) : (updTiePart s p f).hmem = s.hmem := rfl
@[simp] theorem updTiePart_out (s : State) (p : Nat) (f : TiePart → TiePart) : (updTiePart s p f).out = s.out := rfl
@[simp] theorem updTiePart_rdata (s : State) (p : Nat) (f : TiePart → TiePart) : (updTiePart s p f).rdata = s.rdata := rfl
@[simp] theorem updTiePart_free (s : State) (p : Nat) (f : TiePart → TiePart) : (updTiePart s p f).free = s.free := rfl
@[simp] theorem updTiePart_hdead (s : State) (p : Nat) (f : TiePart → TiePart) : (updTiePart s p f).hdead = s.hdead := rfl
@[simp] theorem updTiePart_bus (s : State) (p : Nat) (f : TiePart → TiePart) : (updTiePart s p f).bus = s.bus := rfl
@[simp] theorem updTiePart_pending (s : State) (p : Nat) (f : TiePart → TiePart) : (updTiePart s p f).pending = s.pending := rfl

@[simp] theorem updJob_ident (s : State) (key : Nat) (f : Job → Job) : (updJob s key f).ident = s.ident := by unfold updJob; split <;> rfl
@[simp] theorem updJob_ts (s : State) (key : Nat) (f : Job → Job) : (updJob s key f).ts = s.ts := by unfold updJob; split <;> rfl
@[simp] theorem updJob_klv (s : State) (key : Nat) (f : Job → Job) : (updJob s key f).klv = s.klv := by unfold updJob; split <;> rfl
@[simp] theorem updJob_prt (s : State) (key : Nat) (f : Job → Job) : (updJob s key f).prt = s.prt := by unfold updJob; split <;> rfl
@[simp] theorem updJob_clus (s : State) (key : Nat) (f : Job → Job) : (updJob s key f).clus = s.clus := by unfold updJob; split <;> rfl
@[simp] theorem updJob_slots (s : State) (key : Nat) (f : Job → Job) : (updJob s key f).slots = s.slots := by unfold updJob; split <;> rfl
@[simp] theorem updJob_arrs (s : State) (key : Nat) (f : Job → Job) : (updJob s key f).arrs = s.arrs := by unfold updJob; split <;> rfl
@[simp] theorem updJob_coh (s : State) (key : Nat) (f : Job → Job) : (updJob s key f).coh = s.coh := by unfold updJob; split <;> rfl
@[simp] theorem updJob_tie (s : State) (key : Nat) (f : Job → Job) : (updJob s key f).tie = s.tie := by unfold updJob; split <;> rfl
@[simp] theorem updJob_ing (s : State) (key : Nat) (f : Job → Job) : (updJob s key f).ing = s.ing := by unfold updJob; split <;> rfl
@[simp] theorem updJob_srch (s : State) (key : Nat) (f : Job → Job) : (updJob s key f).srch = s.srch := by unfold updJob; split <;> rfl
@[simp] theorem updJob_lnk (s : State) (key : Nat) (f : Job → Job) : (updJob s key f).lnk = s.lnk := by unfold updJob; split <;> rfl
@[simp] theorem updJob_ras (s : State) (key : Nat) (f : Job → Job) : (updJob s key f).ras = s.ras := by unfold updJob; split <;> rfl
@[simp] theorem updJob_ftl (s : State) (key : Nat) (f : Job → Job) : (updJob s key f).ftl = s.ftl := by unfold updJob; split <;> rfl
@[simp] theorem updJob_nvm (s : State) (key : Nat) (f : Job → Job) : (updJob s key f).nvm = s.nvm := by unfold updJob; split <;> rfl
@[simp] theorem updJob_rst (s : State) (key : Nat) (f : Job → Job) : (updJob s key f).rst = s.rst := by unfold updJob; split <;> rfl
@[simp] theorem updJob_clk (s : State) (key : Nat) (f : Job → Job) : (updJob s key f).clk = s.clk := by unfold updJob; split <;> rfl
@[simp] theorem updJob_pwr (s : State) (key : Nat) (f : Job → Job) : (updJob s key f).pwr = s.pwr := by unfold updJob; split <;> rfl
@[simp] theorem updJob_fw (s : State) (key : Nat) (f : Job → Job) : (updJob s key f).fw = s.fw := by unfold updJob; split <;> rfl
@[simp] theorem updJob_dbg (s : State) (key : Nat) (f : Job → Job) : (updJob s key f).dbg = s.dbg := by unfold updJob; split <;> rfl
@[simp] theorem updJob_mi (s : State) (key : Nat) (f : Job → Job) : (updJob s key f).mi = s.mi := by unfold updJob; split <;> rfl
@[simp] theorem updJob_mem (s : State) (key : Nat) (f : Job → Job) : (updJob s key f).mem = s.mem := by unfold updJob; split <;> rfl
@[simp] theorem updJob_hmem (s : State) (key : Nat) (f : Job → Job) : (updJob s key f).hmem = s.hmem := by unfold updJob; split <;> rfl
@[simp] theorem updJob_out (s : State) (key : Nat) (f : Job → Job) : (updJob s key f).out = s.out := by unfold updJob; split <;> rfl
@[simp] theorem updJob_rdata (s : State) (key : Nat) (f : Job → Job) : (updJob s key f).rdata = s.rdata := by unfold updJob; split <;> rfl
@[simp] theorem updJob_free (s : State) (key : Nat) (f : Job → Job) : (updJob s key f).free = s.free := by unfold updJob; split <;> rfl
@[simp] theorem updJob_hdead (s : State) (key : Nat) (f : Job → Job) : (updJob s key f).hdead = s.hdead := by unfold updJob; split <;> rfl
@[simp] theorem updJob_bus (s : State) (key : Nat) (f : Job → Job) : (updJob s key f).bus = s.bus := by unfold updJob; split <;> rfl
@[simp] theorem updJob_pending (s : State) (key : Nat) (f : Job → Job) : (updJob s key f).pending = s.pending := by unfold updJob; split <;> rfl

@[simp] theorem updSchPart_ident (s : State) (p : Nat) (f : SchPart → SchPart) : (updSchPart s p f).ident = s.ident := rfl
@[simp] theorem updSchPart_ts (s : State) (p : Nat) (f : SchPart → SchPart) : (updSchPart s p f).ts = s.ts := rfl
@[simp] theorem updSchPart_klv (s : State) (p : Nat) (f : SchPart → SchPart) : (updSchPart s p f).klv = s.klv := rfl
@[simp] theorem updSchPart_prt (s : State) (p : Nat) (f : SchPart → SchPart) : (updSchPart s p f).prt = s.prt := rfl
@[simp] theorem updSchPart_clus (s : State) (p : Nat) (f : SchPart → SchPart) : (updSchPart s p f).clus = s.clus := rfl
@[simp] theorem updSchPart_slots (s : State) (p : Nat) (f : SchPart → SchPart) : (updSchPart s p f).slots = s.slots := rfl
@[simp] theorem updSchPart_arrs (s : State) (p : Nat) (f : SchPart → SchPart) : (updSchPart s p f).arrs = s.arrs := rfl
@[simp] theorem updSchPart_coh (s : State) (p : Nat) (f : SchPart → SchPart) : (updSchPart s p f).coh = s.coh := rfl
@[simp] theorem updSchPart_tie (s : State) (p : Nat) (f : SchPart → SchPart) : (updSchPart s p f).tie = s.tie := rfl
@[simp] theorem updSchPart_ing (s : State) (p : Nat) (f : SchPart → SchPart) : (updSchPart s p f).ing = s.ing := rfl
@[simp] theorem updSchPart_srch (s : State) (p : Nat) (f : SchPart → SchPart) : (updSchPart s p f).srch = s.srch := rfl
@[simp] theorem updSchPart_lnk (s : State) (p : Nat) (f : SchPart → SchPart) : (updSchPart s p f).lnk = s.lnk := rfl
@[simp] theorem updSchPart_ras (s : State) (p : Nat) (f : SchPart → SchPart) : (updSchPart s p f).ras = s.ras := rfl
@[simp] theorem updSchPart_ftl (s : State) (p : Nat) (f : SchPart → SchPart) : (updSchPart s p f).ftl = s.ftl := rfl
@[simp] theorem updSchPart_nvm (s : State) (p : Nat) (f : SchPart → SchPart) : (updSchPart s p f).nvm = s.nvm := rfl
@[simp] theorem updSchPart_rst (s : State) (p : Nat) (f : SchPart → SchPart) : (updSchPart s p f).rst = s.rst := rfl
@[simp] theorem updSchPart_clk (s : State) (p : Nat) (f : SchPart → SchPart) : (updSchPart s p f).clk = s.clk := rfl
@[simp] theorem updSchPart_pwr (s : State) (p : Nat) (f : SchPart → SchPart) : (updSchPart s p f).pwr = s.pwr := rfl
@[simp] theorem updSchPart_fw (s : State) (p : Nat) (f : SchPart → SchPart) : (updSchPart s p f).fw = s.fw := rfl
@[simp] theorem updSchPart_dbg (s : State) (p : Nat) (f : SchPart → SchPart) : (updSchPart s p f).dbg = s.dbg := rfl
@[simp] theorem updSchPart_mi (s : State) (p : Nat) (f : SchPart → SchPart) : (updSchPart s p f).mi = s.mi := rfl
@[simp] theorem updSchPart_mem (s : State) (p : Nat) (f : SchPart → SchPart) : (updSchPart s p f).mem = s.mem := rfl
@[simp] theorem updSchPart_hmem (s : State) (p : Nat) (f : SchPart → SchPart) : (updSchPart s p f).hmem = s.hmem := rfl
@[simp] theorem updSchPart_out (s : State) (p : Nat) (f : SchPart → SchPart) : (updSchPart s p f).out = s.out := rfl
@[simp] theorem updSchPart_rdata (s : State) (p : Nat) (f : SchPart → SchPart) : (updSchPart s p f).rdata = s.rdata := rfl
@[simp] theorem updSchPart_free (s : State) (p : Nat) (f : SchPart → SchPart) : (updSchPart s p f).free = s.free := rfl
@[simp] theorem updSchPart_hdead (s : State) (p : Nat) (f : SchPart → SchPart) : (updSchPart s p f).hdead = s.hdead := rfl
@[simp] theorem updSchPart_bus (s : State) (p : Nat) (f : SchPart → SchPart) : (updSchPart s p f).bus = s.bus := rfl
@[simp] theorem updSchPart_pending (s : State) (p : Nat) (f : SchPart → SchPart) : (updSchPart s p f).pending = s.pending := rfl

@[simp] theorem nextOrder_ident (s : State) : (nextOrder s).ident = s.ident := rfl
@[simp] theorem nextOrder_ts (s : State) : (nextOrder s).ts = s.ts := rfl
@[simp] theorem nextOrder_klv (s : State) : (nextOrder s).klv = s.klv := rfl
@[simp] theorem nextOrder_prt (s : State) : (nextOrder s).prt = s.prt := rfl
@[simp] theorem nextOrder_clus (s : State) : (nextOrder s).clus = s.clus := rfl
@[simp] theorem nextOrder_slots (s : State) : (nextOrder s).slots = s.slots := rfl
@[simp] theorem nextOrder_arrs (s : State) : (nextOrder s).arrs = s.arrs := rfl
@[simp] theorem nextOrder_coh (s : State) : (nextOrder s).coh = s.coh := rfl
@[simp] theorem nextOrder_tie (s : State) : (nextOrder s).tie = s.tie := rfl
@[simp] theorem nextOrder_ing (s : State) : (nextOrder s).ing = s.ing := rfl
@[simp] theorem nextOrder_srch (s : State) : (nextOrder s).srch = s.srch := rfl
@[simp] theorem nextOrder_lnk (s : State) : (nextOrder s).lnk = s.lnk := rfl
@[simp] theorem nextOrder_ras (s : State) : (nextOrder s).ras = s.ras := rfl
@[simp] theorem nextOrder_ftl (s : State) : (nextOrder s).ftl = s.ftl := rfl
@[simp] theorem nextOrder_nvm (s : State) : (nextOrder s).nvm = s.nvm := rfl
@[simp] theorem nextOrder_rst (s : State) : (nextOrder s).rst = s.rst := rfl
@[simp] theorem nextOrder_clk (s : State) : (nextOrder s).clk = s.clk := rfl
@[simp] theorem nextOrder_pwr (s : State) : (nextOrder s).pwr = s.pwr := rfl
@[simp] theorem nextOrder_fw (s : State) : (nextOrder s).fw = s.fw := rfl
@[simp] theorem nextOrder_dbg (s : State) : (nextOrder s).dbg = s.dbg := rfl
@[simp] theorem nextOrder_mi (s : State) : (nextOrder s).mi = s.mi := rfl
@[simp] theorem nextOrder_mem (s : State) : (nextOrder s).mem = s.mem := rfl
@[simp] theorem nextOrder_hmem (s : State) : (nextOrder s).hmem = s.hmem := rfl
@[simp] theorem nextOrder_out (s : State) : (nextOrder s).out = s.out := rfl
@[simp] theorem nextOrder_rdata (s : State) : (nextOrder s).rdata = s.rdata := rfl
@[simp] theorem nextOrder_free (s : State) : (nextOrder s).free = s.free := rfl
@[simp] theorem nextOrder_hdead (s : State) : (nextOrder s).hdead = s.hdead := rfl
@[simp] theorem nextOrder_bus (s : State) : (nextOrder s).bus = s.bus := rfl
@[simp] theorem nextOrder_pending (s : State) : (nextOrder s).pending = s.pending := rfl

@[simp] theorem updRst_ident (s : State) (f : Rst → Rst) : (updRst s f).ident = s.ident := rfl
@[simp] theorem updRst_ts (s : State) (f : Rst → Rst) : (updRst s f).ts = s.ts := rfl
@[simp] theorem updRst_klv (s : State) (f : Rst → Rst) : (updRst s f).klv = s.klv := rfl
@[simp] theorem updRst_prt (s : State) (f : Rst → Rst) : (updRst s f).prt = s.prt := rfl
@[simp] theorem updRst_clus (s : State) (f : Rst → Rst) : (updRst s f).clus = s.clus := rfl
@[simp] theorem updRst_slots (s : State) (f : Rst → Rst) : (updRst s f).slots = s.slots := rfl
@[simp] theorem updRst_arrs (s : State) (f : Rst → Rst) : (updRst s f).arrs = s.arrs := rfl
@[simp] theorem updRst_coh (s : State) (f : Rst → Rst) : (updRst s f).coh = s.coh := rfl
@[simp] theorem updRst_sch (s : State) (f : Rst → Rst) : (updRst s f).sch = s.sch := rfl
@[simp] theorem updRst_tie (s : State) (f : Rst → Rst) : (updRst s f).tie = s.tie := rfl
@[simp] theorem updRst_ing (s : State) (f : Rst → Rst) : (updRst s f).ing = s.ing := rfl
@[simp] theorem updRst_srch (s : State) (f : Rst → Rst) : (updRst s f).srch = s.srch := rfl
@[simp] theorem updRst_lnk (s : State) (f : Rst → Rst) : (updRst s f).lnk = s.lnk := rfl
@[simp] theorem updRst_ras (s : State) (f : Rst → Rst) : (updRst s f).ras = s.ras := rfl
@[simp] theorem updRst_ftl (s : State) (f : Rst → Rst) : (updRst s f).ftl = s.ftl := rfl
@[simp] theorem updRst_nvm (s : State) (f : Rst → Rst) : (updRst s f).nvm = s.nvm := rfl
@[simp] theorem updRst_clk (s : State) (f : Rst → Rst) : (updRst s f).clk = s.clk := rfl
@[simp] theorem updRst_pwr (s : State) (f : Rst → Rst) : (updRst s f).pwr = s.pwr := rfl
@[simp] theorem updRst_fw (s : State) (f : Rst → Rst) : (updRst s f).fw = s.fw := rfl
@[simp] theorem updRst_dbg (s : State) (f : Rst → Rst) : (updRst s f).dbg = s.dbg := rfl
@[simp] theorem updRst_mi (s : State) (f : Rst → Rst) : (updRst s f).mi = s.mi := rfl
@[simp] theorem updRst_mem (s : State) (f : Rst → Rst) : (updRst s f).mem = s.mem := rfl
@[simp] theorem updRst_hmem (s : State) (f : Rst → Rst) : (updRst s f).hmem = s.hmem := rfl
@[simp] theorem updRst_out (s : State) (f : Rst → Rst) : (updRst s f).out = s.out := rfl
@[simp] theorem updRst_rdata (s : State) (f : Rst → Rst) : (updRst s f).rdata = s.rdata := rfl
@[simp] theorem updRst_free (s : State) (f : Rst → Rst) : (updRst s f).free = s.free := rfl
@[simp] theorem updRst_hdead (s : State) (f : Rst → Rst) : (updRst s f).hdead = s.hdead := rfl
@[simp] theorem updRst_bus (s : State) (f : Rst → Rst) : (updRst s f).bus = s.bus := rfl
@[simp] theorem updRst_pending (s : State) (f : Rst → Rst) : (updRst s f).pending = s.pending := rfl

@[simp] theorem updDbg_ident (s : State) (f : Dbg → Dbg) : (updDbg s f).ident = s.ident := rfl
@[simp] theorem updDbg_ts (s : State) (f : Dbg → Dbg) : (updDbg s f).ts = s.ts := rfl
@[simp] theorem updDbg_klv (s : State) (f : Dbg → Dbg) : (updDbg s f).klv = s.klv := rfl
@[simp] theorem updDbg_prt (s : State) (f : Dbg → Dbg) : (updDbg s f).prt = s.prt := rfl
@[simp] theorem updDbg_clus (s : State) (f : Dbg → Dbg) : (updDbg s f).clus = s.clus := rfl
@[simp] theorem updDbg_slots (s : State) (f : Dbg → Dbg) : (updDbg s f).slots = s.slots := rfl
@[simp] theorem updDbg_arrs (s : State) (f : Dbg → Dbg) : (updDbg s f).arrs = s.arrs := rfl
@[simp] theorem updDbg_coh (s : State) (f : Dbg → Dbg) : (updDbg s f).coh = s.coh := rfl
@[simp] theorem updDbg_sch (s : State) (f : Dbg → Dbg) : (updDbg s f).sch = s.sch := rfl
@[simp] theorem updDbg_tie (s : State) (f : Dbg → Dbg) : (updDbg s f).tie = s.tie := rfl
@[simp] theorem updDbg_ing (s : State) (f : Dbg → Dbg) : (updDbg s f).ing = s.ing := rfl
@[simp] theorem updDbg_srch (s : State) (f : Dbg → Dbg) : (updDbg s f).srch = s.srch := rfl
@[simp] theorem updDbg_lnk (s : State) (f : Dbg → Dbg) : (updDbg s f).lnk = s.lnk := rfl
@[simp] theorem updDbg_ras (s : State) (f : Dbg → Dbg) : (updDbg s f).ras = s.ras := rfl
@[simp] theorem updDbg_ftl (s : State) (f : Dbg → Dbg) : (updDbg s f).ftl = s.ftl := rfl
@[simp] theorem updDbg_nvm (s : State) (f : Dbg → Dbg) : (updDbg s f).nvm = s.nvm := rfl
@[simp] theorem updDbg_rst (s : State) (f : Dbg → Dbg) : (updDbg s f).rst = s.rst := rfl
@[simp] theorem updDbg_clk (s : State) (f : Dbg → Dbg) : (updDbg s f).clk = s.clk := rfl
@[simp] theorem updDbg_pwr (s : State) (f : Dbg → Dbg) : (updDbg s f).pwr = s.pwr := rfl
@[simp] theorem updDbg_fw (s : State) (f : Dbg → Dbg) : (updDbg s f).fw = s.fw := rfl
@[simp] theorem updDbg_mi (s : State) (f : Dbg → Dbg) : (updDbg s f).mi = s.mi := rfl
@[simp] theorem updDbg_mem (s : State) (f : Dbg → Dbg) : (updDbg s f).mem = s.mem := rfl
@[simp] theorem updDbg_hmem (s : State) (f : Dbg → Dbg) : (updDbg s f).hmem = s.hmem := rfl
@[simp] theorem updDbg_out (s : State) (f : Dbg → Dbg) : (updDbg s f).out = s.out := rfl
@[simp] theorem updDbg_rdata (s : State) (f : Dbg → Dbg) : (updDbg s f).rdata = s.rdata := rfl
@[simp] theorem updDbg_free (s : State) (f : Dbg → Dbg) : (updDbg s f).free = s.free := rfl
@[simp] theorem updDbg_hdead (s : State) (f : Dbg → Dbg) : (updDbg s f).hdead = s.hdead := rfl
@[simp] theorem updDbg_bus (s : State) (f : Dbg → Dbg) : (updDbg s f).bus = s.bus := rfl
@[simp] theorem updDbg_pending (s : State) (f : Dbg → Dbg) : (updDbg s f).pending = s.pending := rfl

@[simp] theorem updIndex_ident (s : State) (key : Nat) (f : Index → Index) : (updIndex s key f).ident = s.ident := by unfold updIndex; split <;> rfl
@[simp] theorem updIndex_ts (s : State) (key : Nat) (f : Index → Index) : (updIndex s key f).ts = s.ts := by unfold updIndex; split <;> rfl
@[simp] theorem updIndex_klv (s : State) (key : Nat) (f : Index → Index) : (updIndex s key f).klv = s.klv := by unfold updIndex; split <;> rfl
@[simp] theorem updIndex_prt (s : State) (key : Nat) (f : Index → Index) : (updIndex s key f).prt = s.prt := by unfold updIndex; split <;> rfl
@[simp] theorem updIndex_clus (s : State) (key : Nat) (f : Index → Index) : (updIndex s key f).clus = s.clus := by unfold updIndex; split <;> rfl
@[simp] theorem updIndex_slots (s : State) (key : Nat) (f : Index → Index) : (updIndex s key f).slots = s.slots := by unfold updIndex; split <;> rfl
@[simp] theorem updIndex_arrs (s : State) (key : Nat) (f : Index → Index) : (updIndex s key f).arrs = s.arrs := by unfold updIndex; split <;> rfl
@[simp] theorem updIndex_coh (s : State) (key : Nat) (f : Index → Index) : (updIndex s key f).coh = s.coh := by unfold updIndex; split <;> rfl
@[simp] theorem updIndex_sch (s : State) (key : Nat) (f : Index → Index) : (updIndex s key f).sch = s.sch := by unfold updIndex; split <;> rfl
@[simp] theorem updIndex_tie (s : State) (key : Nat) (f : Index → Index) : (updIndex s key f).tie = s.tie := by unfold updIndex; split <;> rfl
@[simp] theorem updIndex_ing (s : State) (key : Nat) (f : Index → Index) : (updIndex s key f).ing = s.ing := by unfold updIndex; split <;> rfl
@[simp] theorem updIndex_lnk (s : State) (key : Nat) (f : Index → Index) : (updIndex s key f).lnk = s.lnk := by unfold updIndex; split <;> rfl
@[simp] theorem updIndex_ras (s : State) (key : Nat) (f : Index → Index) : (updIndex s key f).ras = s.ras := by unfold updIndex; split <;> rfl
@[simp] theorem updIndex_ftl (s : State) (key : Nat) (f : Index → Index) : (updIndex s key f).ftl = s.ftl := by unfold updIndex; split <;> rfl
@[simp] theorem updIndex_nvm (s : State) (key : Nat) (f : Index → Index) : (updIndex s key f).nvm = s.nvm := by unfold updIndex; split <;> rfl
@[simp] theorem updIndex_rst (s : State) (key : Nat) (f : Index → Index) : (updIndex s key f).rst = s.rst := by unfold updIndex; split <;> rfl
@[simp] theorem updIndex_clk (s : State) (key : Nat) (f : Index → Index) : (updIndex s key f).clk = s.clk := by unfold updIndex; split <;> rfl
@[simp] theorem updIndex_pwr (s : State) (key : Nat) (f : Index → Index) : (updIndex s key f).pwr = s.pwr := by unfold updIndex; split <;> rfl
@[simp] theorem updIndex_fw (s : State) (key : Nat) (f : Index → Index) : (updIndex s key f).fw = s.fw := by unfold updIndex; split <;> rfl
@[simp] theorem updIndex_dbg (s : State) (key : Nat) (f : Index → Index) : (updIndex s key f).dbg = s.dbg := by unfold updIndex; split <;> rfl
@[simp] theorem updIndex_mi (s : State) (key : Nat) (f : Index → Index) : (updIndex s key f).mi = s.mi := by unfold updIndex; split <;> rfl
@[simp] theorem updIndex_mem (s : State) (key : Nat) (f : Index → Index) : (updIndex s key f).mem = s.mem := by unfold updIndex; split <;> rfl
@[simp] theorem updIndex_hmem (s : State) (key : Nat) (f : Index → Index) : (updIndex s key f).hmem = s.hmem := by unfold updIndex; split <;> rfl
@[simp] theorem updIndex_out (s : State) (key : Nat) (f : Index → Index) : (updIndex s key f).out = s.out := by unfold updIndex; split <;> rfl
@[simp] theorem updIndex_rdata (s : State) (key : Nat) (f : Index → Index) : (updIndex s key f).rdata = s.rdata := by unfold updIndex; split <;> rfl
@[simp] theorem updIndex_free (s : State) (key : Nat) (f : Index → Index) : (updIndex s key f).free = s.free := by unfold updIndex; split <;> rfl
@[simp] theorem updIndex_hdead (s : State) (key : Nat) (f : Index → Index) : (updIndex s key f).hdead = s.hdead := by unfold updIndex; split <;> rfl
@[simp] theorem updIndex_bus (s : State) (key : Nat) (f : Index → Index) : (updIndex s key f).bus = s.bus := by unfold updIndex; split <;> rfl
@[simp] theorem updIndex_pending (s : State) (key : Nat) (f : Index → Index) : (updIndex s key f).pending = s.pending := by unfold updIndex; split <;> rfl

@[simp] theorem updAst_ident (s : State) (p : Nat) (f : AstPart → AstPart) : (updAst s p f).ident = s.ident := rfl
@[simp] theorem updAst_ts (s : State) (p : Nat) (f : AstPart → AstPart) : (updAst s p f).ts = s.ts := rfl
@[simp] theorem updAst_klv (s : State) (p : Nat) (f : AstPart → AstPart) : (updAst s p f).klv = s.klv := rfl
@[simp] theorem updAst_prt (s : State) (p : Nat) (f : AstPart → AstPart) : (updAst s p f).prt = s.prt := rfl
@[simp] theorem updAst_clus (s : State) (p : Nat) (f : AstPart → AstPart) : (updAst s p f).clus = s.clus := rfl
@[simp] theorem updAst_slots (s : State) (p : Nat) (f : AstPart → AstPart) : (updAst s p f).slots = s.slots := rfl
@[simp] theorem updAst_arrs (s : State) (p : Nat) (f : AstPart → AstPart) : (updAst s p f).arrs = s.arrs := rfl
@[simp] theorem updAst_coh (s : State) (p : Nat) (f : AstPart → AstPart) : (updAst s p f).coh = s.coh := rfl
@[simp] theorem updAst_sch (s : State) (p : Nat) (f : AstPart → AstPart) : (updAst s p f).sch = s.sch := rfl
@[simp] theorem updAst_tie (s : State) (p : Nat) (f : AstPart → AstPart) : (updAst s p f).tie = s.tie := rfl
@[simp] theorem updAst_ing (s : State) (p : Nat) (f : AstPart → AstPart) : (updAst s p f).ing = s.ing := rfl
@[simp] theorem updAst_lnk (s : State) (p : Nat) (f : AstPart → AstPart) : (updAst s p f).lnk = s.lnk := rfl
@[simp] theorem updAst_ras (s : State) (p : Nat) (f : AstPart → AstPart) : (updAst s p f).ras = s.ras := rfl
@[simp] theorem updAst_ftl (s : State) (p : Nat) (f : AstPart → AstPart) : (updAst s p f).ftl = s.ftl := rfl
@[simp] theorem updAst_nvm (s : State) (p : Nat) (f : AstPart → AstPart) : (updAst s p f).nvm = s.nvm := rfl
@[simp] theorem updAst_rst (s : State) (p : Nat) (f : AstPart → AstPart) : (updAst s p f).rst = s.rst := rfl
@[simp] theorem updAst_clk (s : State) (p : Nat) (f : AstPart → AstPart) : (updAst s p f).clk = s.clk := rfl
@[simp] theorem updAst_pwr (s : State) (p : Nat) (f : AstPart → AstPart) : (updAst s p f).pwr = s.pwr := rfl
@[simp] theorem updAst_fw (s : State) (p : Nat) (f : AstPart → AstPart) : (updAst s p f).fw = s.fw := rfl
@[simp] theorem updAst_dbg (s : State) (p : Nat) (f : AstPart → AstPart) : (updAst s p f).dbg = s.dbg := rfl
@[simp] theorem updAst_mi (s : State) (p : Nat) (f : AstPart → AstPart) : (updAst s p f).mi = s.mi := rfl
@[simp] theorem updAst_mem (s : State) (p : Nat) (f : AstPart → AstPart) : (updAst s p f).mem = s.mem := rfl
@[simp] theorem updAst_hmem (s : State) (p : Nat) (f : AstPart → AstPart) : (updAst s p f).hmem = s.hmem := rfl
@[simp] theorem updAst_out (s : State) (p : Nat) (f : AstPart → AstPart) : (updAst s p f).out = s.out := rfl
@[simp] theorem updAst_rdata (s : State) (p : Nat) (f : AstPart → AstPart) : (updAst s p f).rdata = s.rdata := rfl
@[simp] theorem updAst_free (s : State) (p : Nat) (f : AstPart → AstPart) : (updAst s p f).free = s.free := rfl
@[simp] theorem updAst_hdead (s : State) (p : Nat) (f : AstPart → AstPart) : (updAst s p f).hdead = s.hdead := rfl
@[simp] theorem updAst_bus (s : State) (p : Nat) (f : AstPart → AstPart) : (updAst s p f).bus = s.bus := rfl
@[simp] theorem updAst_pending (s : State) (p : Nat) (f : AstPart → AstPart) : (updAst s p f).pending = s.pending := rfl

@[simp] theorem updLink_ident (s : State) (l : Nat) (f : Link → Link) : (updLink s l f).ident = s.ident := rfl
@[simp] theorem updLink_ts (s : State) (l : Nat) (f : Link → Link) : (updLink s l f).ts = s.ts := rfl
@[simp] theorem updLink_klv (s : State) (l : Nat) (f : Link → Link) : (updLink s l f).klv = s.klv := rfl
@[simp] theorem updLink_prt (s : State) (l : Nat) (f : Link → Link) : (updLink s l f).prt = s.prt := rfl
@[simp] theorem updLink_clus (s : State) (l : Nat) (f : Link → Link) : (updLink s l f).clus = s.clus := rfl
@[simp] theorem updLink_slots (s : State) (l : Nat) (f : Link → Link) : (updLink s l f).slots = s.slots := rfl
@[simp] theorem updLink_arrs (s : State) (l : Nat) (f : Link → Link) : (updLink s l f).arrs = s.arrs := rfl
@[simp] theorem updLink_coh (s : State) (l : Nat) (f : Link → Link) : (updLink s l f).coh = s.coh := rfl
@[simp] theorem updLink_sch (s : State) (l : Nat) (f : Link → Link) : (updLink s l f).sch = s.sch := rfl
@[simp] theorem updLink_tie (s : State) (l : Nat) (f : Link → Link) : (updLink s l f).tie = s.tie := rfl
@[simp] theorem updLink_ing (s : State) (l : Nat) (f : Link → Link) : (updLink s l f).ing = s.ing := rfl
@[simp] theorem updLink_srch (s : State) (l : Nat) (f : Link → Link) : (updLink s l f).srch = s.srch := rfl
@[simp] theorem updLink_ras (s : State) (l : Nat) (f : Link → Link) : (updLink s l f).ras = s.ras := rfl
@[simp] theorem updLink_ftl (s : State) (l : Nat) (f : Link → Link) : (updLink s l f).ftl = s.ftl := rfl
@[simp] theorem updLink_nvm (s : State) (l : Nat) (f : Link → Link) : (updLink s l f).nvm = s.nvm := rfl
@[simp] theorem updLink_rst (s : State) (l : Nat) (f : Link → Link) : (updLink s l f).rst = s.rst := rfl
@[simp] theorem updLink_clk (s : State) (l : Nat) (f : Link → Link) : (updLink s l f).clk = s.clk := rfl
@[simp] theorem updLink_pwr (s : State) (l : Nat) (f : Link → Link) : (updLink s l f).pwr = s.pwr := rfl
@[simp] theorem updLink_fw (s : State) (l : Nat) (f : Link → Link) : (updLink s l f).fw = s.fw := rfl
@[simp] theorem updLink_dbg (s : State) (l : Nat) (f : Link → Link) : (updLink s l f).dbg = s.dbg := rfl
@[simp] theorem updLink_mi (s : State) (l : Nat) (f : Link → Link) : (updLink s l f).mi = s.mi := rfl
@[simp] theorem updLink_mem (s : State) (l : Nat) (f : Link → Link) : (updLink s l f).mem = s.mem := rfl
@[simp] theorem updLink_hmem (s : State) (l : Nat) (f : Link → Link) : (updLink s l f).hmem = s.hmem := rfl
@[simp] theorem updLink_out (s : State) (l : Nat) (f : Link → Link) : (updLink s l f).out = s.out := rfl
@[simp] theorem updLink_rdata (s : State) (l : Nat) (f : Link → Link) : (updLink s l f).rdata = s.rdata := rfl
@[simp] theorem updLink_free (s : State) (l : Nat) (f : Link → Link) : (updLink s l f).free = s.free := rfl
@[simp] theorem updLink_hdead (s : State) (l : Nat) (f : Link → Link) : (updLink s l f).hdead = s.hdead := rfl
@[simp] theorem updLink_bus (s : State) (l : Nat) (f : Link → Link) : (updLink s l f).bus = s.bus := rfl
@[simp] theorem updLink_pending (s : State) (l : Nat) (f : Link → Link) : (updLink s l f).pending = s.pending := rfl

@[simp] theorem updTrunk_ident (s : State) (q : Nat) (f : Trunk → Trunk) : (updTrunk s q f).ident = s.ident := rfl
@[simp] theorem updTrunk_ts (s : State) (q : Nat) (f : Trunk → Trunk) : (updTrunk s q f).ts = s.ts := rfl
@[simp] theorem updTrunk_klv (s : State) (q : Nat) (f : Trunk → Trunk) : (updTrunk s q f).klv = s.klv := rfl
@[simp] theorem updTrunk_prt (s : State) (q : Nat) (f : Trunk → Trunk) : (updTrunk s q f).prt = s.prt := rfl
@[simp] theorem updTrunk_clus (s : State) (q : Nat) (f : Trunk → Trunk) : (updTrunk s q f).clus = s.clus := rfl
@[simp] theorem updTrunk_slots (s : State) (q : Nat) (f : Trunk → Trunk) : (updTrunk s q f).slots = s.slots := rfl
@[simp] theorem updTrunk_arrs (s : State) (q : Nat) (f : Trunk → Trunk) : (updTrunk s q f).arrs = s.arrs := rfl
@[simp] theorem updTrunk_coh (s : State) (q : Nat) (f : Trunk → Trunk) : (updTrunk s q f).coh = s.coh := rfl
@[simp] theorem updTrunk_sch (s : State) (q : Nat) (f : Trunk → Trunk) : (updTrunk s q f).sch = s.sch := rfl
@[simp] theorem updTrunk_tie (s : State) (q : Nat) (f : Trunk → Trunk) : (updTrunk s q f).tie = s.tie := rfl
@[simp] theorem updTrunk_ing (s : State) (q : Nat) (f : Trunk → Trunk) : (updTrunk s q f).ing = s.ing := rfl
@[simp] theorem updTrunk_srch (s : State) (q : Nat) (f : Trunk → Trunk) : (updTrunk s q f).srch = s.srch := rfl
@[simp] theorem updTrunk_ras (s : State) (q : Nat) (f : Trunk → Trunk) : (updTrunk s q f).ras = s.ras := rfl
@[simp] theorem updTrunk_ftl (s : State) (q : Nat) (f : Trunk → Trunk) : (updTrunk s q f).ftl = s.ftl := rfl
@[simp] theorem updTrunk_nvm (s : State) (q : Nat) (f : Trunk → Trunk) : (updTrunk s q f).nvm = s.nvm := rfl
@[simp] theorem updTrunk_rst (s : State) (q : Nat) (f : Trunk → Trunk) : (updTrunk s q f).rst = s.rst := rfl
@[simp] theorem updTrunk_clk (s : State) (q : Nat) (f : Trunk → Trunk) : (updTrunk s q f).clk = s.clk := rfl
@[simp] theorem updTrunk_pwr (s : State) (q : Nat) (f : Trunk → Trunk) : (updTrunk s q f).pwr = s.pwr := rfl
@[simp] theorem updTrunk_fw (s : State) (q : Nat) (f : Trunk → Trunk) : (updTrunk s q f).fw = s.fw := rfl
@[simp] theorem updTrunk_dbg (s : State) (q : Nat) (f : Trunk → Trunk) : (updTrunk s q f).dbg = s.dbg := rfl
@[simp] theorem updTrunk_mi (s : State) (q : Nat) (f : Trunk → Trunk) : (updTrunk s q f).mi = s.mi := rfl
@[simp] theorem updTrunk_mem (s : State) (q : Nat) (f : Trunk → Trunk) : (updTrunk s q f).mem = s.mem := rfl
@[simp] theorem updTrunk_hmem (s : State) (q : Nat) (f : Trunk → Trunk) : (updTrunk s q f).hmem = s.hmem := rfl
@[simp] theorem updTrunk_out (s : State) (q : Nat) (f : Trunk → Trunk) : (updTrunk s q f).out = s.out := rfl
@[simp] theorem updTrunk_rdata (s : State) (q : Nat) (f : Trunk → Trunk) : (updTrunk s q f).rdata = s.rdata := rfl
@[simp] theorem updTrunk_free (s : State) (q : Nat) (f : Trunk → Trunk) : (updTrunk s q f).free = s.free := rfl
@[simp] theorem updTrunk_hdead (s : State) (q : Nat) (f : Trunk → Trunk) : (updTrunk s q f).hdead = s.hdead := rfl
@[simp] theorem updTrunk_bus (s : State) (q : Nat) (f : Trunk → Trunk) : (updTrunk s q f).bus = s.bus := rfl
@[simp] theorem updTrunk_pending (s : State) (q : Nat) (f : Trunk → Trunk) : (updTrunk s q f).pending = s.pending := rfl

@[simp] theorem updConn_ident (s : State) (q p : Nat) (f : Conn → Conn) : (updConn s q p f).ident = s.ident := rfl
@[simp] theorem updConn_ts (s : State) (q p : Nat) (f : Conn → Conn) : (updConn s q p f).ts = s.ts := rfl
@[simp] theorem updConn_klv (s : State) (q p : Nat) (f : Conn → Conn) : (updConn s q p f).klv = s.klv := rfl
@[simp] theorem updConn_prt (s : State) (q p : Nat) (f : Conn → Conn) : (updConn s q p f).prt = s.prt := rfl
@[simp] theorem updConn_clus (s : State) (q p : Nat) (f : Conn → Conn) : (updConn s q p f).clus = s.clus := rfl
@[simp] theorem updConn_slots (s : State) (q p : Nat) (f : Conn → Conn) : (updConn s q p f).slots = s.slots := rfl
@[simp] theorem updConn_arrs (s : State) (q p : Nat) (f : Conn → Conn) : (updConn s q p f).arrs = s.arrs := rfl
@[simp] theorem updConn_coh (s : State) (q p : Nat) (f : Conn → Conn) : (updConn s q p f).coh = s.coh := rfl
@[simp] theorem updConn_sch (s : State) (q p : Nat) (f : Conn → Conn) : (updConn s q p f).sch = s.sch := rfl
@[simp] theorem updConn_tie (s : State) (q p : Nat) (f : Conn → Conn) : (updConn s q p f).tie = s.tie := rfl
@[simp] theorem updConn_ing (s : State) (q p : Nat) (f : Conn → Conn) : (updConn s q p f).ing = s.ing := rfl
@[simp] theorem updConn_srch (s : State) (q p : Nat) (f : Conn → Conn) : (updConn s q p f).srch = s.srch := rfl
@[simp] theorem updConn_ras (s : State) (q p : Nat) (f : Conn → Conn) : (updConn s q p f).ras = s.ras := rfl
@[simp] theorem updConn_ftl (s : State) (q p : Nat) (f : Conn → Conn) : (updConn s q p f).ftl = s.ftl := rfl
@[simp] theorem updConn_nvm (s : State) (q p : Nat) (f : Conn → Conn) : (updConn s q p f).nvm = s.nvm := rfl
@[simp] theorem updConn_rst (s : State) (q p : Nat) (f : Conn → Conn) : (updConn s q p f).rst = s.rst := rfl
@[simp] theorem updConn_clk (s : State) (q p : Nat) (f : Conn → Conn) : (updConn s q p f).clk = s.clk := rfl
@[simp] theorem updConn_pwr (s : State) (q p : Nat) (f : Conn → Conn) : (updConn s q p f).pwr = s.pwr := rfl
@[simp] theorem updConn_fw (s : State) (q p : Nat) (f : Conn → Conn) : (updConn s q p f).fw = s.fw := rfl
@[simp] theorem updConn_dbg (s : State) (q p : Nat) (f : Conn → Conn) : (updConn s q p f).dbg = s.dbg := rfl
@[simp] theorem updConn_mi (s : State) (q p : Nat) (f : Conn → Conn) : (updConn s q p f).mi = s.mi := rfl
@[simp] theorem updConn_mem (s : State) (q p : Nat) (f : Conn → Conn) : (updConn s q p f).mem = s.mem := rfl
@[simp] theorem updConn_hmem (s : State) (q p : Nat) (f : Conn → Conn) : (updConn s q p f).hmem = s.hmem := rfl
@[simp] theorem updConn_out (s : State) (q p : Nat) (f : Conn → Conn) : (updConn s q p f).out = s.out := rfl
@[simp] theorem updConn_rdata (s : State) (q p : Nat) (f : Conn → Conn) : (updConn s q p f).rdata = s.rdata := rfl
@[simp] theorem updConn_free (s : State) (q p : Nat) (f : Conn → Conn) : (updConn s q p f).free = s.free := rfl
@[simp] theorem updConn_hdead (s : State) (q p : Nat) (f : Conn → Conn) : (updConn s q p f).hdead = s.hdead := rfl
@[simp] theorem updConn_bus (s : State) (q p : Nat) (f : Conn → Conn) : (updConn s q p f).bus = s.bus := rfl
@[simp] theorem updConn_pending (s : State) (q p : Nat) (f : Conn → Conn) : (updConn s q p f).pending = s.pending := rfl

@[simp] theorem updCtrl_ident (s : State) (c : Nat) (g : Ctrl → Ctrl) : (updCtrl s c g).ident = s.ident := rfl
@[simp] theorem updCtrl_ts (s : State) (c : Nat) (g : Ctrl → Ctrl) : (updCtrl s c g).ts = s.ts := rfl
@[simp] theorem updCtrl_klv (s : State) (c : Nat) (g : Ctrl → Ctrl) : (updCtrl s c g).klv = s.klv := rfl
@[simp] theorem updCtrl_prt (s : State) (c : Nat) (g : Ctrl → Ctrl) : (updCtrl s c g).prt = s.prt := rfl
@[simp] theorem updCtrl_clus (s : State) (c : Nat) (g : Ctrl → Ctrl) : (updCtrl s c g).clus = s.clus := rfl
@[simp] theorem updCtrl_slots (s : State) (c : Nat) (g : Ctrl → Ctrl) : (updCtrl s c g).slots = s.slots := rfl
@[simp] theorem updCtrl_arrs (s : State) (c : Nat) (g : Ctrl → Ctrl) : (updCtrl s c g).arrs = s.arrs := rfl
@[simp] theorem updCtrl_coh (s : State) (c : Nat) (g : Ctrl → Ctrl) : (updCtrl s c g).coh = s.coh := rfl
@[simp] theorem updCtrl_sch (s : State) (c : Nat) (g : Ctrl → Ctrl) : (updCtrl s c g).sch = s.sch := rfl
@[simp] theorem updCtrl_tie (s : State) (c : Nat) (g : Ctrl → Ctrl) : (updCtrl s c g).tie = s.tie := rfl
@[simp] theorem updCtrl_ing (s : State) (c : Nat) (g : Ctrl → Ctrl) : (updCtrl s c g).ing = s.ing := rfl
@[simp] theorem updCtrl_srch (s : State) (c : Nat) (g : Ctrl → Ctrl) : (updCtrl s c g).srch = s.srch := rfl
@[simp] theorem updCtrl_lnk (s : State) (c : Nat) (g : Ctrl → Ctrl) : (updCtrl s c g).lnk = s.lnk := rfl
@[simp] theorem updCtrl_ras (s : State) (c : Nat) (g : Ctrl → Ctrl) : (updCtrl s c g).ras = s.ras := rfl
@[simp] theorem updCtrl_ftl (s : State) (c : Nat) (g : Ctrl → Ctrl) : (updCtrl s c g).ftl = s.ftl := rfl
@[simp] theorem updCtrl_rst (s : State) (c : Nat) (g : Ctrl → Ctrl) : (updCtrl s c g).rst = s.rst := rfl
@[simp] theorem updCtrl_clk (s : State) (c : Nat) (g : Ctrl → Ctrl) : (updCtrl s c g).clk = s.clk := rfl
@[simp] theorem updCtrl_pwr (s : State) (c : Nat) (g : Ctrl → Ctrl) : (updCtrl s c g).pwr = s.pwr := rfl
@[simp] theorem updCtrl_fw (s : State) (c : Nat) (g : Ctrl → Ctrl) : (updCtrl s c g).fw = s.fw := rfl
@[simp] theorem updCtrl_dbg (s : State) (c : Nat) (g : Ctrl → Ctrl) : (updCtrl s c g).dbg = s.dbg := rfl
@[simp] theorem updCtrl_mi (s : State) (c : Nat) (g : Ctrl → Ctrl) : (updCtrl s c g).mi = s.mi := rfl
@[simp] theorem updCtrl_mem (s : State) (c : Nat) (g : Ctrl → Ctrl) : (updCtrl s c g).mem = s.mem := rfl
@[simp] theorem updCtrl_hmem (s : State) (c : Nat) (g : Ctrl → Ctrl) : (updCtrl s c g).hmem = s.hmem := rfl
@[simp] theorem updCtrl_out (s : State) (c : Nat) (g : Ctrl → Ctrl) : (updCtrl s c g).out = s.out := rfl
@[simp] theorem updCtrl_rdata (s : State) (c : Nat) (g : Ctrl → Ctrl) : (updCtrl s c g).rdata = s.rdata := rfl
@[simp] theorem updCtrl_free (s : State) (c : Nat) (g : Ctrl → Ctrl) : (updCtrl s c g).free = s.free := rfl
@[simp] theorem updCtrl_hdead (s : State) (c : Nat) (g : Ctrl → Ctrl) : (updCtrl s c g).hdead = s.hdead := rfl
@[simp] theorem updCtrl_bus (s : State) (c : Nat) (g : Ctrl → Ctrl) : (updCtrl s c g).bus = s.bus := rfl
@[simp] theorem updCtrl_pending (s : State) (c : Nat) (g : Ctrl → Ctrl) : (updCtrl s c g).pending = s.pending := rfl

@[simp] theorem updCmd_ident (s : State) (k : CmdKey) (g : NCmd → NCmd) : (updCmd s k g).ident = s.ident := rfl
@[simp] theorem updCmd_ts (s : State) (k : CmdKey) (g : NCmd → NCmd) : (updCmd s k g).ts = s.ts := rfl
@[simp] theorem updCmd_klv (s : State) (k : CmdKey) (g : NCmd → NCmd) : (updCmd s k g).klv = s.klv := rfl
@[simp] theorem updCmd_prt (s : State) (k : CmdKey) (g : NCmd → NCmd) : (updCmd s k g).prt = s.prt := rfl
@[simp] theorem updCmd_clus (s : State) (k : CmdKey) (g : NCmd → NCmd) : (updCmd s k g).clus = s.clus := rfl
@[simp] theorem updCmd_slots (s : State) (k : CmdKey) (g : NCmd → NCmd) : (updCmd s k g).slots = s.slots := rfl
@[simp] theorem updCmd_arrs (s : State) (k : CmdKey) (g : NCmd → NCmd) : (updCmd s k g).arrs = s.arrs := rfl
@[simp] theorem updCmd_coh (s : State) (k : CmdKey) (g : NCmd → NCmd) : (updCmd s k g).coh = s.coh := rfl
@[simp] theorem updCmd_sch (s : State) (k : CmdKey) (g : NCmd → NCmd) : (updCmd s k g).sch = s.sch := rfl
@[simp] theorem updCmd_tie (s : State) (k : CmdKey) (g : NCmd → NCmd) : (updCmd s k g).tie = s.tie := rfl
@[simp] theorem updCmd_ing (s : State) (k : CmdKey) (g : NCmd → NCmd) : (updCmd s k g).ing = s.ing := rfl
@[simp] theorem updCmd_srch (s : State) (k : CmdKey) (g : NCmd → NCmd) : (updCmd s k g).srch = s.srch := rfl
@[simp] theorem updCmd_lnk (s : State) (k : CmdKey) (g : NCmd → NCmd) : (updCmd s k g).lnk = s.lnk := rfl
@[simp] theorem updCmd_ras (s : State) (k : CmdKey) (g : NCmd → NCmd) : (updCmd s k g).ras = s.ras := rfl
@[simp] theorem updCmd_ftl (s : State) (k : CmdKey) (g : NCmd → NCmd) : (updCmd s k g).ftl = s.ftl := rfl
@[simp] theorem updCmd_rst (s : State) (k : CmdKey) (g : NCmd → NCmd) : (updCmd s k g).rst = s.rst := rfl
@[simp] theorem updCmd_clk (s : State) (k : CmdKey) (g : NCmd → NCmd) : (updCmd s k g).clk = s.clk := rfl
@[simp] theorem updCmd_pwr (s : State) (k : CmdKey) (g : NCmd → NCmd) : (updCmd s k g).pwr = s.pwr := rfl
@[simp] theorem updCmd_fw (s : State) (k : CmdKey) (g : NCmd → NCmd) : (updCmd s k g).fw = s.fw := rfl
@[simp] theorem updCmd_dbg (s : State) (k : CmdKey) (g : NCmd → NCmd) : (updCmd s k g).dbg = s.dbg := rfl
@[simp] theorem updCmd_mi (s : State) (k : CmdKey) (g : NCmd → NCmd) : (updCmd s k g).mi = s.mi := rfl
@[simp] theorem updCmd_mem (s : State) (k : CmdKey) (g : NCmd → NCmd) : (updCmd s k g).mem = s.mem := rfl
@[simp] theorem updCmd_hmem (s : State) (k : CmdKey) (g : NCmd → NCmd) : (updCmd s k g).hmem = s.hmem := rfl
@[simp] theorem updCmd_out (s : State) (k : CmdKey) (g : NCmd → NCmd) : (updCmd s k g).out = s.out := rfl
@[simp] theorem updCmd_rdata (s : State) (k : CmdKey) (g : NCmd → NCmd) : (updCmd s k g).rdata = s.rdata := rfl
@[simp] theorem updCmd_free (s : State) (k : CmdKey) (g : NCmd → NCmd) : (updCmd s k g).free = s.free := rfl
@[simp] theorem updCmd_hdead (s : State) (k : CmdKey) (g : NCmd → NCmd) : (updCmd s k g).hdead = s.hdead := rfl
@[simp] theorem updCmd_bus (s : State) (k : CmdKey) (g : NCmd → NCmd) : (updCmd s k g).bus = s.bus := rfl
@[simp] theorem updCmd_pending (s : State) (k : CmdKey) (g : NCmd → NCmd) : (updCmd s k g).pending = s.pending := rfl

@[simp] theorem updPwr_ident (s : State) (f : Pwr → Pwr) : (updPwr s f).ident = s.ident := rfl
@[simp] theorem updPwr_ts (s : State) (f : Pwr → Pwr) : (updPwr s f).ts = s.ts := rfl
@[simp] theorem updPwr_klv (s : State) (f : Pwr → Pwr) : (updPwr s f).klv = s.klv := rfl
@[simp] theorem updPwr_prt (s : State) (f : Pwr → Pwr) : (updPwr s f).prt = s.prt := rfl
@[simp] theorem updPwr_clus (s : State) (f : Pwr → Pwr) : (updPwr s f).clus = s.clus := rfl
@[simp] theorem updPwr_slots (s : State) (f : Pwr → Pwr) : (updPwr s f).slots = s.slots := rfl
@[simp] theorem updPwr_arrs (s : State) (f : Pwr → Pwr) : (updPwr s f).arrs = s.arrs := rfl
@[simp] theorem updPwr_coh (s : State) (f : Pwr → Pwr) : (updPwr s f).coh = s.coh := rfl
@[simp] theorem updPwr_sch (s : State) (f : Pwr → Pwr) : (updPwr s f).sch = s.sch := rfl
@[simp] theorem updPwr_tie (s : State) (f : Pwr → Pwr) : (updPwr s f).tie = s.tie := rfl
@[simp] theorem updPwr_ing (s : State) (f : Pwr → Pwr) : (updPwr s f).ing = s.ing := rfl
@[simp] theorem updPwr_srch (s : State) (f : Pwr → Pwr) : (updPwr s f).srch = s.srch := rfl
@[simp] theorem updPwr_lnk (s : State) (f : Pwr → Pwr) : (updPwr s f).lnk = s.lnk := rfl
@[simp] theorem updPwr_ras (s : State) (f : Pwr → Pwr) : (updPwr s f).ras = s.ras := rfl
@[simp] theorem updPwr_ftl (s : State) (f : Pwr → Pwr) : (updPwr s f).ftl = s.ftl := rfl
@[simp] theorem updPwr_nvm (s : State) (f : Pwr → Pwr) : (updPwr s f).nvm = s.nvm := rfl
@[simp] theorem updPwr_rst (s : State) (f : Pwr → Pwr) : (updPwr s f).rst = s.rst := rfl
@[simp] theorem updPwr_clk (s : State) (f : Pwr → Pwr) : (updPwr s f).clk = s.clk := rfl
@[simp] theorem updPwr_fw (s : State) (f : Pwr → Pwr) : (updPwr s f).fw = s.fw := rfl
@[simp] theorem updPwr_dbg (s : State) (f : Pwr → Pwr) : (updPwr s f).dbg = s.dbg := rfl
@[simp] theorem updPwr_mi (s : State) (f : Pwr → Pwr) : (updPwr s f).mi = s.mi := rfl
@[simp] theorem updPwr_mem (s : State) (f : Pwr → Pwr) : (updPwr s f).mem = s.mem := rfl
@[simp] theorem updPwr_hmem (s : State) (f : Pwr → Pwr) : (updPwr s f).hmem = s.hmem := rfl
@[simp] theorem updPwr_out (s : State) (f : Pwr → Pwr) : (updPwr s f).out = s.out := rfl
@[simp] theorem updPwr_rdata (s : State) (f : Pwr → Pwr) : (updPwr s f).rdata = s.rdata := rfl
@[simp] theorem updPwr_free (s : State) (f : Pwr → Pwr) : (updPwr s f).free = s.free := rfl
@[simp] theorem updPwr_hdead (s : State) (f : Pwr → Pwr) : (updPwr s f).hdead = s.hdead := rfl
@[simp] theorem updPwr_bus (s : State) (f : Pwr → Pwr) : (updPwr s f).bus = s.bus := rfl
@[simp] theorem updPwr_pending (s : State) (f : Pwr → Pwr) : (updPwr s f).pending = s.pending := rfl

@[simp] theorem updFw_ident (s : State) (f : Fw → Fw) : (updFw s f).ident = s.ident := rfl
@[simp] theorem updFw_ts (s : State) (f : Fw → Fw) : (updFw s f).ts = s.ts := rfl
@[simp] theorem updFw_klv (s : State) (f : Fw → Fw) : (updFw s f).klv = s.klv := rfl
@[simp] theorem updFw_prt (s : State) (f : Fw → Fw) : (updFw s f).prt = s.prt := rfl
@[simp] theorem updFw_clus (s : State) (f : Fw → Fw) : (updFw s f).clus = s.clus := rfl
@[simp] theorem updFw_slots (s : State) (f : Fw → Fw) : (updFw s f).slots = s.slots := rfl
@[simp] theorem updFw_arrs (s : State) (f : Fw → Fw) : (updFw s f).arrs = s.arrs := rfl
@[simp] theorem updFw_coh (s : State) (f : Fw → Fw) : (updFw s f).coh = s.coh := rfl
@[simp] theorem updFw_sch (s : State) (f : Fw → Fw) : (updFw s f).sch = s.sch := rfl
@[simp] theorem updFw_tie (s : State) (f : Fw → Fw) : (updFw s f).tie = s.tie := rfl
@[simp] theorem updFw_ing (s : State) (f : Fw → Fw) : (updFw s f).ing = s.ing := rfl
@[simp] theorem updFw_srch (s : State) (f : Fw → Fw) : (updFw s f).srch = s.srch := rfl
@[simp] theorem updFw_lnk (s : State) (f : Fw → Fw) : (updFw s f).lnk = s.lnk := rfl
@[simp] theorem updFw_ras (s : State) (f : Fw → Fw) : (updFw s f).ras = s.ras := rfl
@[simp] theorem updFw_ftl (s : State) (f : Fw → Fw) : (updFw s f).ftl = s.ftl := rfl
@[simp] theorem updFw_nvm (s : State) (f : Fw → Fw) : (updFw s f).nvm = s.nvm := rfl
@[simp] theorem updFw_rst (s : State) (f : Fw → Fw) : (updFw s f).rst = s.rst := rfl
@[simp] theorem updFw_clk (s : State) (f : Fw → Fw) : (updFw s f).clk = s.clk := rfl
@[simp] theorem updFw_pwr (s : State) (f : Fw → Fw) : (updFw s f).pwr = s.pwr := rfl
@[simp] theorem updFw_dbg (s : State) (f : Fw → Fw) : (updFw s f).dbg = s.dbg := rfl
@[simp] theorem updFw_mi (s : State) (f : Fw → Fw) : (updFw s f).mi = s.mi := rfl
@[simp] theorem updFw_mem (s : State) (f : Fw → Fw) : (updFw s f).mem = s.mem := rfl
@[simp] theorem updFw_hmem (s : State) (f : Fw → Fw) : (updFw s f).hmem = s.hmem := rfl
@[simp] theorem updFw_out (s : State) (f : Fw → Fw) : (updFw s f).out = s.out := rfl
@[simp] theorem updFw_rdata (s : State) (f : Fw → Fw) : (updFw s f).rdata = s.rdata := rfl
@[simp] theorem updFw_free (s : State) (f : Fw → Fw) : (updFw s f).free = s.free := rfl
@[simp] theorem updFw_hdead (s : State) (f : Fw → Fw) : (updFw s f).hdead = s.hdead := rfl
@[simp] theorem updFw_bus (s : State) (f : Fw → Fw) : (updFw s f).bus = s.bus := rfl
@[simp] theorem updFw_pending (s : State) (f : Fw → Fw) : (updFw s f).pending = s.pending := rfl

@[simp] theorem updRas_ident (s : State) (f : Ras → Ras) : (updRas s f).ident = s.ident := rfl
@[simp] theorem updRas_ts (s : State) (f : Ras → Ras) : (updRas s f).ts = s.ts := rfl
@[simp] theorem updRas_klv (s : State) (f : Ras → Ras) : (updRas s f).klv = s.klv := rfl
@[simp] theorem updRas_prt (s : State) (f : Ras → Ras) : (updRas s f).prt = s.prt := rfl
@[simp] theorem updRas_clus (s : State) (f : Ras → Ras) : (updRas s f).clus = s.clus := rfl
@[simp] theorem updRas_slots (s : State) (f : Ras → Ras) : (updRas s f).slots = s.slots := rfl
@[simp] theorem updRas_arrs (s : State) (f : Ras → Ras) : (updRas s f).arrs = s.arrs := rfl
@[simp] theorem updRas_coh (s : State) (f : Ras → Ras) : (updRas s f).coh = s.coh := rfl
@[simp] theorem updRas_sch (s : State) (f : Ras → Ras) : (updRas s f).sch = s.sch := rfl
@[simp] theorem updRas_tie (s : State) (f : Ras → Ras) : (updRas s f).tie = s.tie := rfl
@[simp] theorem updRas_ing (s : State) (f : Ras → Ras) : (updRas s f).ing = s.ing := rfl
@[simp] theorem updRas_srch (s : State) (f : Ras → Ras) : (updRas s f).srch = s.srch := rfl
@[simp] theorem updRas_lnk (s : State) (f : Ras → Ras) : (updRas s f).lnk = s.lnk := rfl
@[simp] theorem updRas_ftl (s : State) (f : Ras → Ras) : (updRas s f).ftl = s.ftl := rfl
@[simp] theorem updRas_nvm (s : State) (f : Ras → Ras) : (updRas s f).nvm = s.nvm := rfl
@[simp] theorem updRas_rst (s : State) (f : Ras → Ras) : (updRas s f).rst = s.rst := rfl
@[simp] theorem updRas_clk (s : State) (f : Ras → Ras) : (updRas s f).clk = s.clk := rfl
@[simp] theorem updRas_pwr (s : State) (f : Ras → Ras) : (updRas s f).pwr = s.pwr := rfl
@[simp] theorem updRas_fw (s : State) (f : Ras → Ras) : (updRas s f).fw = s.fw := rfl
@[simp] theorem updRas_dbg (s : State) (f : Ras → Ras) : (updRas s f).dbg = s.dbg := rfl
@[simp] theorem updRas_mi (s : State) (f : Ras → Ras) : (updRas s f).mi = s.mi := rfl
@[simp] theorem updRas_mem (s : State) (f : Ras → Ras) : (updRas s f).mem = s.mem := rfl
@[simp] theorem updRas_hmem (s : State) (f : Ras → Ras) : (updRas s f).hmem = s.hmem := rfl
@[simp] theorem updRas_out (s : State) (f : Ras → Ras) : (updRas s f).out = s.out := rfl
@[simp] theorem updRas_rdata (s : State) (f : Ras → Ras) : (updRas s f).rdata = s.rdata := rfl
@[simp] theorem updRas_free (s : State) (f : Ras → Ras) : (updRas s f).free = s.free := rfl
@[simp] theorem updRas_hdead (s : State) (f : Ras → Ras) : (updRas s f).hdead = s.hdead := rfl
@[simp] theorem updRas_bus (s : State) (f : Ras → Ras) : (updRas s f).bus = s.bus := rfl
@[simp] theorem updRas_pending (s : State) (f : Ras → Ras) : (updRas s f).pending = s.pending := rfl

@[simp] theorem updPrt_ident (s : State) (f : Prt → Prt) : (updPrt s f).ident = s.ident := rfl
@[simp] theorem updPrt_ts (s : State) (f : Prt → Prt) : (updPrt s f).ts = s.ts := rfl
@[simp] theorem updPrt_klv (s : State) (f : Prt → Prt) : (updPrt s f).klv = s.klv := rfl
@[simp] theorem updPrt_clus (s : State) (f : Prt → Prt) : (updPrt s f).clus = s.clus := rfl
@[simp] theorem updPrt_slots (s : State) (f : Prt → Prt) : (updPrt s f).slots = s.slots := rfl
@[simp] theorem updPrt_arrs (s : State) (f : Prt → Prt) : (updPrt s f).arrs = s.arrs := rfl
@[simp] theorem updPrt_coh (s : State) (f : Prt → Prt) : (updPrt s f).coh = s.coh := rfl
@[simp] theorem updPrt_sch (s : State) (f : Prt → Prt) : (updPrt s f).sch = s.sch := rfl
@[simp] theorem updPrt_tie (s : State) (f : Prt → Prt) : (updPrt s f).tie = s.tie := rfl
@[simp] theorem updPrt_ing (s : State) (f : Prt → Prt) : (updPrt s f).ing = s.ing := rfl
@[simp] theorem updPrt_srch (s : State) (f : Prt → Prt) : (updPrt s f).srch = s.srch := rfl
@[simp] theorem updPrt_lnk (s : State) (f : Prt → Prt) : (updPrt s f).lnk = s.lnk := rfl
@[simp] theorem updPrt_ras (s : State) (f : Prt → Prt) : (updPrt s f).ras = s.ras := rfl
@[simp] theorem updPrt_ftl (s : State) (f : Prt → Prt) : (updPrt s f).ftl = s.ftl := rfl
@[simp] theorem updPrt_nvm (s : State) (f : Prt → Prt) : (updPrt s f).nvm = s.nvm := rfl
@[simp] theorem updPrt_rst (s : State) (f : Prt → Prt) : (updPrt s f).rst = s.rst := rfl
@[simp] theorem updPrt_clk (s : State) (f : Prt → Prt) : (updPrt s f).clk = s.clk := rfl
@[simp] theorem updPrt_pwr (s : State) (f : Prt → Prt) : (updPrt s f).pwr = s.pwr := rfl
@[simp] theorem updPrt_fw (s : State) (f : Prt → Prt) : (updPrt s f).fw = s.fw := rfl
@[simp] theorem updPrt_dbg (s : State) (f : Prt → Prt) : (updPrt s f).dbg = s.dbg := rfl
@[simp] theorem updPrt_mi (s : State) (f : Prt → Prt) : (updPrt s f).mi = s.mi := rfl
@[simp] theorem updPrt_mem (s : State) (f : Prt → Prt) : (updPrt s f).mem = s.mem := rfl
@[simp] theorem updPrt_hmem (s : State) (f : Prt → Prt) : (updPrt s f).hmem = s.hmem := rfl
@[simp] theorem updPrt_out (s : State) (f : Prt → Prt) : (updPrt s f).out = s.out := rfl
@[simp] theorem updPrt_rdata (s : State) (f : Prt → Prt) : (updPrt s f).rdata = s.rdata := rfl
@[simp] theorem updPrt_free (s : State) (f : Prt → Prt) : (updPrt s f).free = s.free := rfl
@[simp] theorem updPrt_hdead (s : State) (f : Prt → Prt) : (updPrt s f).hdead = s.hdead := rfl
@[simp] theorem updPrt_bus (s : State) (f : Prt → Prt) : (updPrt s f).bus = s.bus := rfl
@[simp] theorem updPrt_pending (s : State) (f : Prt → Prt) : (updPrt s f).pending = s.pending := rfl

@[simp] theorem updGrp_ident (s : State) (g : Nat) (f : Group → Group) : (updGrp s g f).ident = s.ident := rfl
@[simp] theorem updGrp_ts (s : State) (g : Nat) (f : Group → Group) : (updGrp s g f).ts = s.ts := rfl
@[simp] theorem updGrp_klv (s : State) (g : Nat) (f : Group → Group) : (updGrp s g f).klv = s.klv := rfl
@[simp] theorem updGrp_prt (s : State) (g : Nat) (f : Group → Group) : (updGrp s g f).prt = s.prt := rfl
@[simp] theorem updGrp_clus (s : State) (g : Nat) (f : Group → Group) : (updGrp s g f).clus = s.clus := rfl
@[simp] theorem updGrp_slots (s : State) (g : Nat) (f : Group → Group) : (updGrp s g f).slots = s.slots := rfl
@[simp] theorem updGrp_arrs (s : State) (g : Nat) (f : Group → Group) : (updGrp s g f).arrs = s.arrs := rfl
@[simp] theorem updGrp_coh (s : State) (g : Nat) (f : Group → Group) : (updGrp s g f).coh = s.coh := rfl
@[simp] theorem updGrp_sch (s : State) (g : Nat) (f : Group → Group) : (updGrp s g f).sch = s.sch := rfl
@[simp] theorem updGrp_tie (s : State) (g : Nat) (f : Group → Group) : (updGrp s g f).tie = s.tie := rfl
@[simp] theorem updGrp_ing (s : State) (g : Nat) (f : Group → Group) : (updGrp s g f).ing = s.ing := rfl
@[simp] theorem updGrp_srch (s : State) (g : Nat) (f : Group → Group) : (updGrp s g f).srch = s.srch := rfl
@[simp] theorem updGrp_lnk (s : State) (g : Nat) (f : Group → Group) : (updGrp s g f).lnk = s.lnk := rfl
@[simp] theorem updGrp_ras (s : State) (g : Nat) (f : Group → Group) : (updGrp s g f).ras = s.ras := rfl
@[simp] theorem updGrp_nvm (s : State) (g : Nat) (f : Group → Group) : (updGrp s g f).nvm = s.nvm := rfl
@[simp] theorem updGrp_rst (s : State) (g : Nat) (f : Group → Group) : (updGrp s g f).rst = s.rst := rfl
@[simp] theorem updGrp_clk (s : State) (g : Nat) (f : Group → Group) : (updGrp s g f).clk = s.clk := rfl
@[simp] theorem updGrp_pwr (s : State) (g : Nat) (f : Group → Group) : (updGrp s g f).pwr = s.pwr := rfl
@[simp] theorem updGrp_fw (s : State) (g : Nat) (f : Group → Group) : (updGrp s g f).fw = s.fw := rfl
@[simp] theorem updGrp_dbg (s : State) (g : Nat) (f : Group → Group) : (updGrp s g f).dbg = s.dbg := rfl
@[simp] theorem updGrp_mi (s : State) (g : Nat) (f : Group → Group) : (updGrp s g f).mi = s.mi := rfl
@[simp] theorem updGrp_mem (s : State) (g : Nat) (f : Group → Group) : (updGrp s g f).mem = s.mem := rfl
@[simp] theorem updGrp_hmem (s : State) (g : Nat) (f : Group → Group) : (updGrp s g f).hmem = s.hmem := rfl
@[simp] theorem updGrp_out (s : State) (g : Nat) (f : Group → Group) : (updGrp s g f).out = s.out := rfl
@[simp] theorem updGrp_rdata (s : State) (g : Nat) (f : Group → Group) : (updGrp s g f).rdata = s.rdata := rfl
@[simp] theorem updGrp_free (s : State) (g : Nat) (f : Group → Group) : (updGrp s g f).free = s.free := rfl
@[simp] theorem updGrp_hdead (s : State) (g : Nat) (f : Group → Group) : (updGrp s g f).hdead = s.hdead := rfl
@[simp] theorem updGrp_bus (s : State) (g : Nat) (f : Group → Group) : (updGrp s g f).bus = s.bus := rfl
@[simp] theorem updGrp_pending (s : State) (g : Nat) (f : Group → Group) : (updGrp s g f).pending = s.pending := rfl

@[simp] theorem updSb_ident (s : State) (g k : Nat) (f : Sb → Sb) : (updSb s g k f).ident = s.ident := rfl
@[simp] theorem updSb_ts (s : State) (g k : Nat) (f : Sb → Sb) : (updSb s g k f).ts = s.ts := rfl
@[simp] theorem updSb_klv (s : State) (g k : Nat) (f : Sb → Sb) : (updSb s g k f).klv = s.klv := rfl
@[simp] theorem updSb_prt (s : State) (g k : Nat) (f : Sb → Sb) : (updSb s g k f).prt = s.prt := rfl
@[simp] theorem updSb_clus (s : State) (g k : Nat) (f : Sb → Sb) : (updSb s g k f).clus = s.clus := rfl
@[simp] theorem updSb_slots (s : State) (g k : Nat) (f : Sb → Sb) : (updSb s g k f).slots = s.slots := rfl
@[simp] theorem updSb_arrs (s : State) (g k : Nat) (f : Sb → Sb) : (updSb s g k f).arrs = s.arrs := rfl
@[simp] theorem updSb_coh (s : State) (g k : Nat) (f : Sb → Sb) : (updSb s g k f).coh = s.coh := rfl
@[simp] theorem updSb_sch (s : State) (g k : Nat) (f : Sb → Sb) : (updSb s g k f).sch = s.sch := rfl
@[simp] theorem updSb_tie (s : State) (g k : Nat) (f : Sb → Sb) : (updSb s g k f).tie = s.tie := rfl
@[simp] theorem updSb_ing (s : State) (g k : Nat) (f : Sb → Sb) : (updSb s g k f).ing = s.ing := rfl
@[simp] theorem updSb_srch (s : State) (g k : Nat) (f : Sb → Sb) : (updSb s g k f).srch = s.srch := rfl
@[simp] theorem updSb_lnk (s : State) (g k : Nat) (f : Sb → Sb) : (updSb s g k f).lnk = s.lnk := rfl
@[simp] theorem updSb_ras (s : State) (g k : Nat) (f : Sb → Sb) : (updSb s g k f).ras = s.ras := rfl
@[simp] theorem updSb_nvm (s : State) (g k : Nat) (f : Sb → Sb) : (updSb s g k f).nvm = s.nvm := rfl
@[simp] theorem updSb_rst (s : State) (g k : Nat) (f : Sb → Sb) : (updSb s g k f).rst = s.rst := rfl
@[simp] theorem updSb_clk (s : State) (g k : Nat) (f : Sb → Sb) : (updSb s g k f).clk = s.clk := rfl
@[simp] theorem updSb_pwr (s : State) (g k : Nat) (f : Sb → Sb) : (updSb s g k f).pwr = s.pwr := rfl
@[simp] theorem updSb_fw (s : State) (g k : Nat) (f : Sb → Sb) : (updSb s g k f).fw = s.fw := rfl
@[simp] theorem updSb_dbg (s : State) (g k : Nat) (f : Sb → Sb) : (updSb s g k f).dbg = s.dbg := rfl
@[simp] theorem updSb_mi (s : State) (g k : Nat) (f : Sb → Sb) : (updSb s g k f).mi = s.mi := rfl
@[simp] theorem updSb_mem (s : State) (g k : Nat) (f : Sb → Sb) : (updSb s g k f).mem = s.mem := rfl
@[simp] theorem updSb_hmem (s : State) (g k : Nat) (f : Sb → Sb) : (updSb s g k f).hmem = s.hmem := rfl
@[simp] theorem updSb_out (s : State) (g k : Nat) (f : Sb → Sb) : (updSb s g k f).out = s.out := rfl
@[simp] theorem updSb_rdata (s : State) (g k : Nat) (f : Sb → Sb) : (updSb s g k f).rdata = s.rdata := rfl
@[simp] theorem updSb_free (s : State) (g k : Nat) (f : Sb → Sb) : (updSb s g k f).free = s.free := rfl
@[simp] theorem updSb_hdead (s : State) (g k : Nat) (f : Sb → Sb) : (updSb s g k f).hdead = s.hdead := rfl
@[simp] theorem updSb_bus (s : State) (g k : Nat) (f : Sb → Sb) : (updSb s g k f).bus = s.bus := rfl
@[simp] theorem updSb_pending (s : State) (g k : Nat) (f : Sb → Sb) : (updSb s g k f).pending = s.pending := rfl

@[simp] theorem updNs_ident (s : State) (ns : Nat) (f : Ns → Ns) : (updNs s ns f).ident = s.ident := by unfold updNs; split <;> rfl
@[simp] theorem updNs_ts (s : State) (ns : Nat) (f : Ns → Ns) : (updNs s ns f).ts = s.ts := by unfold updNs; split <;> rfl
@[simp] theorem updNs_klv (s : State) (ns : Nat) (f : Ns → Ns) : (updNs s ns f).klv = s.klv := by unfold updNs; split <;> rfl
@[simp] theorem updNs_prt (s : State) (ns : Nat) (f : Ns → Ns) : (updNs s ns f).prt = s.prt := by unfold updNs; split <;> rfl
@[simp] theorem updNs_clus (s : State) (ns : Nat) (f : Ns → Ns) : (updNs s ns f).clus = s.clus := by unfold updNs; split <;> rfl
@[simp] theorem updNs_slots (s : State) (ns : Nat) (f : Ns → Ns) : (updNs s ns f).slots = s.slots := by unfold updNs; split <;> rfl
@[simp] theorem updNs_arrs (s : State) (ns : Nat) (f : Ns → Ns) : (updNs s ns f).arrs = s.arrs := by unfold updNs; split <;> rfl
@[simp] theorem updNs_coh (s : State) (ns : Nat) (f : Ns → Ns) : (updNs s ns f).coh = s.coh := by unfold updNs; split <;> rfl
@[simp] theorem updNs_sch (s : State) (ns : Nat) (f : Ns → Ns) : (updNs s ns f).sch = s.sch := by unfold updNs; split <;> rfl
@[simp] theorem updNs_tie (s : State) (ns : Nat) (f : Ns → Ns) : (updNs s ns f).tie = s.tie := by unfold updNs; split <;> rfl
@[simp] theorem updNs_ing (s : State) (ns : Nat) (f : Ns → Ns) : (updNs s ns f).ing = s.ing := by unfold updNs; split <;> rfl
@[simp] theorem updNs_srch (s : State) (ns : Nat) (f : Ns → Ns) : (updNs s ns f).srch = s.srch := by unfold updNs; split <;> rfl
@[simp] theorem updNs_lnk (s : State) (ns : Nat) (f : Ns → Ns) : (updNs s ns f).lnk = s.lnk := by unfold updNs; split <;> rfl
@[simp] theorem updNs_ras (s : State) (ns : Nat) (f : Ns → Ns) : (updNs s ns f).ras = s.ras := by unfold updNs; split <;> rfl
@[simp] theorem updNs_nvm (s : State) (ns : Nat) (f : Ns → Ns) : (updNs s ns f).nvm = s.nvm := by unfold updNs; split <;> rfl
@[simp] theorem updNs_rst (s : State) (ns : Nat) (f : Ns → Ns) : (updNs s ns f).rst = s.rst := by unfold updNs; split <;> rfl
@[simp] theorem updNs_clk (s : State) (ns : Nat) (f : Ns → Ns) : (updNs s ns f).clk = s.clk := by unfold updNs; split <;> rfl
@[simp] theorem updNs_pwr (s : State) (ns : Nat) (f : Ns → Ns) : (updNs s ns f).pwr = s.pwr := by unfold updNs; split <;> rfl
@[simp] theorem updNs_fw (s : State) (ns : Nat) (f : Ns → Ns) : (updNs s ns f).fw = s.fw := by unfold updNs; split <;> rfl
@[simp] theorem updNs_dbg (s : State) (ns : Nat) (f : Ns → Ns) : (updNs s ns f).dbg = s.dbg := by unfold updNs; split <;> rfl
@[simp] theorem updNs_mi (s : State) (ns : Nat) (f : Ns → Ns) : (updNs s ns f).mi = s.mi := by unfold updNs; split <;> rfl
@[simp] theorem updNs_mem (s : State) (ns : Nat) (f : Ns → Ns) : (updNs s ns f).mem = s.mem := by unfold updNs; split <;> rfl
@[simp] theorem updNs_hmem (s : State) (ns : Nat) (f : Ns → Ns) : (updNs s ns f).hmem = s.hmem := by unfold updNs; split <;> rfl
@[simp] theorem updNs_out (s : State) (ns : Nat) (f : Ns → Ns) : (updNs s ns f).out = s.out := by unfold updNs; split <;> rfl
@[simp] theorem updNs_rdata (s : State) (ns : Nat) (f : Ns → Ns) : (updNs s ns f).rdata = s.rdata := by unfold updNs; split <;> rfl
@[simp] theorem updNs_free (s : State) (ns : Nat) (f : Ns → Ns) : (updNs s ns f).free = s.free := by unfold updNs; split <;> rfl
@[simp] theorem updNs_hdead (s : State) (ns : Nat) (f : Ns → Ns) : (updNs s ns f).hdead = s.hdead := by unfold updNs; split <;> rfl
@[simp] theorem updNs_bus (s : State) (ns : Nat) (f : Ns → Ns) : (updNs s ns f).bus = s.bus := by unfold updNs; split <;> rfl
@[simp] theorem updNs_pending (s : State) (ns : Nat) (f : Ns → Ns) : (updNs s ns f).pending = s.pending := by unfold updNs; split <;> rfl

@[simp] theorem updIng_ident (s : State) (p : Nat) (f : IngPart → IngPart) : (updIng s p f).ident = s.ident := rfl
@[simp] theorem updIng_ts (s : State) (p : Nat) (f : IngPart → IngPart) : (updIng s p f).ts = s.ts := rfl
@[simp] theorem updIng_klv (s : State) (p : Nat) (f : IngPart → IngPart) : (updIng s p f).klv = s.klv := rfl
@[simp] theorem updIng_prt (s : State) (p : Nat) (f : IngPart → IngPart) : (updIng s p f).prt = s.prt := rfl
@[simp] theorem updIng_clus (s : State) (p : Nat) (f : IngPart → IngPart) : (updIng s p f).clus = s.clus := rfl
@[simp] theorem updIng_slots (s : State) (p : Nat) (f : IngPart → IngPart) : (updIng s p f).slots = s.slots := rfl
@[simp] theorem updIng_arrs (s : State) (p : Nat) (f : IngPart → IngPart) : (updIng s p f).arrs = s.arrs := rfl
@[simp] theorem updIng_coh (s : State) (p : Nat) (f : IngPart → IngPart) : (updIng s p f).coh = s.coh := rfl
@[simp] theorem updIng_sch (s : State) (p : Nat) (f : IngPart → IngPart) : (updIng s p f).sch = s.sch := rfl
@[simp] theorem updIng_tie (s : State) (p : Nat) (f : IngPart → IngPart) : (updIng s p f).tie = s.tie := rfl
@[simp] theorem updIng_srch (s : State) (p : Nat) (f : IngPart → IngPart) : (updIng s p f).srch = s.srch := rfl
@[simp] theorem updIng_lnk (s : State) (p : Nat) (f : IngPart → IngPart) : (updIng s p f).lnk = s.lnk := rfl
@[simp] theorem updIng_ras (s : State) (p : Nat) (f : IngPart → IngPart) : (updIng s p f).ras = s.ras := rfl
@[simp] theorem updIng_ftl (s : State) (p : Nat) (f : IngPart → IngPart) : (updIng s p f).ftl = s.ftl := rfl
@[simp] theorem updIng_nvm (s : State) (p : Nat) (f : IngPart → IngPart) : (updIng s p f).nvm = s.nvm := rfl
@[simp] theorem updIng_rst (s : State) (p : Nat) (f : IngPart → IngPart) : (updIng s p f).rst = s.rst := rfl
@[simp] theorem updIng_clk (s : State) (p : Nat) (f : IngPart → IngPart) : (updIng s p f).clk = s.clk := rfl
@[simp] theorem updIng_pwr (s : State) (p : Nat) (f : IngPart → IngPart) : (updIng s p f).pwr = s.pwr := rfl
@[simp] theorem updIng_fw (s : State) (p : Nat) (f : IngPart → IngPart) : (updIng s p f).fw = s.fw := rfl
@[simp] theorem updIng_dbg (s : State) (p : Nat) (f : IngPart → IngPart) : (updIng s p f).dbg = s.dbg := rfl
@[simp] theorem updIng_mi (s : State) (p : Nat) (f : IngPart → IngPart) : (updIng s p f).mi = s.mi := rfl
@[simp] theorem updIng_mem (s : State) (p : Nat) (f : IngPart → IngPart) : (updIng s p f).mem = s.mem := rfl
@[simp] theorem updIng_hmem (s : State) (p : Nat) (f : IngPart → IngPart) : (updIng s p f).hmem = s.hmem := rfl
@[simp] theorem updIng_out (s : State) (p : Nat) (f : IngPart → IngPart) : (updIng s p f).out = s.out := rfl
@[simp] theorem updIng_rdata (s : State) (p : Nat) (f : IngPart → IngPart) : (updIng s p f).rdata = s.rdata := rfl
@[simp] theorem updIng_free (s : State) (p : Nat) (f : IngPart → IngPart) : (updIng s p f).free = s.free := rfl
@[simp] theorem updIng_hdead (s : State) (p : Nat) (f : IngPart → IngPart) : (updIng s p f).hdead = s.hdead := rfl
@[simp] theorem updIng_bus (s : State) (p : Nat) (f : IngPart → IngPart) : (updIng s p f).bus = s.bus := rfl
@[simp] theorem updIng_pending (s : State) (p : Nat) (f : IngPart → IngPart) : (updIng s p f).pending = s.pending := rfl

@[simp] theorem updRun_ident (s : State) (p : Nat) (f : Run → Run) : (updRun s p f).ident = s.ident := rfl
@[simp] theorem updRun_ts (s : State) (p : Nat) (f : Run → Run) : (updRun s p f).ts = s.ts := rfl
@[simp] theorem updRun_klv (s : State) (p : Nat) (f : Run → Run) : (updRun s p f).klv = s.klv := rfl
@[simp] theorem updRun_prt (s : State) (p : Nat) (f : Run → Run) : (updRun s p f).prt = s.prt := rfl
@[simp] theorem updRun_clus (s : State) (p : Nat) (f : Run → Run) : (updRun s p f).clus = s.clus := rfl
@[simp] theorem updRun_slots (s : State) (p : Nat) (f : Run → Run) : (updRun s p f).slots = s.slots := rfl
@[simp] theorem updRun_arrs (s : State) (p : Nat) (f : Run → Run) : (updRun s p f).arrs = s.arrs := rfl
@[simp] theorem updRun_coh (s : State) (p : Nat) (f : Run → Run) : (updRun s p f).coh = s.coh := rfl
@[simp] theorem updRun_sch (s : State) (p : Nat) (f : Run → Run) : (updRun s p f).sch = s.sch := rfl
@[simp] theorem updRun_tie (s : State) (p : Nat) (f : Run → Run) : (updRun s p f).tie = s.tie := rfl
@[simp] theorem updRun_srch (s : State) (p : Nat) (f : Run → Run) : (updRun s p f).srch = s.srch := rfl
@[simp] theorem updRun_lnk (s : State) (p : Nat) (f : Run → Run) : (updRun s p f).lnk = s.lnk := rfl
@[simp] theorem updRun_ras (s : State) (p : Nat) (f : Run → Run) : (updRun s p f).ras = s.ras := rfl
@[simp] theorem updRun_ftl (s : State) (p : Nat) (f : Run → Run) : (updRun s p f).ftl = s.ftl := rfl
@[simp] theorem updRun_nvm (s : State) (p : Nat) (f : Run → Run) : (updRun s p f).nvm = s.nvm := rfl
@[simp] theorem updRun_rst (s : State) (p : Nat) (f : Run → Run) : (updRun s p f).rst = s.rst := rfl
@[simp] theorem updRun_clk (s : State) (p : Nat) (f : Run → Run) : (updRun s p f).clk = s.clk := rfl
@[simp] theorem updRun_pwr (s : State) (p : Nat) (f : Run → Run) : (updRun s p f).pwr = s.pwr := rfl
@[simp] theorem updRun_fw (s : State) (p : Nat) (f : Run → Run) : (updRun s p f).fw = s.fw := rfl
@[simp] theorem updRun_dbg (s : State) (p : Nat) (f : Run → Run) : (updRun s p f).dbg = s.dbg := rfl
@[simp] theorem updRun_mi (s : State) (p : Nat) (f : Run → Run) : (updRun s p f).mi = s.mi := rfl
@[simp] theorem updRun_mem (s : State) (p : Nat) (f : Run → Run) : (updRun s p f).mem = s.mem := rfl
@[simp] theorem updRun_hmem (s : State) (p : Nat) (f : Run → Run) : (updRun s p f).hmem = s.hmem := rfl
@[simp] theorem updRun_out (s : State) (p : Nat) (f : Run → Run) : (updRun s p f).out = s.out := rfl
@[simp] theorem updRun_rdata (s : State) (p : Nat) (f : Run → Run) : (updRun s p f).rdata = s.rdata := rfl
@[simp] theorem updRun_free (s : State) (p : Nat) (f : Run → Run) : (updRun s p f).free = s.free := rfl
@[simp] theorem updRun_hdead (s : State) (p : Nat) (f : Run → Run) : (updRun s p f).hdead = s.hdead := rfl
@[simp] theorem updRun_bus (s : State) (p : Nat) (f : Run → Run) : (updRun s p f).bus = s.bus := rfl
@[simp] theorem updRun_pending (s : State) (p : Nat) (f : Run → Run) : (updRun s p f).pending = s.pending := rfl

@[simp] theorem updTarget_ident (s : State) (p t : Nat) (f : Target → Target) : (updTarget s p t f).ident = s.ident := rfl
@[simp] theorem updTarget_ts (s : State) (p t : Nat) (f : Target → Target) : (updTarget s p t f).ts = s.ts := rfl
@[simp] theorem updTarget_klv (s : State) (p t : Nat) (f : Target → Target) : (updTarget s p t f).klv = s.klv := rfl
@[simp] theorem updTarget_prt (s : State) (p t : Nat) (f : Target → Target) : (updTarget s p t f).prt = s.prt := rfl
@[simp] theorem updTarget_clus (s : State) (p t : Nat) (f : Target → Target) : (updTarget s p t f).clus = s.clus := rfl
@[simp] theorem updTarget_slots (s : State) (p t : Nat) (f : Target → Target) : (updTarget s p t f).slots = s.slots := rfl
@[simp] theorem updTarget_arrs (s : State) (p t : Nat) (f : Target → Target) : (updTarget s p t f).arrs = s.arrs := rfl
@[simp] theorem updTarget_coh (s : State) (p t : Nat) (f : Target → Target) : (updTarget s p t f).coh = s.coh := rfl
@[simp] theorem updTarget_sch (s : State) (p t : Nat) (f : Target → Target) : (updTarget s p t f).sch = s.sch := rfl
@[simp] theorem updTarget_tie (s : State) (p t : Nat) (f : Target → Target) : (updTarget s p t f).tie = s.tie := rfl
@[simp] theorem updTarget_srch (s : State) (p t : Nat) (f : Target → Target) : (updTarget s p t f).srch = s.srch := rfl
@[simp] theorem updTarget_lnk (s : State) (p t : Nat) (f : Target → Target) : (updTarget s p t f).lnk = s.lnk := rfl
@[simp] theorem updTarget_ras (s : State) (p t : Nat) (f : Target → Target) : (updTarget s p t f).ras = s.ras := rfl
@[simp] theorem updTarget_ftl (s : State) (p t : Nat) (f : Target → Target) : (updTarget s p t f).ftl = s.ftl := rfl
@[simp] theorem updTarget_nvm (s : State) (p t : Nat) (f : Target → Target) : (updTarget s p t f).nvm = s.nvm := rfl
@[simp] theorem updTarget_rst (s : State) (p t : Nat) (f : Target → Target) : (updTarget s p t f).rst = s.rst := rfl
@[simp] theorem updTarget_clk (s : State) (p t : Nat) (f : Target → Target) : (updTarget s p t f).clk = s.clk := rfl
@[simp] theorem updTarget_pwr (s : State) (p t : Nat) (f : Target → Target) : (updTarget s p t f).pwr = s.pwr := rfl
@[simp] theorem updTarget_fw (s : State) (p t : Nat) (f : Target → Target) : (updTarget s p t f).fw = s.fw := rfl
@[simp] theorem updTarget_dbg (s : State) (p t : Nat) (f : Target → Target) : (updTarget s p t f).dbg = s.dbg := rfl
@[simp] theorem updTarget_mi (s : State) (p t : Nat) (f : Target → Target) : (updTarget s p t f).mi = s.mi := rfl
@[simp] theorem updTarget_mem (s : State) (p t : Nat) (f : Target → Target) : (updTarget s p t f).mem = s.mem := rfl
@[simp] theorem updTarget_hmem (s : State) (p t : Nat) (f : Target → Target) : (updTarget s p t f).hmem = s.hmem := rfl
@[simp] theorem updTarget_out (s : State) (p t : Nat) (f : Target → Target) : (updTarget s p t f).out = s.out := rfl
@[simp] theorem updTarget_rdata (s : State) (p t : Nat) (f : Target → Target) : (updTarget s p t f).rdata = s.rdata := rfl
@[simp] theorem updTarget_free (s : State) (p t : Nat) (f : Target → Target) : (updTarget s p t f).free = s.free := rfl
@[simp] theorem updTarget_hdead (s : State) (p t : Nat) (f : Target → Target) : (updTarget s p t f).hdead = s.hdead := rfl
@[simp] theorem updTarget_bus (s : State) (p t : Nat) (f : Target → Target) : (updTarget s p t f).bus = s.bus := rfl
@[simp] theorem updTarget_pending (s : State) (p t : Nat) (f : Target → Target) : (updTarget s p t f).pending = s.pending := rfl

@[simp] theorem updObj_ident (s : State) (key : Nat) (f : Obj → Obj) : (updObj s key f).ident = s.ident := by unfold updObj; split <;> rfl
@[simp] theorem updObj_ts (s : State) (key : Nat) (f : Obj → Obj) : (updObj s key f).ts = s.ts := by unfold updObj; split <;> rfl
@[simp] theorem updObj_klv (s : State) (key : Nat) (f : Obj → Obj) : (updObj s key f).klv = s.klv := by unfold updObj; split <;> rfl
@[simp] theorem updObj_prt (s : State) (key : Nat) (f : Obj → Obj) : (updObj s key f).prt = s.prt := by unfold updObj; split <;> rfl
@[simp] theorem updObj_clus (s : State) (key : Nat) (f : Obj → Obj) : (updObj s key f).clus = s.clus := by unfold updObj; split <;> rfl
@[simp] theorem updObj_slots (s : State) (key : Nat) (f : Obj → Obj) : (updObj s key f).slots = s.slots := by unfold updObj; split <;> rfl
@[simp] theorem updObj_arrs (s : State) (key : Nat) (f : Obj → Obj) : (updObj s key f).arrs = s.arrs := by unfold updObj; split <;> rfl
@[simp] theorem updObj_coh (s : State) (key : Nat) (f : Obj → Obj) : (updObj s key f).coh = s.coh := by unfold updObj; split <;> rfl
@[simp] theorem updObj_sch (s : State) (key : Nat) (f : Obj → Obj) : (updObj s key f).sch = s.sch := by unfold updObj; split <;> rfl
@[simp] theorem updObj_ing (s : State) (key : Nat) (f : Obj → Obj) : (updObj s key f).ing = s.ing := by unfold updObj; split <;> rfl
@[simp] theorem updObj_srch (s : State) (key : Nat) (f : Obj → Obj) : (updObj s key f).srch = s.srch := by unfold updObj; split <;> rfl
@[simp] theorem updObj_lnk (s : State) (key : Nat) (f : Obj → Obj) : (updObj s key f).lnk = s.lnk := by unfold updObj; split <;> rfl
@[simp] theorem updObj_ras (s : State) (key : Nat) (f : Obj → Obj) : (updObj s key f).ras = s.ras := by unfold updObj; split <;> rfl
@[simp] theorem updObj_ftl (s : State) (key : Nat) (f : Obj → Obj) : (updObj s key f).ftl = s.ftl := by unfold updObj; split <;> rfl
@[simp] theorem updObj_nvm (s : State) (key : Nat) (f : Obj → Obj) : (updObj s key f).nvm = s.nvm := by unfold updObj; split <;> rfl
@[simp] theorem updObj_rst (s : State) (key : Nat) (f : Obj → Obj) : (updObj s key f).rst = s.rst := by unfold updObj; split <;> rfl
@[simp] theorem updObj_clk (s : State) (key : Nat) (f : Obj → Obj) : (updObj s key f).clk = s.clk := by unfold updObj; split <;> rfl
@[simp] theorem updObj_pwr (s : State) (key : Nat) (f : Obj → Obj) : (updObj s key f).pwr = s.pwr := by unfold updObj; split <;> rfl
@[simp] theorem updObj_fw (s : State) (key : Nat) (f : Obj → Obj) : (updObj s key f).fw = s.fw := by unfold updObj; split <;> rfl
@[simp] theorem updObj_dbg (s : State) (key : Nat) (f : Obj → Obj) : (updObj s key f).dbg = s.dbg := by unfold updObj; split <;> rfl
@[simp] theorem updObj_mi (s : State) (key : Nat) (f : Obj → Obj) : (updObj s key f).mi = s.mi := by unfold updObj; split <;> rfl
@[simp] theorem updObj_mem (s : State) (key : Nat) (f : Obj → Obj) : (updObj s key f).mem = s.mem := by unfold updObj; split <;> rfl
@[simp] theorem updObj_hmem (s : State) (key : Nat) (f : Obj → Obj) : (updObj s key f).hmem = s.hmem := by unfold updObj; split <;> rfl
@[simp] theorem updObj_out (s : State) (key : Nat) (f : Obj → Obj) : (updObj s key f).out = s.out := by unfold updObj; split <;> rfl
@[simp] theorem updObj_rdata (s : State) (key : Nat) (f : Obj → Obj) : (updObj s key f).rdata = s.rdata := by unfold updObj; split <;> rfl
@[simp] theorem updObj_free (s : State) (key : Nat) (f : Obj → Obj) : (updObj s key f).free = s.free := by unfold updObj; split <;> rfl
@[simp] theorem updObj_hdead (s : State) (key : Nat) (f : Obj → Obj) : (updObj s key f).hdead = s.hdead := by unfold updObj; split <;> rfl
@[simp] theorem updObj_bus (s : State) (key : Nat) (f : Obj → Obj) : (updObj s key f).bus = s.bus := by unfold updObj; split <;> rfl
@[simp] theorem updObj_pending (s : State) (key : Nat) (f : Obj → Obj) : (updObj s key f).pending = s.pending := by unfold updObj; split <;> rfl

@[simp] theorem updCopies_ident (s : State) (key : Nat) (root : Bool) (f : Tbl TileCopy → Tbl TileCopy) : (updCopies s key root f).ident = s.ident := by simp [updCopies]
@[simp] theorem updCopies_ts (s : State) (key : Nat) (root : Bool) (f : Tbl TileCopy → Tbl TileCopy) : (updCopies s key root f).ts = s.ts := by simp [updCopies]
@[simp] theorem updCopies_klv (s : State) (key : Nat) (root : Bool) (f : Tbl TileCopy → Tbl TileCopy) : (updCopies s key root f).klv = s.klv := by simp [updCopies]
@[simp] theorem updCopies_prt (s : State) (key : Nat) (root : Bool) (f : Tbl TileCopy → Tbl TileCopy) : (updCopies s key root f).prt = s.prt := by simp [updCopies]
@[simp] theorem updCopies_clus (s : State) (key : Nat) (root : Bool) (f : Tbl TileCopy → Tbl TileCopy) : (updCopies s key root f).clus = s.clus := by simp [updCopies]
@[simp] theorem updCopies_slots (s : State) (key : Nat) (root : Bool) (f : Tbl TileCopy → Tbl TileCopy) : (updCopies s key root f).slots = s.slots := by simp [updCopies]
@[simp] theorem updCopies_arrs (s : State) (key : Nat) (root : Bool) (f : Tbl TileCopy → Tbl TileCopy) : (updCopies s key root f).arrs = s.arrs := by simp [updCopies]
@[simp] theorem updCopies_coh (s : State) (key : Nat) (root : Bool) (f : Tbl TileCopy → Tbl TileCopy) : (updCopies s key root f).coh = s.coh := by simp [updCopies]
@[simp] theorem updCopies_sch (s : State) (key : Nat) (root : Bool) (f : Tbl TileCopy → Tbl TileCopy) : (updCopies s key root f).sch = s.sch := by simp [updCopies]
@[simp] theorem updCopies_ing (s : State) (key : Nat) (root : Bool) (f : Tbl TileCopy → Tbl TileCopy) : (updCopies s key root f).ing = s.ing := by simp [updCopies]
@[simp] theorem updCopies_srch (s : State) (key : Nat) (root : Bool) (f : Tbl TileCopy → Tbl TileCopy) : (updCopies s key root f).srch = s.srch := by simp [updCopies]
@[simp] theorem updCopies_lnk (s : State) (key : Nat) (root : Bool) (f : Tbl TileCopy → Tbl TileCopy) : (updCopies s key root f).lnk = s.lnk := by simp [updCopies]
@[simp] theorem updCopies_ras (s : State) (key : Nat) (root : Bool) (f : Tbl TileCopy → Tbl TileCopy) : (updCopies s key root f).ras = s.ras := by simp [updCopies]
@[simp] theorem updCopies_ftl (s : State) (key : Nat) (root : Bool) (f : Tbl TileCopy → Tbl TileCopy) : (updCopies s key root f).ftl = s.ftl := by simp [updCopies]
@[simp] theorem updCopies_nvm (s : State) (key : Nat) (root : Bool) (f : Tbl TileCopy → Tbl TileCopy) : (updCopies s key root f).nvm = s.nvm := by simp [updCopies]
@[simp] theorem updCopies_rst (s : State) (key : Nat) (root : Bool) (f : Tbl TileCopy → Tbl TileCopy) : (updCopies s key root f).rst = s.rst := by simp [updCopies]
@[simp] theorem updCopies_clk (s : State) (key : Nat) (root : Bool) (f : Tbl TileCopy → Tbl TileCopy) : (updCopies s key root f).clk = s.clk := by simp [updCopies]
@[simp] theorem updCopies_pwr (s : State) (key : Nat) (root : Bool) (f : Tbl TileCopy → Tbl TileCopy) : (updCopies s key root f).pwr = s.pwr := by simp [updCopies]
@[simp] theorem updCopies_fw (s : State) (key : Nat) (root : Bool) (f : Tbl TileCopy → Tbl TileCopy) : (updCopies s key root f).fw = s.fw := by simp [updCopies]
@[simp] theorem updCopies_dbg (s : State) (key : Nat) (root : Bool) (f : Tbl TileCopy → Tbl TileCopy) : (updCopies s key root f).dbg = s.dbg := by simp [updCopies]
@[simp] theorem updCopies_mi (s : State) (key : Nat) (root : Bool) (f : Tbl TileCopy → Tbl TileCopy) : (updCopies s key root f).mi = s.mi := by simp [updCopies]
@[simp] theorem updCopies_mem (s : State) (key : Nat) (root : Bool) (f : Tbl TileCopy → Tbl TileCopy) : (updCopies s key root f).mem = s.mem := by simp [updCopies]
@[simp] theorem updCopies_hmem (s : State) (key : Nat) (root : Bool) (f : Tbl TileCopy → Tbl TileCopy) : (updCopies s key root f).hmem = s.hmem := by simp [updCopies]
@[simp] theorem updCopies_out (s : State) (key : Nat) (root : Bool) (f : Tbl TileCopy → Tbl TileCopy) : (updCopies s key root f).out = s.out := by simp [updCopies]
@[simp] theorem updCopies_rdata (s : State) (key : Nat) (root : Bool) (f : Tbl TileCopy → Tbl TileCopy) : (updCopies s key root f).rdata = s.rdata := by simp [updCopies]
@[simp] theorem updCopies_free (s : State) (key : Nat) (root : Bool) (f : Tbl TileCopy → Tbl TileCopy) : (updCopies s key root f).free = s.free := by simp [updCopies]
@[simp] theorem updCopies_hdead (s : State) (key : Nat) (root : Bool) (f : Tbl TileCopy → Tbl TileCopy) : (updCopies s key root f).hdead = s.hdead := by simp [updCopies]
@[simp] theorem updCopies_bus (s : State) (key : Nat) (root : Bool) (f : Tbl TileCopy → Tbl TileCopy) : (updCopies s key root f).bus = s.bus := by simp [updCopies]
@[simp] theorem updCopies_pending (s : State) (key : Nat) (root : Bool) (f : Tbl TileCopy → Tbl TileCopy) : (updCopies s key root f).pending = s.pending := by simp [updCopies]

@[simp] theorem putCopy_ident (s : State) (key : Nat) (root : Bool) (t : Nat) (x : TileCopy) : (putCopy s key root t x).ident = s.ident := by simp [putCopy]
@[simp] theorem putCopy_ts (s : State) (key : Nat) (root : Bool) (t : Nat) (x : TileCopy) : (putCopy s key root t x).ts = s.ts := by simp [putCopy]
@[simp] theorem putCopy_klv (s : State) (key : Nat) (root : Bool) (t : Nat) (x : TileCopy) : (putCopy s key root t x).klv = s.klv := by simp [putCopy]
@[simp] theorem putCopy_prt (s : State) (key : Nat) (root : Bool) (t : Nat) (x : TileCopy) : (putCopy s key root t x).prt = s.prt := by simp [putCopy]
@[simp] theorem putCopy_clus (s : State) (key : Nat) (root : Bool) (t : Nat) (x : TileCopy) : (putCopy s key root t x).clus = s.clus := by simp [putCopy]
@[simp] theorem putCopy_slots (s : State) (key : Nat) (root : Bool) (t : Nat) (x : TileCopy) : (putCopy s key root t x).slots = s.slots := by simp [putCopy]
@[simp] theorem putCopy_arrs (s : State) (key : Nat) (root : Bool) (t : Nat) (x : TileCopy) : (putCopy s key root t x).arrs = s.arrs := by simp [putCopy]
@[simp] theorem putCopy_coh (s : State) (key : Nat) (root : Bool) (t : Nat) (x : TileCopy) : (putCopy s key root t x).coh = s.coh := by simp [putCopy]
@[simp] theorem putCopy_sch (s : State) (key : Nat) (root : Bool) (t : Nat) (x : TileCopy) : (putCopy s key root t x).sch = s.sch := by simp [putCopy]
@[simp] theorem putCopy_ing (s : State) (key : Nat) (root : Bool) (t : Nat) (x : TileCopy) : (putCopy s key root t x).ing = s.ing := by simp [putCopy]
@[simp] theorem putCopy_srch (s : State) (key : Nat) (root : Bool) (t : Nat) (x : TileCopy) : (putCopy s key root t x).srch = s.srch := by simp [putCopy]
@[simp] theorem putCopy_lnk (s : State) (key : Nat) (root : Bool) (t : Nat) (x : TileCopy) : (putCopy s key root t x).lnk = s.lnk := by simp [putCopy]
@[simp] theorem putCopy_ras (s : State) (key : Nat) (root : Bool) (t : Nat) (x : TileCopy) : (putCopy s key root t x).ras = s.ras := by simp [putCopy]
@[simp] theorem putCopy_ftl (s : State) (key : Nat) (root : Bool) (t : Nat) (x : TileCopy) : (putCopy s key root t x).ftl = s.ftl := by simp [putCopy]
@[simp] theorem putCopy_nvm (s : State) (key : Nat) (root : Bool) (t : Nat) (x : TileCopy) : (putCopy s key root t x).nvm = s.nvm := by simp [putCopy]
@[simp] theorem putCopy_rst (s : State) (key : Nat) (root : Bool) (t : Nat) (x : TileCopy) : (putCopy s key root t x).rst = s.rst := by simp [putCopy]
@[simp] theorem putCopy_clk (s : State) (key : Nat) (root : Bool) (t : Nat) (x : TileCopy) : (putCopy s key root t x).clk = s.clk := by simp [putCopy]
@[simp] theorem putCopy_pwr (s : State) (key : Nat) (root : Bool) (t : Nat) (x : TileCopy) : (putCopy s key root t x).pwr = s.pwr := by simp [putCopy]
@[simp] theorem putCopy_fw (s : State) (key : Nat) (root : Bool) (t : Nat) (x : TileCopy) : (putCopy s key root t x).fw = s.fw := by simp [putCopy]
@[simp] theorem putCopy_dbg (s : State) (key : Nat) (root : Bool) (t : Nat) (x : TileCopy) : (putCopy s key root t x).dbg = s.dbg := by simp [putCopy]
@[simp] theorem putCopy_mi (s : State) (key : Nat) (root : Bool) (t : Nat) (x : TileCopy) : (putCopy s key root t x).mi = s.mi := by simp [putCopy]
@[simp] theorem putCopy_mem (s : State) (key : Nat) (root : Bool) (t : Nat) (x : TileCopy) : (putCopy s key root t x).mem = s.mem := by simp [putCopy]
@[simp] theorem putCopy_hmem (s : State) (key : Nat) (root : Bool) (t : Nat) (x : TileCopy) : (putCopy s key root t x).hmem = s.hmem := by simp [putCopy]
@[simp] theorem putCopy_out (s : State) (key : Nat) (root : Bool) (t : Nat) (x : TileCopy) : (putCopy s key root t x).out = s.out := by simp [putCopy]
@[simp] theorem putCopy_rdata (s : State) (key : Nat) (root : Bool) (t : Nat) (x : TileCopy) : (putCopy s key root t x).rdata = s.rdata := by simp [putCopy]
@[simp] theorem putCopy_free (s : State) (key : Nat) (root : Bool) (t : Nat) (x : TileCopy) : (putCopy s key root t x).free = s.free := by simp [putCopy]
@[simp] theorem putCopy_hdead (s : State) (key : Nat) (root : Bool) (t : Nat) (x : TileCopy) : (putCopy s key root t x).hdead = s.hdead := by simp [putCopy]
@[simp] theorem putCopy_bus (s : State) (key : Nat) (root : Bool) (t : Nat) (x : TileCopy) : (putCopy s key root t x).bus = s.bus := by simp [putCopy]
@[simp] theorem putCopy_pending (s : State) (key : Nat) (root : Bool) (t : Nat) (x : TileCopy) : (putCopy s key root t x).pending = s.pending := by simp [putCopy]

@[simp] theorem updCopy_ident (s : State) (key : Nat) (root : Bool) (t : Nat) (f : TileCopy → TileCopy) : (updCopy s key root t f).ident = s.ident := by simp [updCopy]
@[simp] theorem updCopy_ts (s : State) (key : Nat) (root : Bool) (t : Nat) (f : TileCopy → TileCopy) : (updCopy s key root t f).ts = s.ts := by simp [updCopy]
@[simp] theorem updCopy_klv (s : State) (key : Nat) (root : Bool) (t : Nat) (f : TileCopy → TileCopy) : (updCopy s key root t f).klv = s.klv := by simp [updCopy]
@[simp] theorem updCopy_prt (s : State) (key : Nat) (root : Bool) (t : Nat) (f : TileCopy → TileCopy) : (updCopy s key root t f).prt = s.prt := by simp [updCopy]
@[simp] theorem updCopy_clus (s : State) (key : Nat) (root : Bool) (t : Nat) (f : TileCopy → TileCopy) : (updCopy s key root t f).clus = s.clus := by simp [updCopy]
@[simp] theorem updCopy_slots (s : State) (key : Nat) (root : Bool) (t : Nat) (f : TileCopy → TileCopy) : (updCopy s key root t f).slots = s.slots := by simp [updCopy]
@[simp] theorem updCopy_arrs (s : State) (key : Nat) (root : Bool) (t : Nat) (f : TileCopy → TileCopy) : (updCopy s key root t f).arrs = s.arrs := by simp [updCopy]
@[simp] theorem updCopy_coh (s : State) (key : Nat) (root : Bool) (t : Nat) (f : TileCopy → TileCopy) : (updCopy s key root t f).coh = s.coh := by simp [updCopy]
@[simp] theorem updCopy_sch (s : State) (key : Nat) (root : Bool) (t : Nat) (f : TileCopy → TileCopy) : (updCopy s key root t f).sch = s.sch := by simp [updCopy]
@[simp] theorem updCopy_ing (s : State) (key : Nat) (root : Bool) (t : Nat) (f : TileCopy → TileCopy) : (updCopy s key root t f).ing = s.ing := by simp [updCopy]
@[simp] theorem updCopy_srch (s : State) (key : Nat) (root : Bool) (t : Nat) (f : TileCopy → TileCopy) : (updCopy s key root t f).srch = s.srch := by simp [updCopy]
@[simp] theorem updCopy_lnk (s : State) (key : Nat) (root : Bool) (t : Nat) (f : TileCopy → TileCopy) : (updCopy s key root t f).lnk = s.lnk := by simp [updCopy]
@[simp] theorem updCopy_ras (s : State) (key : Nat) (root : Bool) (t : Nat) (f : TileCopy → TileCopy) : (updCopy s key root t f).ras = s.ras := by simp [updCopy]
@[simp] theorem updCopy_ftl (s : State) (key : Nat) (root : Bool) (t : Nat) (f : TileCopy → TileCopy) : (updCopy s key root t f).ftl = s.ftl := by simp [updCopy]
@[simp] theorem updCopy_nvm (s : State) (key : Nat) (root : Bool) (t : Nat) (f : TileCopy → TileCopy) : (updCopy s key root t f).nvm = s.nvm := by simp [updCopy]
@[simp] theorem updCopy_rst (s : State) (key : Nat) (root : Bool) (t : Nat) (f : TileCopy → TileCopy) : (updCopy s key root t f).rst = s.rst := by simp [updCopy]
@[simp] theorem updCopy_clk (s : State) (key : Nat) (root : Bool) (t : Nat) (f : TileCopy → TileCopy) : (updCopy s key root t f).clk = s.clk := by simp [updCopy]
@[simp] theorem updCopy_pwr (s : State) (key : Nat) (root : Bool) (t : Nat) (f : TileCopy → TileCopy) : (updCopy s key root t f).pwr = s.pwr := by simp [updCopy]
@[simp] theorem updCopy_fw (s : State) (key : Nat) (root : Bool) (t : Nat) (f : TileCopy → TileCopy) : (updCopy s key root t f).fw = s.fw := by simp [updCopy]
@[simp] theorem updCopy_dbg (s : State) (key : Nat) (root : Bool) (t : Nat) (f : TileCopy → TileCopy) : (updCopy s key root t f).dbg = s.dbg := by simp [updCopy]
@[simp] theorem updCopy_mi (s : State) (key : Nat) (root : Bool) (t : Nat) (f : TileCopy → TileCopy) : (updCopy s key root t f).mi = s.mi := by simp [updCopy]
@[simp] theorem updCopy_mem (s : State) (key : Nat) (root : Bool) (t : Nat) (f : TileCopy → TileCopy) : (updCopy s key root t f).mem = s.mem := by simp [updCopy]
@[simp] theorem updCopy_hmem (s : State) (key : Nat) (root : Bool) (t : Nat) (f : TileCopy → TileCopy) : (updCopy s key root t f).hmem = s.hmem := by simp [updCopy]
@[simp] theorem updCopy_out (s : State) (key : Nat) (root : Bool) (t : Nat) (f : TileCopy → TileCopy) : (updCopy s key root t f).out = s.out := by simp [updCopy]
@[simp] theorem updCopy_rdata (s : State) (key : Nat) (root : Bool) (t : Nat) (f : TileCopy → TileCopy) : (updCopy s key root t f).rdata = s.rdata := by simp [updCopy]
@[simp] theorem updCopy_free (s : State) (key : Nat) (root : Bool) (t : Nat) (f : TileCopy → TileCopy) : (updCopy s key root t f).free = s.free := by simp [updCopy]
@[simp] theorem updCopy_hdead (s : State) (key : Nat) (root : Bool) (t : Nat) (f : TileCopy → TileCopy) : (updCopy s key root t f).hdead = s.hdead := by simp [updCopy]
@[simp] theorem updCopy_bus (s : State) (key : Nat) (root : Bool) (t : Nat) (f : TileCopy → TileCopy) : (updCopy s key root t f).bus = s.bus := by simp [updCopy]
@[simp] theorem updCopy_pending (s : State) (key : Nat) (root : Bool) (t : Nat) (f : TileCopy → TileCopy) : (updCopy s key root t f).pending = s.pending := by simp [updCopy]

@[simp] theorem hostAcc_ident (s : State) (fn pass : Nat) (write : Bool) (addr len : Nat) : (hostAcc s fn pass write addr len).ident = s.ident := rfl
@[simp] theorem hostAcc_ts (s : State) (fn pass : Nat) (write : Bool) (addr len : Nat) : (hostAcc s fn pass write addr len).ts = s.ts := rfl
@[simp] theorem hostAcc_klv (s : State) (fn pass : Nat) (write : Bool) (addr len : Nat) : (hostAcc s fn pass write addr len).klv = s.klv := rfl
@[simp] theorem hostAcc_prt (s : State) (fn pass : Nat) (write : Bool) (addr len : Nat) : (hostAcc s fn pass write addr len).prt = s.prt := rfl
@[simp] theorem hostAcc_clus (s : State) (fn pass : Nat) (write : Bool) (addr len : Nat) : (hostAcc s fn pass write addr len).clus = s.clus := rfl
@[simp] theorem hostAcc_slots (s : State) (fn pass : Nat) (write : Bool) (addr len : Nat) : (hostAcc s fn pass write addr len).slots = s.slots := rfl
@[simp] theorem hostAcc_arrs (s : State) (fn pass : Nat) (write : Bool) (addr len : Nat) : (hostAcc s fn pass write addr len).arrs = s.arrs := rfl
@[simp] theorem hostAcc_coh (s : State) (fn pass : Nat) (write : Bool) (addr len : Nat) : (hostAcc s fn pass write addr len).coh = s.coh := rfl
@[simp] theorem hostAcc_sch (s : State) (fn pass : Nat) (write : Bool) (addr len : Nat) : (hostAcc s fn pass write addr len).sch = s.sch := rfl
@[simp] theorem hostAcc_tie (s : State) (fn pass : Nat) (write : Bool) (addr len : Nat) : (hostAcc s fn pass write addr len).tie = s.tie := rfl
@[simp] theorem hostAcc_ing (s : State) (fn pass : Nat) (write : Bool) (addr len : Nat) : (hostAcc s fn pass write addr len).ing = s.ing := rfl
@[simp] theorem hostAcc_srch (s : State) (fn pass : Nat) (write : Bool) (addr len : Nat) : (hostAcc s fn pass write addr len).srch = s.srch := rfl
@[simp] theorem hostAcc_lnk (s : State) (fn pass : Nat) (write : Bool) (addr len : Nat) : (hostAcc s fn pass write addr len).lnk = s.lnk := rfl
@[simp] theorem hostAcc_ras (s : State) (fn pass : Nat) (write : Bool) (addr len : Nat) : (hostAcc s fn pass write addr len).ras = s.ras := rfl
@[simp] theorem hostAcc_ftl (s : State) (fn pass : Nat) (write : Bool) (addr len : Nat) : (hostAcc s fn pass write addr len).ftl = s.ftl := rfl
@[simp] theorem hostAcc_nvm (s : State) (fn pass : Nat) (write : Bool) (addr len : Nat) : (hostAcc s fn pass write addr len).nvm = s.nvm := rfl
@[simp] theorem hostAcc_rst (s : State) (fn pass : Nat) (write : Bool) (addr len : Nat) : (hostAcc s fn pass write addr len).rst = s.rst := rfl
@[simp] theorem hostAcc_clk (s : State) (fn pass : Nat) (write : Bool) (addr len : Nat) : (hostAcc s fn pass write addr len).clk = s.clk := rfl
@[simp] theorem hostAcc_pwr (s : State) (fn pass : Nat) (write : Bool) (addr len : Nat) : (hostAcc s fn pass write addr len).pwr = s.pwr := rfl
@[simp] theorem hostAcc_fw (s : State) (fn pass : Nat) (write : Bool) (addr len : Nat) : (hostAcc s fn pass write addr len).fw = s.fw := rfl
@[simp] theorem hostAcc_dbg (s : State) (fn pass : Nat) (write : Bool) (addr len : Nat) : (hostAcc s fn pass write addr len).dbg = s.dbg := rfl
@[simp] theorem hostAcc_mi (s : State) (fn pass : Nat) (write : Bool) (addr len : Nat) : (hostAcc s fn pass write addr len).mi = s.mi := rfl
@[simp] theorem hostAcc_mem (s : State) (fn pass : Nat) (write : Bool) (addr len : Nat) : (hostAcc s fn pass write addr len).mem = s.mem := rfl
@[simp] theorem hostAcc_hmem (s : State) (fn pass : Nat) (write : Bool) (addr len : Nat) : (hostAcc s fn pass write addr len).hmem = s.hmem := rfl
@[simp] theorem hostAcc_hdead (s : State) (fn pass : Nat) (write : Bool) (addr len : Nat) : (hostAcc s fn pass write addr len).hdead = s.hdead := rfl
@[simp] theorem hostAcc_out (s : State) (fn pass : Nat) (write : Bool) (addr len : Nat) : (hostAcc s fn pass write addr len).out = s.out := rfl
@[simp] theorem hostAcc_rdata (s : State) (fn pass : Nat) (write : Bool) (addr len : Nat) : (hostAcc s fn pass write addr len).rdata = s.rdata := rfl
@[simp] theorem hostAcc_free (s : State) (fn pass : Nat) (write : Bool) (addr len : Nat) : (hostAcc s fn pass write addr len).free = s.free := rfl
@[simp] theorem hostAcc_pending (s : State) (fn pass : Nat) (write : Bool) (addr len : Nat) : (hostAcc s fn pass write addr len).pending = s.pending := rfl

@[simp] theorem mbAcc_ident (s : State) (mb : Nat) (write : Bool) (addr len : Nat) : (mbAcc s mb write addr len).ident = s.ident := rfl
@[simp] theorem mbAcc_ts (s : State) (mb : Nat) (write : Bool) (addr len : Nat) : (mbAcc s mb write addr len).ts = s.ts := rfl
@[simp] theorem mbAcc_klv (s : State) (mb : Nat) (write : Bool) (addr len : Nat) : (mbAcc s mb write addr len).klv = s.klv := rfl
@[simp] theorem mbAcc_prt (s : State) (mb : Nat) (write : Bool) (addr len : Nat) : (mbAcc s mb write addr len).prt = s.prt := rfl
@[simp] theorem mbAcc_clus (s : State) (mb : Nat) (write : Bool) (addr len : Nat) : (mbAcc s mb write addr len).clus = s.clus := rfl
@[simp] theorem mbAcc_slots (s : State) (mb : Nat) (write : Bool) (addr len : Nat) : (mbAcc s mb write addr len).slots = s.slots := rfl
@[simp] theorem mbAcc_arrs (s : State) (mb : Nat) (write : Bool) (addr len : Nat) : (mbAcc s mb write addr len).arrs = s.arrs := rfl
@[simp] theorem mbAcc_coh (s : State) (mb : Nat) (write : Bool) (addr len : Nat) : (mbAcc s mb write addr len).coh = s.coh := rfl
@[simp] theorem mbAcc_sch (s : State) (mb : Nat) (write : Bool) (addr len : Nat) : (mbAcc s mb write addr len).sch = s.sch := rfl
@[simp] theorem mbAcc_tie (s : State) (mb : Nat) (write : Bool) (addr len : Nat) : (mbAcc s mb write addr len).tie = s.tie := rfl
@[simp] theorem mbAcc_ing (s : State) (mb : Nat) (write : Bool) (addr len : Nat) : (mbAcc s mb write addr len).ing = s.ing := rfl
@[simp] theorem mbAcc_srch (s : State) (mb : Nat) (write : Bool) (addr len : Nat) : (mbAcc s mb write addr len).srch = s.srch := rfl
@[simp] theorem mbAcc_lnk (s : State) (mb : Nat) (write : Bool) (addr len : Nat) : (mbAcc s mb write addr len).lnk = s.lnk := rfl
@[simp] theorem mbAcc_ras (s : State) (mb : Nat) (write : Bool) (addr len : Nat) : (mbAcc s mb write addr len).ras = s.ras := rfl
@[simp] theorem mbAcc_ftl (s : State) (mb : Nat) (write : Bool) (addr len : Nat) : (mbAcc s mb write addr len).ftl = s.ftl := rfl
@[simp] theorem mbAcc_nvm (s : State) (mb : Nat) (write : Bool) (addr len : Nat) : (mbAcc s mb write addr len).nvm = s.nvm := rfl
@[simp] theorem mbAcc_rst (s : State) (mb : Nat) (write : Bool) (addr len : Nat) : (mbAcc s mb write addr len).rst = s.rst := rfl
@[simp] theorem mbAcc_clk (s : State) (mb : Nat) (write : Bool) (addr len : Nat) : (mbAcc s mb write addr len).clk = s.clk := rfl
@[simp] theorem mbAcc_pwr (s : State) (mb : Nat) (write : Bool) (addr len : Nat) : (mbAcc s mb write addr len).pwr = s.pwr := rfl
@[simp] theorem mbAcc_fw (s : State) (mb : Nat) (write : Bool) (addr len : Nat) : (mbAcc s mb write addr len).fw = s.fw := rfl
@[simp] theorem mbAcc_dbg (s : State) (mb : Nat) (write : Bool) (addr len : Nat) : (mbAcc s mb write addr len).dbg = s.dbg := rfl
@[simp] theorem mbAcc_mi (s : State) (mb : Nat) (write : Bool) (addr len : Nat) : (mbAcc s mb write addr len).mi = s.mi := rfl
@[simp] theorem mbAcc_mem (s : State) (mb : Nat) (write : Bool) (addr len : Nat) : (mbAcc s mb write addr len).mem = s.mem := rfl
@[simp] theorem mbAcc_hmem (s : State) (mb : Nat) (write : Bool) (addr len : Nat) : (mbAcc s mb write addr len).hmem = s.hmem := rfl
@[simp] theorem mbAcc_hdead (s : State) (mb : Nat) (write : Bool) (addr len : Nat) : (mbAcc s mb write addr len).hdead = s.hdead := rfl
@[simp] theorem mbAcc_out (s : State) (mb : Nat) (write : Bool) (addr len : Nat) : (mbAcc s mb write addr len).out = s.out := rfl
@[simp] theorem mbAcc_rdata (s : State) (mb : Nat) (write : Bool) (addr len : Nat) : (mbAcc s mb write addr len).rdata = s.rdata := rfl
@[simp] theorem mbAcc_free (s : State) (mb : Nat) (write : Bool) (addr len : Nat) : (mbAcc s mb write addr len).free = s.free := rfl
@[simp] theorem mbAcc_pending (s : State) (mb : Nat) (write : Bool) (addr len : Nat) : (mbAcc s mb write addr len).pending = s.pending := rfl

@[simp] theorem underCfg_ident (s : State) (c : Cfg) : (underCfg s c).ident = s.ident := rfl
@[simp] theorem underCfg_ts (s : State) (c : Cfg) : (underCfg s c).ts = s.ts := rfl
@[simp] theorem underCfg_klv (s : State) (c : Cfg) : (underCfg s c).klv = s.klv := rfl
@[simp] theorem underCfg_clus (s : State) (c : Cfg) : (underCfg s c).clus = s.clus := rfl
@[simp] theorem underCfg_slots (s : State) (c : Cfg) : (underCfg s c).slots = s.slots := rfl
@[simp] theorem underCfg_arrs (s : State) (c : Cfg) : (underCfg s c).arrs = s.arrs := rfl
@[simp] theorem underCfg_coh (s : State) (c : Cfg) : (underCfg s c).coh = s.coh := rfl
@[simp] theorem underCfg_sch (s : State) (c : Cfg) : (underCfg s c).sch = s.sch := rfl
@[simp] theorem underCfg_tie (s : State) (c : Cfg) : (underCfg s c).tie = s.tie := rfl
@[simp] theorem underCfg_ing (s : State) (c : Cfg) : (underCfg s c).ing = s.ing := rfl
@[simp] theorem underCfg_srch (s : State) (c : Cfg) : (underCfg s c).srch = s.srch := rfl
@[simp] theorem underCfg_lnk (s : State) (c : Cfg) : (underCfg s c).lnk = s.lnk := rfl
@[simp] theorem underCfg_ras (s : State) (c : Cfg) : (underCfg s c).ras = s.ras := rfl
@[simp] theorem underCfg_ftl (s : State) (c : Cfg) : (underCfg s c).ftl = s.ftl := rfl
@[simp] theorem underCfg_nvm (s : State) (c : Cfg) : (underCfg s c).nvm = s.nvm := rfl
@[simp] theorem underCfg_rst (s : State) (c : Cfg) : (underCfg s c).rst = s.rst := rfl
@[simp] theorem underCfg_clk (s : State) (c : Cfg) : (underCfg s c).clk = s.clk := rfl
@[simp] theorem underCfg_pwr (s : State) (c : Cfg) : (underCfg s c).pwr = s.pwr := rfl
@[simp] theorem underCfg_fw (s : State) (c : Cfg) : (underCfg s c).fw = s.fw := rfl
@[simp] theorem underCfg_dbg (s : State) (c : Cfg) : (underCfg s c).dbg = s.dbg := rfl
@[simp] theorem underCfg_mi (s : State) (c : Cfg) : (underCfg s c).mi = s.mi := rfl
@[simp] theorem underCfg_mem (s : State) (c : Cfg) : (underCfg s c).mem = s.mem := rfl
@[simp] theorem underCfg_hmem (s : State) (c : Cfg) : (underCfg s c).hmem = s.hmem := rfl
@[simp] theorem underCfg_hdead (s : State) (c : Cfg) : (underCfg s c).hdead = s.hdead := rfl
@[simp] theorem underCfg_bus (s : State) (c : Cfg) : (underCfg s c).bus = s.bus := rfl
@[simp] theorem underCfg_out (s : State) (c : Cfg) : (underCfg s c).out = s.out := rfl
@[simp] theorem underCfg_rdata (s : State) (c : Cfg) : (underCfg s c).rdata = s.rdata := rfl
@[simp] theorem underCfg_free (s : State) (c : Cfg) : (underCfg s c).free = s.free := rfl
@[simp] theorem underCfg_pending (s : State) (c : Cfg) : (underCfg s c).pending = s.pending := rfl

/-! ### The field an update names -/

@[simp] theorem reach_ts (s : State) (due : Nat) : (reach s due).ts = if now s < due then BitVec.ofNat 64 due else s.ts := rfl
@[simp] theorem drawn_free (s : State) : (drawn s).free = s.free + 1 := rfl
@[simp] theorem emit_out (s : State) (o : Out) : (emit s o).out = s.out ++ [o] := rfl
@[simp] theorem updPst_prt (s : State) (p : Nat) (f : PartState → PartState) :
    (updPst s p f).prt = { s.prt with parts := tmod partStateReset s.prt.parts p f } := rfl
@[simp] theorem updMb_klv (s : State) (n : Nat) (f : Mailbox → Mailbox) :
    (updMb s n f).klv = { s.klv with mbs := tmod mailboxReset s.klv.mbs n f } := rfl
@[simp] theorem updDir_coh (s : State) (line : Nat) (f : Dir → Dir) :
    (updDir s line f).coh = { s.coh with dir := tmod dirReset s.coh.dir line f } := rfl
@[simp] theorem updClu_clus (s : State) (c : Nat) (f : Cluster → Cluster) : (updClu s c f).clus = tmod clusterReset s.clus c f := rfl
@[simp] theorem updSlot_slots (s : State) (c i : Nat) (f : Slot → Slot) :
    (updSlot s c i f).slots = tmod slotReset s.slots (c * 4 + i) f := rfl
@[simp] theorem updArr_arrs (s : State) (c k : Nat) (f : Arr → Arr) : (updArr s c k f).arrs = tmod arrReset s.arrs (c * 4 + k) f := rfl
@[simp] theorem storeWrite_mem (s : State) (a : Nat) (bs : List Byte) : (storeWrite s a bs).mem = mwrite s.mem a bs := rfl
@[simp] theorem storeMove_mem (s : State) (a b n : Nat) : (storeMove s a b n).mem = mcopy s.mem a b n := rfl
@[simp] theorem clearRange_mem (s : State) (a n : Nat) : (clearRange s a n).mem = mclear s.mem a n := rfl
@[simp] theorem updTiePart_tie (s : State) (p : Nat) (f : TiePart → TiePart) :
    (updTiePart s p f).tie = { s.tie with parts := tmod tiePartReset s.tie.parts p f } := rfl
@[simp] theorem updSchPart_sch (s : State) (p : Nat) (f : SchPart → SchPart) :
    (updSchPart s p f).sch = { s.sch with parts := tmod schPartReset s.sch.parts p f } := rfl
@[simp] theorem nextOrder_sch (s : State) : (nextOrder s).sch = { s.sch with order := s.sch.order + 1 } := rfl
@[simp] theorem updRst_rst (s : State) (f : Rst → Rst) : (updRst s f).rst = f s.rst := rfl
@[simp] theorem updDbg_dbg (s : State) (f : Dbg → Dbg) : (updDbg s f).dbg = f s.dbg := rfl
@[simp] theorem updAst_srch (s : State) (p : Nat) (f : AstPart → AstPart) :
    (updAst s p f).srch = { s.srch with parts := tmod astPartReset s.srch.parts p f } := rfl
@[simp] theorem updLink_lnk (s : State) (l : Nat) (f : Link → Link) :
    (updLink s l f).lnk = { s.lnk with links := tmod linkReset s.lnk.links l f } := rfl
@[simp] theorem updTrunk_lnk (s : State) (q : Nat) (f : Trunk → Trunk) :
    (updTrunk s q f).lnk = { s.lnk with trunks := tmod trunkReset s.lnk.trunks q f } := rfl
@[simp] theorem updConn_lnk (s : State) (q p : Nat) (f : Conn → Conn) :
    (updConn s q p f).lnk = { s.lnk with conns := tmod connReset s.lnk.conns (q * 16 + p) f } := rfl
@[simp] theorem updCtrl_nvm (s : State) (c : Nat) (g : Ctrl → Ctrl) :
    (updCtrl s c g).nvm = { s.nvm with ctrls := tmod ctrlReset s.nvm.ctrls c g } := rfl
@[simp] theorem hostAcc_bus (s : State) (fn pass : Nat) (write : Bool) (addr len : Nat) :
    (hostAcc s fn pass write addr len).bus = s.bus ++ [(⟨fn, pass, write, addr, len⟩ : HostAccess)] := rfl
@[simp] theorem underCfg_prt (s : State) (c : Cfg) : (underCfg s c).prt = { s.prt with cfg := c } := rfl
@[simp] theorem updPwr_pwr (s : State) (f : Pwr → Pwr) : (updPwr s f).pwr = f s.pwr := rfl
@[simp] theorem updFw_fw (s : State) (f : Fw → Fw) : (updFw s f).fw = f s.fw := rfl
@[simp] theorem updRas_ras (s : State) (f : Ras → Ras) : (updRas s f).ras = f s.ras := rfl
@[simp] theorem updPrt_prt (s : State) (f : Prt → Prt) : (updPrt s f).prt = f s.prt := rfl
@[simp] theorem updGrp_ftl (s : State) (g : Nat) (f : Group → Group) :
    (updGrp s g f).ftl = { s.ftl with groups := tmod groupReset s.ftl.groups g f } := rfl
@[simp] theorem updIng_ing (s : State) (p : Nat) (f : IngPart → IngPart) :
    (updIng s p f).ing = { s.ing with parts := tmod ingPartReset s.ing.parts p f } := rfl

end Sys2Proof.Machine
end

