-- ==== Sys2Proof/Laws/Tables.lean ====
section
/-! SUPPORT. Laws of tables and memories: reading what was written, leaving the rest alone, and keeping the canonical form. -/

namespace Sys2Proof.Machine

/-! ### Tables -/

section
variable {α : Type}

@[simp] theorem tget_tput_same (d : α) (t : Tbl α) (a : Nat) (v : α) : tget d (tput t a v) a = v := by
  induction t with
  | nil => simp [tput, tget]
  | cons x t ih =>
    obtain ⟨k, y⟩ := x
    unfold tput
    split
    · simp [tget]
    · split
      · simp [tget]
      · simp only [tget]
        rw [if_neg (by assumption), if_neg (by assumption), ih]

theorem tget_tput_other (d : α) (t : Tbl α) (a b : Nat) (v : α) (h : b ≠ a) : tget d (tput t a v) b = tget d t b := by
  induction t with
  | nil => simp [tput, tget, h]
  | cons x t ih =>
    obtain ⟨k, y⟩ := x
    unfold tput
    split
    · simp only [tget, if_neg h]
      by_cases h1 : b < a
      · rw [if_pos h1, if_pos (by omega)]
      · rw [if_neg h1]
    · split
      · subst_vars
        simp only [tget, if_neg h]
      · simp only [tget, ih]

@[simp] theorem tget_tmod_same (d : α) (t : Tbl α) (a : Nat) (f : α → α) : tget d (tmod d t a f) a = f (tget d t a) := by simp [tmod]

theorem tget_tmod_other (d : α) (t : Tbl α) (a b : Nat) (f : α → α) (h : b ≠ a) : tget d (tmod d t a f) b = tget d t b := by
  simp [tmod, tget_tput_other _ _ _ _ _ h]

@[simp] theorem tfind_tput_same (t : Tbl α) (a : Nat) (v : α) : tfind? (tput t a v) a = some v := by
  induction t with
  | nil => simp [tput, tfind?]
  | cons x t ih =>
    obtain ⟨k, y⟩ := x
    unfold tput
    split
    · simp [tfind?]
    · split
      · simp [tfind?]
      · simp only [tfind?]
        rw [if_neg (by assumption), if_neg (by assumption), ih]

theorem tfind_tput_other (t : Tbl α) (a b : Nat) (v : α) (h : b ≠ a) : tfind? (tput t a v) b = tfind? t b := by
  induction t with
  | nil => simp [tput, tfind?, h]
  | cons x t ih =>
    obtain ⟨k, y⟩ := x
    unfold tput
    split
    · simp only [tfind?, if_neg h]
      by_cases h1 : b < a
      · rw [if_pos h1, if_pos (by omega)]
      · rw [if_neg h1]
    · split
      · subst_vars
        simp only [tfind?, if_neg h]
      · simp only [tfind?, ih]

end

/-! ### Memories -/

theorem memWfFrom_mono {lo lo' : Nat} (h : lo' ≤ lo) {m : Memory} (w : memWfFrom lo m = true) : memWfFrom lo' m = true := by
  cases m with
  | nil => rfl
  | cons x t =>
    obtain ⟨k, b⟩ := x
    simp only [memWfFrom, Bool.and_eq_true, decide_eq_true_eq] at w ⊢
    exact ⟨⟨by omega, w.1.2⟩, w.2⟩

/-- Below the first address it may list, a memory reads zero. -/
theorem mget_below {lo : Nat} {m : Memory} (w : memWfFrom lo m = true) {a : Nat} (h : a < lo) : mget m a = 0 := by
  cases m with
  | nil => rfl
  | cons x t =>
    obtain ⟨k, b⟩ := x
    simp only [memWfFrom, Bool.and_eq_true, decide_eq_true_eq] at w
    simp only [mget]
    rw [if_pos (by omega)]

theorem mput_wfFrom {lo : Nat} {m : Memory} (w : memWfFrom lo m = true) (a : Nat) (h : lo ≤ a) (b : Byte) :
    memWfFrom lo (mput m a b) = true := by
  induction m generalizing lo with
  | nil =>
    unfold mput
    split
    · rfl
    · simp_all [memWfFrom]
  | cons x t ih =>
    obtain ⟨k, c⟩ := x
    simp only [memWfFrom, Bool.and_eq_true, decide_eq_true_eq] at w
    obtain ⟨⟨w1, w2⟩, w3⟩ := w
    unfold mput
    by_cases h1 : a < k
    · rw [if_pos h1]
      split
      · simp [memWfFrom, w1, w3]; simpa using w2
      · simp only [memWfFrom, Bool.and_eq_true, decide_eq_true_eq]
        exact ⟨⟨h, by simpa using ‹¬b = 0›⟩, ⟨by omega, w2⟩, w3⟩
    · rw [if_neg h1]
      by_cases h2 : a = k
      · rw [if_pos h2]
        split
        · exact memWfFrom_mono (by omega) w3
        · simp only [memWfFrom, Bool.and_eq_true, decide_eq_true_eq]
          exact ⟨⟨h, by simpa using ‹¬b = 0›⟩, h2 ▸ w3⟩
      · rw [if_neg h2]
        simp only [memWfFrom, Bool.and_eq_true, decide_eq_true_eq]
        exact ⟨⟨w1, w2⟩, ih w3 (by omega)⟩

theorem mget_mputFrom {lo : Nat} {m : Memory} (w : memWfFrom lo m = true) (a c : Nat) (b : Byte) :
    mget (mput m a b) c = if c = a then b else mget m c := by
  induction m generalizing lo with
  | nil =>
    unfold mput
    by_cases hb : b = 0
    · simp [hb, mget]
    · simp only [if_neg hb, mget]
      by_cases h1 : c = a
      · simp [h1]
      · simp [h1]
  | cons x t ih =>
    obtain ⟨k, y⟩ := x
    simp only [memWfFrom, Bool.and_eq_true, decide_eq_true_eq] at w
    obtain ⟨⟨w1, w2⟩, w3⟩ := w
    unfold mput
    by_cases h1 : a < k
    · rw [if_pos h1]
      by_cases hb : b = 0
      · rw [if_pos hb]
        by_cases h2 : c = a
        · subst h2; rw [if_pos rfl]; simp [mget, h1, hb]
        · rw [if_neg h2]
      · rw [if_neg hb]
        simp only [mget]
        by_cases h2 : c = a
        · subst h2; simp
        · simp only [if_neg h2]
          by_cases h3 : c < a
          · rw [if_pos h3, if_pos (by omega)]
          · rw [if_neg h3]
    · rw [if_neg h1]
      by_cases h2 : a = k
      · subst h2
        rw [if_pos rfl]
        by_cases hb : b = 0
        · rw [if_pos hb]
          by_cases h3 : c = a
          · subst h3; rw [if_pos rfl, hb]; exact mget_below w3 (by omega)
          · rw [if_neg h3]
            simp only [mget, if_neg h3]
            by_cases h4 : c < a
            · rw [if_pos h4]; exact mget_below w3 (by omega)
            · rw [if_neg h4]
        · rw [if_neg hb]
          by_cases h3 : c = a
          · subst h3; simp [mget]
          · simp only [mget, if_neg h3]
      · rw [if_neg h2]
        simp only [mget, ih w3]
        by_cases h3 : c = a
        · subst h3; rw [if_neg h1, if_neg h2]; simp
        · simp only [if_neg h3]

/-- A byte written keeps the canonical form. -/
theorem mput_wf {m : Memory} (w : Memory.wf m = true) (a : Nat) (b : Byte) : Memory.wf (mput m a b) = true :=
  mput_wfFrom w a (Nat.zero_le a) b

/-- A byte read after a byte was written. -/
theorem mget_mput {m : Memory} (w : Memory.wf m = true) (a c : Nat) (b : Byte) :
    mget (mput m a b) c = if c = a then b else mget m c := mget_mputFrom w a c b

theorem mwrite_wf {m : Memory} (w : Memory.wf m = true) (a : Nat) (bs : List Byte) : Memory.wf (mwrite m a bs) = true := by
  induction bs generalizing m a with
  | nil => exact w
  | cons b t ih => exact ih (mput_wf w a b) (a + 1)

/-- A byte read after a run of bytes was written: the byte of the run, or what was there. -/
theorem mget_mwrite {m : Memory} (w : Memory.wf m = true) (a c : Nat) (bs : List Byte) :
    mget (mwrite m a bs) c = if a ≤ c ∧ c < a + bs.length then bs.getD (c - a) 0 else mget m c := by
  induction bs generalizing m a with
  | nil => simp only [mwrite, List.length_nil, Nat.add_zero]; rw [if_neg (by omega)]
  | cons b t ih =>
    simp only [mwrite, List.length_cons]
    rw [ih (mput_wf w a b), mget_mput w]
    by_cases h1 : c = a
    · subst h1
      rw [if_neg (by omega), if_pos rfl, if_pos (by omega)]
      simp
    · rw [if_neg h1]
      by_cases h2 : a + 1 ≤ c ∧ c < a + 1 + t.length
      · rw [if_pos h2, if_pos (by omega)]
        obtain ⟨k, hk⟩ : ∃ k, c - a = k + 1 := ⟨c - a - 1, by omega⟩
        rw [hk, show c - (a + 1) = k by omega]
        rfl
      · rw [if_neg h2, if_neg (by omega)]

@[simp] theorem mread_length (m : Memory) (a n : Nat) : (mread m a n).length = n := by
  induction n generalizing a with
  | zero => rfl
  | succ n ih => simp [mread, ih]

theorem mread_getD (m : Memory) (a n i : Nat) (h : i < n) : (mread m a n).getD i 0 = mget m (a + i) := by
  induction n generalizing a i with
  | zero => omega
  | succ n ih =>
    cases i with
    | zero => rfl
    | succ i => simp only [mread, List.getD_cons_succ]; rw [ih (a + 1) i (by omega)]; congr 1; omega

theorem mread_congr {m m' : Memory} {a n : Nat} (h : ∀ x, a ≤ x → x < a + n → mget m x = mget m' x) : mread m a n = mread m' a n := by
  induction n generalizing a with
  | zero => rfl
  | succ n ih =>
    simp only [mread]
    rw [h a (by omega) (by omega), ih fun x h1 h2 => h x (by omega) (by omega)]

/-- A run read where it was written. -/
theorem mread_mwrite {m : Memory} (w : Memory.wf m = true) (a : Nat) (bs : List Byte) :
    mread (mwrite m a bs) a bs.length = bs := by
  induction bs generalizing m a with
  | nil => rfl
  | cons b t ih =>
    simp only [mwrite, List.length_cons, mread]
    rw [ih (mput_wf w a b), mget_mwrite (mput_wf w a b), if_neg (by omega), mget_mput w, if_pos rfl]

/-- A run read apart from what was written. -/
theorem mread_mwrite_apart {m : Memory} (w : Memory.wf m = true) (a b n : Nat) (bs : List Byte)
    (h : b + n ≤ a ∨ a + bs.length ≤ b) : mread (mwrite m a bs) b n = mread m b n := by
  refine mread_congr fun x h1 h2 => ?_
  rw [mget_mwrite w, if_neg (by omega)]

theorem mclear_wfFrom {lo : Nat} {m : Memory} (w : memWfFrom lo m = true) (a n : Nat) : memWfFrom lo (mclear m a n) = true := by
  induction m generalizing lo with
  | nil => rfl
  | cons x t ih =>
    obtain ⟨k, c⟩ := x
    simp only [memWfFrom, Bool.and_eq_true, decide_eq_true_eq] at w
    unfold mclear
    rw [List.filter_cons]
    split
    · simp only [memWfFrom, Bool.and_eq_true, decide_eq_true_eq]
      exact ⟨w.1, ih w.2⟩
    · exact memWfFrom_mono (by omega) (ih w.2)

theorem mclear_wf {m : Memory} (w : Memory.wf m = true) (a n : Nat) : Memory.wf (mclear m a n) = true := mclear_wfFrom w a n

theorem mget_mclearFrom {lo : Nat} {m : Memory} (w : memWfFrom lo m = true) (a n c : Nat) :
    mget (mclear m a n) c = if a ≤ c ∧ c < a + n then 0 else mget m c := by
  induction m generalizing lo with
  | nil => simp [mclear, mget]
  | cons x t ih =>
    obtain ⟨k, y⟩ := x
    simp only [memWfFrom, Bool.and_eq_true, decide_eq_true_eq] at w
    have ih := ih w.2
    unfold mclear at ih ⊢
    rw [List.filter_cons]
    split
    · rename_i h
      simp only [decide_eq_true_eq, Bool.or_eq_true] at h
      simp only [mget, ih]
      by_cases h1 : c < k
      · simp [h1]
      · by_cases h2 : c = k
        · subst h2; simp only [if_neg h1]; simp; omega
        · simp only [if_neg h1, if_neg h2]
    · rename_i h
      simp only [decide_eq_true_eq, Bool.or_eq_true] at h
      rw [ih]
      by_cases h3 : a ≤ c ∧ c < a + n
      · simp only [if_pos h3]
      · simp only [if_neg h3, mget]
        by_cases h1 : c < k
        · rw [if_pos h1]; exact mget_below w.2 (by omega)
        · rw [if_neg h1, if_neg (by omega)]

/-- A byte read after a range was cleared. -/
theorem mget_mclear {m : Memory} (w : Memory.wf m = true) (a n c : Nat) :
    mget (mclear m a n) c = if a ≤ c ∧ c < a + n then 0 else mget m c := mget_mclearFrom w a n c

theorem foldl_mput_wf (l : List Host.Cell) (f : Nat → Nat) {m : Memory} (w : Memory.wf m = true) :
    Memory.wf (l.foldl (fun m c => mput m (f c.1) c.2) m) = true := by
  induction l generalizing m with
  | nil => exact w
  | cons c t ih => exact ih (mput_wf w _ _)

theorem mcopy_wf {m : Memory} (w : Memory.wf m = true) (src dst n : Nat) : Memory.wf (mcopy m src dst n) = true :=
  foldl_mput_wf _ (fun a => a - src + dst) (mclear_wf w dst n)

theorem foldl_mput_get (l : List Host.Cell) (f : Nat → Nat) (c : Nat) (h : ∀ x ∈ l, f x.1 ≠ c) {m : Memory}
    (w : Memory.wf m = true) : mget (l.foldl (fun m c => mput m (f c.1) c.2) m) c = mget m c := by
  induction l generalizing m with
  | nil => rfl
  | cons y t ih =>
    rw [List.foldl_cons, ih (fun x hx => h x (List.mem_cons_of_mem _ hx)) (mput_wf w _ _), mget_mput w,
      if_neg (fun e => h y (List.mem_cons_self ..) e.symm)]

/-- A byte outside the destination of a copy is as before. -/
theorem mget_mcopy_outside {m : Memory} (w : Memory.wf m = true) (src dst n c : Nat) (h : ¬(dst ≤ c ∧ c < dst + n)) :
    mget (mcopy m src dst n) c = mget m c := by
  unfold mcopy
  rw [foldl_mput_get _ (fun a => a - src + dst) c _ (mclear_wf w dst n), mget_mclear w, if_neg h]
  intro x hx e
  simp only [List.mem_filter, Bool.and_eq_true, decide_eq_true_eq] at hx
  omega

theorem writePieces_wf (l : List (Nat × Nat)) (bs : List Byte) {m : Memory} (w : Memory.wf m = true) :
    Memory.wf (writePieces m l bs) = true := by
  induction l generalizing m bs with
  | nil => exact w
  | cons x t ih => exact ih _ (mwrite_wf w _ _)

theorem scatter_wf (l : List Region) (bs : List Byte) {m : Memory} (w : Memory.wf m = true) : Memory.wf (scatter m l bs) = true := by
  induction l generalizing m bs with
  | nil => exact w
  | cons x t ih =>
    unfold scatter
    split
    · exact ih _ (mwrite_wf w _ _)
    · exact ih _ w

theorem drop_mread (m : Memory) (a n o : Nat) : (mread m a n).drop o = mread m (a + o) (n - o) := by
  induction o generalizing a n with
  | zero => simp
  | succ o ih =>
    cases n with
    | zero => simp [mread]
    | succ n => simp only [mread, List.drop_succ_cons, ih]; congr 1 <;> omega

theorem take_mread (m : Memory) (a n k : Nat) : (mread m a n).take k = mread m a (min k n) := by
  induction n generalizing a k with
  | zero => simp [mread]
  | succ n ih =>
    cases k with
    | zero => simp [mread]
    | succ k =>
      have : min (k + 1) (n + 1) = min k n + 1 := by omega
      rw [this]; simp [mread, ih]

theorem leNat_mread_zero (m : Memory) (a k : Nat) (h : ∀ x, a ≤ x → mget m x = 0) : leNat (mread m a k) = 0 := by
  induction k generalizing a with
  | zero => rfl
  | succ k ih => simp [mread, leNat, h a (Nat.le_refl a), ih (a + 1) (fun x hx => h x (by omega))]

theorem leNat_mread_min (m : Memory) (a n k : Nat) (h : ∀ x, a + n ≤ x → mget m x = 0) :
    leNat (mread m a (min k n)) = leNat (mread m a k) := by
  induction n generalizing a k with
  | zero => rw [leNat_mread_zero m a k (fun x hx => h x (by omega))]; simp [mread, leNat]
  | succ n ih =>
    cases k with
    | zero => simp
    | succ k =>
      have : min (k + 1) (n + 1) = min k n + 1 := by omega
      rw [this]; simp only [mread, leNat]; rw [ih (a + 1) k (fun x hx => h x (by omega))]

/-- A field of bytes read from a memory with nothing listed past them. -/
theorem fld_mread (m : Memory) (a n o k : Nat) (h : ∀ x, a + n ≤ x → mget m x = 0) :
    fld (mread m a n) o k = leNat (mread m (a + o) k) := by
  rw [fld, drop_mread, take_mread]
  by_cases ho : o ≤ n
  · exact leNat_mread_min m (a + o) (n - o) k (fun x hx => h x (by omega))
  · have : n - o = 0 := by omega
    rw [this, leNat_mread_zero m (a + o) k (fun x hx => h x (by omega))]; simp [mread, leNat]

/-- Past its last listed byte a memory reads zero. -/
theorem mget_past (m : Memory) (b : Nat) (h : m.all (fun c => c.1 < b) = true) (x : Nat) (hx : b ≤ x) : mget m x = 0 := by
  induction m with
  | nil => rfl
  | cons c t ih =>
    simp only [List.all_cons, Bool.and_eq_true, decide_eq_true_eq] at h
    have h1 : ¬ x < c.1 := by omega
    have h2 : ¬ x = c.1 := by omega
    obtain ⟨k, v⟩ := c
    simp only [mget] ; rw [if_neg h1, if_neg h2]; exact ih h.2

end Sys2Proof.Machine
end

