-- ==== Sys2Proof/Laws/Requests.lean ====
section
/-! SUPPORT. Laws of the shared operations on mailboxes and requests: what changing a mailbox leaves, what completing a request does, and
how a request at its turn runs. -/

namespace Sys2Proof.Machine

/-! ### Folds -/

/-- A relation that is reflexive and transitive holds across a fold whose steps keep it. -/
theorem foldl_keeps {α σ : Type} (R : σ → σ → Prop) (refl : ∀ s, R s s) (trans : ∀ {a b c}, R a b → R b c → R a c) (f : σ → α → σ)
    (step : ∀ s x, R s (f s x)) (l : List α) (s : σ) : R s (l.foldl f s) := by
  induction l generalizing s with
  | nil => exact refl s
  | cons x t ih => exact trans (step s x) (ih (f s x))

/-- A property that each step keeps holds after a fold. -/
theorem foldl_inv {α σ : Type} (P : σ → Prop) (f : σ → α → σ) (step : ∀ s x, P s → P (f s x)) (l : List α) (s : σ) (h : P s) :
    P (l.foldl f s) := by
  induction l generalizing s with
  | nil => exact h
  | cons x t ih => exact ih (f s x) (step s x h)

/-! ### Mailboxes -/

@[simp] theorem mbox_updMb_same (s : State) (n : Nat) (f : Mailbox → Mailbox) : mbox (updMb s n f) n = f (mbox s n) := by simp [mbox]

theorem mbox_updMb_other (s : State) (n k : Nat) (f : Mailbox → Mailbox) (h : k ≠ n) : mbox (updMb s n f) k = mbox s k := by
  simp [mbox, tget_tmod_other _ _ _ _ _ h]

theorem mbox_updMb (s : State) (n k : Nat) (f : Mailbox → Mailbox) :
    mbox (updMb s n f) k = if k = n then f (mbox s n) else mbox s k := by
  split
  · subst_vars; simp
  · exact mbox_updMb_other _ _ _ _ ‹_›

/-- A mailbox depends on Klova alone. -/
theorem mbox_congr {s t : State} (h : t.klv.mbs = s.klv.mbs) (n : Nat) : mbox t n = mbox s n := by simp [mbox, h]

@[simp] theorem mbox_emit (s : State) (n : Nat) (o : Out) : mbox (emit s o) n = mbox s n := rfl
@[simp] theorem mbox_reach (s : State) (n due : Nat) : mbox (reach s due) n = mbox s n := rfl
@[simp] theorem mbox_drawn (s : State) (n : Nat) : mbox (drawn s) n = mbox s n := rfl
@[simp] theorem mbox_updRst (s : State) (n : Nat) (f : Rst → Rst) : mbox (updRst s f) n = mbox s n := rfl
@[simp] theorem mbox_updFw (s : State) (n : Nat) (f : Fw → Fw) : mbox (updFw s f) n = mbox s n := rfl
@[simp] theorem mbox_updDbg (s : State) (n : Nat) (f : Dbg → Dbg) : mbox (updDbg s f) n = mbox s n := rfl
@[simp] theorem mbox_updPwr (s : State) (n : Nat) (f : Pwr → Pwr) : mbox (updPwr s f) n = mbox s n := rfl
@[simp] theorem mbox_updRas (s : State) (n : Nat) (f : Ras → Ras) : mbox (updRas s f) n = mbox s n := rfl
@[simp] theorem mbox_updPrt (s : State) (n : Nat) (f : Prt → Prt) : mbox (updPrt s f) n = mbox s n := rfl
@[simp] theorem mbox_updPst (s : State) (n p : Nat) (f : PartState → PartState) : mbox (updPst s p f) n = mbox s n := rfl
@[simp] theorem mbox_updSlot (s : State) (n c i : Nat) (f : Slot → Slot) : mbox (updSlot s c i f) n = mbox s n := rfl
@[simp] theorem mbox_nextOrder (s : State) (n : Nat) : mbox (nextOrder s) n = mbox s n := rfl
@[simp] theorem mbox_updJob (s : State) (n key : Nat) (f : Job → Job) : mbox (updJob s key f) n = mbox s n := mbox_congr (by simp) n
@[simp] theorem mbox_updIng (s : State) (n p : Nat) (f : IngPart → IngPart) : mbox (updIng s p f) n = mbox s n := rfl
@[simp] theorem mbox_updLink (s : State) (n l : Nat) (f : Link → Link) : mbox (updLink s l f) n = mbox s n := rfl
@[simp] theorem mbox_updConn (s : State) (n q p : Nat) (f : Conn → Conn) : mbox (updConn s q p f) n = mbox s n := rfl
@[simp] theorem mbox_updTrunk (s : State) (n q : Nat) (f : Trunk → Trunk) : mbox (updTrunk s q f) n = mbox s n := rfl
@[simp] theorem mbox_updCtrl (s : State) (n c : Nat) (g : Ctrl → Ctrl) : mbox (updCtrl s c g) n = mbox s n := rfl
@[simp] theorem mbox_updGrp (s : State) (n g : Nat) (f : Group → Group) : mbox (updGrp s g f) n = mbox s n := rfl
@[simp] theorem mbox_updNs (s : State) (n k : Nat) (f : Ns → Ns) : mbox (updNs s k f) n = mbox s n := mbox_congr (by simp) n

theorem onlyMailbox_updMb (s : State) (n : Nat) (f : Mailbox → Mailbox) : OnlyMailbox s (updMb s n f) n :=
  ⟨fun k h => mbox_updMb_other s n k f h, rfl, rfl⟩

theorem onlyMailbox_updMb2 (s : State) (n : Nat) (f g : Mailbox → Mailbox) : OnlyMailbox s (updMb (updMb s n f) n g) n :=
  ⟨fun k h => by rw [mbox_updMb_other _ _ _ _ h, mbox_updMb_other _ _ _ _ h], rfl, rfl⟩

/-! ### Lists of requests -/

theorem find_modFirst {α : Type} (p : α → Bool) (f : α → α) (h : ∀ x, p (f x) = p x) (l : List α) :
    (modFirst p f l).find? p = (l.find? p).map f := by
  induction l with
  | nil => rfl
  | cons x t ih =>
    unfold modFirst
    by_cases hx : p x = true
    · rw [if_pos hx, List.find?_cons_of_pos (by rw [h, hx]), List.find?_cons_of_pos hx]; rfl
    · rw [if_neg hx, List.find?_cons_of_neg hx, List.find?_cons_of_neg hx, ih]

theorem dropFirst_modFirst {α : Type} (p : α → Bool) (f : α → α) (h : ∀ x, p (f x) = p x) (l : List α) :
    dropFirst p (modFirst p f l) = dropFirst p l := by
  induction l with
  | nil => rfl
  | cons x t ih =>
    unfold modFirst
    by_cases hx : p x = true
    · rw [if_pos hx]; simp only [dropFirst]; rw [if_pos (by rw [h, hx]), if_pos hx]
    · rw [if_neg hx]; simp only [dropFirst]; rw [if_neg hx, if_neg hx, ih]

/-- The request named after a change of it. -/
theorem findExec_updExec (s : State) (r : ReqId) (f : Exec → Exec) (h : ∀ x, isReq r (f x) = isReq r x) :
    findExec (updExec s r f) r = (findExec s r).map f := by
  simp only [findExec, updExec, mbox_updMb_same, find_modFirst _ _ h]

/-! ### Completing a request -/

@[simp] theorem mbox_hostAcc (s : State) (k fn pass : Nat) (w : Bool) (a n : Nat) : mbox (hostAcc s fn pass w a n) k = mbox s k := rfl
@[simp] theorem mbox_mbAcc (s : State) (k mb : Nat) (w : Bool) (a n : Nat) : mbox (mbAcc s mb w a n) k = mbox s k := rfl
@[simp] theorem mbox_underCfg (s : State) (k : Nat) (c : Cfg) : mbox (underCfg s c) k = mbox s k := rfl

/-- Who owns a mailbox depends on the partitions alone (R31). -/
theorem ownerOf_congr {s t : State} (h : t.prt = s.prt) (n : Nat) : ownerOf t n = ownerOf s n := by
  unfold ownerOf vfExists prec
  rw [h]

/-- Nothing written leaves host memory as it was. -/
theorem scatter_nil (hm : Memory) (l : List Region) : scatter hm l [] = hm := by
  induction l with
  | nil => rfl
  | cons x t ih =>
    rw [scatter]
    split
    · simpa [mwrite] using ih
    · exact ih

/-- An open mailbox and sound host memory refuse no transfer. -/
theorem badTransfer_none {s : State} {mb : Nat} (h : (mbox s mb).dmaBlock = false) (k : s.hdead = []) (l : List Region) :
    badTransfer s mb l = none := by
  simp [badTransfer, hostFails, h, k]

theorem settled_open {s : State} {r : ReqId} {x : Exec} (a : Ans) (h : Outlet s r x) : settled s r x a = a := by
  simp [settled, badTransfer_none h.2.1 h.2.2.2]

/-- What transfers of mailbox `mb` do: its ACTIVE, and bus transactions with its owner's requester ID (R35, R80). -/
theorem transfer_frame (s : State) (mb : Nat) (w : Bool) (l : List Region) :
    (∀ k, k ≠ mb → mbox (transfer s mb w l) k = mbox s k) ∧
    { mbox (transfer s mb w l) mb with active := (mbox s mb).active } = mbox s mb ∧
    { transfer s mb w l with klv := s.klv, bus := s.bus } = s ∧
    { (transfer s mb w l).klv with mbs := s.klv.mbs } = s.klv ∧ BusBy s (transfer s mb w l) (ownerOf s mb) := by
  unfold transfer
  split
  · exact ⟨fun _ _ => rfl, rfl, rfl, rfl, [], by simp, by simp⟩
  · suffices H : ∀ (l : List Region) (t : State), { t with bus := s.bus } = updMb s mb (fun m => { m with active := true }) →
        BusBy s t (ownerOf s mb) →
        { l.foldl (fun s g => mbAcc s mb w g.addr g.len) t with bus := s.bus } = updMb s mb (fun m => { m with active := true }) ∧
        BusBy s (l.foldl (fun s g => mbAcc s mb w g.addr g.len) t) (ownerOf s mb) by
      obtain ⟨h1, h2⟩ := H l (updMb s mb fun m => { m with active := true }) rfl ⟨[], by simp, by simp⟩
      have hk := congrArg State.klv h1
      dsimp only at hk
      refine ⟨fun k hk' => ?_, ?_, ?_, ?_, h2⟩
      · rw [mbox_congr (congrArg Klova.mbs hk)]; exact mbox_updMb_other _ _ _ _ hk'
      · rw [mbox_congr (congrArg Klova.mbs hk)]; simp
      · exact congrArg (fun t : State => { t with klv := s.klv }) h1
      · rw [hk]; rfl
    intro l
    induction l with
    | nil => exact fun t h b => ⟨h, b⟩
    | cons g l ih =>
      intro t h b
      refine ih _ h ?_
      obtain ⟨u, hu, hv⟩ := b
      have ho : ownerOf t mb = ownerOf s mb := by
        have hp := congrArg State.prt h
        exact ownerOf_congr hp mb
      refine ⟨u ++ [_], by simp [mbAcc, hu]; rfl, fun x hx => ?_⟩
      rcases List.mem_append.1 hx with h | h
      · exact hv x h
      · rw [List.mem_singleton.1 h]; exact ho

/-- What writing the out-buffers of a request does. -/
theorem writeOut_frame (s : State) (r : ReqId) (x : Exec) (a : Ans) :
    (∀ k, k ≠ r.mb.val → mbox (writeOut s r x a) k = mbox s k) ∧
    { mbox (writeOut s r x a) r.mb.val with active := (mbox s r.mb.val).active } = mbox s r.mb.val ∧
    OutsideKlovaSame s (writeOut s r x a) ∧ { (writeOut s r x a).klv with mbs := s.klv.mbs } = s.klv ∧
    (writeOut s r x a).hmem = scatter s.hmem (regions s.hmem x.entry) (bufferBytes s r x a) ∧
    BusBy s (writeOut s r x a) (ownerOf s r.mb.val) := by
  unfold writeOut
  dsimp only
  split
  · rename_i h
    rw [List.isEmpty_iff] at h
    exact ⟨fun _ _ => rfl, rfl, rfl, rfl, by rw [h, scatter_nil], [], by simp, by simp⟩
  · have H : ∀ u, { u with free := s.free } = s →
        let t := transfer u r.mb.val true (outPiecesFor (regions s.hmem x.entry) (bufferBytes s r x a).length)
        (∀ k, k ≠ r.mb.val → mbox t k = mbox s k) ∧ { mbox t r.mb.val with active := (mbox s r.mb.val).active } = mbox s r.mb.val ∧
        { t with klv := s.klv, bus := s.bus, free := s.free } = s ∧ { t.klv with mbs := s.klv.mbs } = s.klv ∧
        BusBy s t (ownerOf s r.mb.val) := by
      intro u hu
      obtain ⟨h1, h2, h3, h4, h5⟩ := transfer_frame u r.mb.val true (outPiecesFor (regions s.hmem x.entry) (bufferBytes s r x a).length)
      have hk : u.klv = s.klv := by have h := congrArg State.klv hu; exact h
      have hb : u.bus = s.bus := by have h := congrArg State.bus hu; exact h
      have hp : u.prt = s.prt := by have h := congrArg State.prt hu; exact h
      have hm : ∀ k, mbox u k = mbox s k := fun k => mbox_congr (congrArg Klova.mbs hk) k
      refine ⟨fun k h => (h1 k h).trans (hm k), ?_, ?_, ?_, ?_⟩
      · rw [← hm]; exact h2
      · rw [hk, hb] at h3
        exact (congrArg (fun t : State => { t with free := s.free }) h3).trans hu
      · rw [← hk]; exact h4
      · obtain ⟨l, a, b⟩ := h5
        exact ⟨l, by rw [a, hb], by rw [← ownerOf_congr hp]; exact b⟩
    obtain ⟨h1, h2, h3, h4, h5⟩ := H (if a.out.isEmpty then drawn s else s) (by split <;> rfl)
    refine ⟨h1, h2, ?_, h4, rfl, h5⟩
    exact congrArg (fun t : State => { t with hmem := s.hmem }) h3

/-- What the out-buffers hold after a completion (R44, R49). -/
theorem bufferBytes_buffers (s : State) (r : ReqId) (x : Exec) (a : Ans) (h : x.evsel = none) :
    Buffers s.hmem (scatter s.hmem (regions s.hmem x.entry) (bufferBytes s r x a)) x.entry a := by
  refine ⟨_, rfl, fun k => ?_⟩
  unfold bufferBytes
  rw [if_neg (by simp [h])]
  split
  · rename_i hc
    simp at hc
    rcases k with k | k
    · exact absurd hc.1.1 k
    · omega
  · rfl

/-- Completing an executing request: what it writes, then what it does to the mailbox. -/
theorem finish_eq {s : State} {r : ReqId} {x : Exec} (a : Ans) (hf : findExec s r = some x) :
    finish s r a = updMb (writeOut s r x (settled s r x a)) r.mb.val
      (mbComplete x.evsel.isSome r (cplOf s.ts x (settled s r x a))
        (waitingOf (cplOf s.ts x (settled s r x a)) x (settled s r x a).out)) := by
  simp [finish, hf]

/-- Completing a request of an open mailbox: all that changes. -/
theorem finish_open {s : State} {r : ReqId} {x : Exec} (a : Ans) (hf : findExec s r = some x) (h : Outlet s r x) :
    finish s r a = updMb (writeOut s r x a) r.mb.val (mbComplete false r (cplOf s.ts x a) (waitingOf (cplOf s.ts x a) x a.out)) := by
  rw [finish_eq a hf, settled_open a h, h.2.2.1]; rfl

theorem finish_completes {s : State} {r : ReqId} {x : Exec} (a : Ans) (hf : findExec s r = some x) (h : Outlet s r x) :
    Completes s (finish s r a) r x false a ∧ OnlyMailboxAndHost s (finish s r a) r.mb.val := by
  rw [finish_open a hf h]
  obtain ⟨w1, w2, w3, w4, w5, _⟩ := writeOut_frame s r x a
  have he : (mbox (writeOut s r x a) r.mb.val).en = true := by rw [← h.1, ← w2]
  refine ⟨⟨?_, ?_, ?_⟩, ?_, w3, w4⟩
  · rw [mbox_updMb_same]; simp only [mbComplete]; rw [if_pos (by rw [he]; rfl)]; rw [← w2]
  · rw [mbox_updMb_same]; simp only [mbComplete]; rw [if_pos (by rw [he]; rfl)]; rw [← w2]; simp [cplDone]
  · show Buffers s.hmem (writeOut s r x a).hmem x.entry a
    rw [w5]; exact bufferBytes_buffers s r x a h.2.2.1
  · intro k hk; rw [mbox_updMb_other _ _ _ _ hk]; exact w1 k hk

/-- What completing leaves, whatever the mailbox. -/
theorem finish_rest (s : State) (r : ReqId) (a : Ans) : OutsideKlovaSame s (finish s r a) := by
  unfold finish
  split
  · rfl
  · exact (writeOut_frame s r _ _).2.2.1

/-- A request at its turn is executed. -/
theorem runReq_turn {s : State} {r : ReqId} {x : Exec} {cls op : Nat} (h : AtTurn s r x cls op) (f : State → Exec → State) :
    runReq s r cls op f = .next (f (begunExec s r) { x with begun := true }) := by
  obtain ⟨h1, h2, h3, h4, h5⟩ := h
  have hc : (cls == 2 || x.cfg == s.prt.cfg) = true := by simpa using h5
  simp [runReq, h1, h2, h3, h4, begunExec, hc]

/-- A request accepted under another configuration than the active one runs under its own, and leaves the active one as it was (R93, R108). -/
theorem runReq_other {s : State} {r : ReqId} {x : Exec} {cls op : Nat} (h1 : findExec s r = some x) (h2 : entCls x.entry = cls)
    (h3 : entOp x.entry = op) (h4 : canBegin r (mbox s r.mb.val).execs x = true) (h5 : cls ≠ 2) (h6 : x.cfg ≠ s.prt.cfg)
    (f : State → Exec → State) :
    runReq s r cls op f = .next (underCfg (f (underCfg (begunExec s r) x.cfg) { x with begun := true }) s.prt.cfg) := by
  have hc : (cls == 2 || x.cfg == s.prt.cfg) = false := by simp [h5, h6]
  simp [runReq, h1, h2, h3, h4, begunExec, hc]

/-- A query at its turn completes with its answer, and nothing else changes. -/
theorem begunExec_find {s : State} {r : ReqId} {x : Exec} (h : findExec s r = some x) :
    findExec (begunExec s r) r = some { x with begun := true } := by
  unfold begunExec
  rw [findExec_updExec _ _ _ (by intro x; rfl), h]; rfl

theorem begunExec_outlet {s : State} {r : ReqId} {x : Exec} (h : Outlet s r x) : Outlet (begunExec s r) r { x with begun := true } := by
  obtain ⟨h1, h2, h3, h4⟩ := h
  refine ⟨?_, ?_, h3, h4⟩ <;> simp [begunExec, updExec, h1, h2]

/-- A completion from the state where the request has begun is one from the state before. -/
theorem completes_of_begun {s t : State} {r : ReqId} {x : Exec} {d : Bool} {a : Ans}
    (h : Completes (begunExec s r) t r { x with begun := true } d a) : Completes s t r x d a := by
  obtain ⟨h1, h2, h3⟩ := h
  refine ⟨?_, ?_, h3⟩
  · rw [h1]
    simp only [begunExec, updExec, mbox_updMb_same]
    rw [dropFirst_modFirst _ _ (by intro x; rfl)]
  · rw [h2]
    simp [begunExec, updExec, cplDone, cplOf, waitingOf]

theorem onlyMailboxAndHost_of_begun {s t : State} {r : ReqId} (h : OnlyMailboxAndHost (begunExec s r) t r.mb.val) :
    OnlyMailboxAndHost s t r.mb.val := by
  obtain ⟨h1, h2, h3⟩ := h
  refine ⟨fun k hk => ?_, ?_, ?_⟩
  · rw [h1 k hk]; exact mbox_updMb_other _ _ _ _ hk
  · exact congrArg (fun u : State => { u with klv := s.klv, hmem := s.hmem, bus := s.bus, free := s.free }) h2
  · exact congrArg (fun u : Klova => { u with mbs := s.klv.mbs }) h3

theorem answer_turn {s : State} {r : ReqId} {x : Exec} {cls op : Nat} (h : AtTurn s r x cls op) (ho : Outlet s r x)
    (f : State → Exec → Ans) :
    ∃ t, answer s r cls op f = .next t ∧ Completes s t r x false (f (begunExec s r) { x with begun := true }) ∧
      OnlyMailboxAndHost s t r.mb.val := by
  refine ⟨_, runReq_turn h _, ?_⟩
  have := finish_completes (f (begunExec s r) { x with begun := true }) (begunExec_find h.1) (begunExec_outlet ho)
  exact ⟨completes_of_begun this.1, onlyMailboxAndHost_of_begun this.2⟩

/-- A request that passes its commit point and completes. -/
theorem commit_find {s : State} {r : ReqId} {x : Exec} (h : findExec s r = some x) :
    findExec (commit s r) r = some { x with committed := !x.oow } := by
  unfold commit
  rw [findExec_updExec _ _ _ (by intro x; rfl), h]; rfl

theorem commit_outlet {s : State} {r : ReqId} {x : Exec} (h : Outlet s r x) : Outlet (commit s r) r { x with committed := !x.oow } := by
  obtain ⟨h1, h2, h3, h4⟩ := h
  refine ⟨?_, ?_, h3, h4⟩ <;> simp [commit, updExec, h1, h2]

theorem completes_of_commit {s t : State} {r : ReqId} {x : Exec} {a : Ans}
    (h : Completes (commit s r) t r { x with committed := !x.oow } false a) : Completes s t r x true a := by
  obtain ⟨h1, h2, h3⟩ := h
  refine ⟨?_, ?_, h3⟩
  · rw [h1]
    simp only [commit, updExec, mbox_updMb_same]
    rw [dropFirst_modFirst _ _ (by intro x; rfl)]
  · rw [h2]
    simp [commit, updExec, cplDone, cplOf, waitingOf]

theorem commit_completes {s : State} {r : ReqId} {x : Exec} (a : Ans) (hf : findExec s r = some x) (h : Outlet s r x) :
    Completes s (finish (commit s r) r a) r x true a :=
  completes_of_commit (finish_completes a (commit_find hf) (commit_outlet h)).1

/-- A completion from `s` to `t`, seen from a state that has the same mailbox, host memory and time. -/
theorem completes_congr {s s' t : State} {r : ReqId} {x : Exec} {d : Bool} {a : Ans} (h1 : mbox s' r.mb.val = mbox s r.mb.val)
    (h2 : s'.hmem = s.hmem) (h3 : s'.ts = s.ts) (h : Completes s' t r x d a) : Completes s t r x d a := by
  obtain ⟨a1, a2, a3⟩ := h
  exact ⟨by rw [a1, h1], by rw [a2, h1]; simp [cplDone, h3], by rw [← h2]; exact a3⟩

theorem findExec_congr {s s' : State} {r : ReqId} (h : mbox s' r.mb.val = mbox s r.mb.val) : findExec s' r = findExec s r := by
  simp [findExec, h]

theorem outlet_congr {s s' : State} {r : ReqId} {x : Exec} (h : mbox s' r.mb.val = mbox s r.mb.val) (k : s'.hdead = s.hdead)
    (o : Outlet s r x) : Outlet s' r x := by
  simpa [Outlet, h, k] using o

end Sys2Proof.Machine
end

