-- ==== Sys2Proof/Laws/Shared.lean ====
section
/-! SUPPORT. What the shared operations leave alone: events, the error log, writes of stores and of DRAM; and that they keep every memory in
its canonical form. -/

namespace Sys2Proof.Machine

/-! ### Events and the log touch Klova, host memory and the log alone -/

theorem outsideKlovaSame_refl (s : State) : OutsideKlovaSame s s := rfl

theorem outsideKlovaSame_trans {a b c : State} (h : OutsideKlovaSame a b) (k : OutsideKlovaSame b c) : OutsideKlovaSame a c := by
  unfold OutsideKlovaSame at *
  rw [← h]
  rw [← k]

theorem outsideKlovaSame_updMb (s : State) (n : Nat) (f : Mailbox → Mailbox) : OutsideKlovaSame s (updMb s n f) := rfl

theorem outsideKlovaSame_finish (s : State) (r : ReqId) (a : Ans) : OutsideKlovaSame s (finish s r a) := finish_rest s r a

theorem outsideKlovaSame_deliverEvent (s : State) (n : Fin 256) : OutsideKlovaSame s (deliverEvent s n) := by
  unfold deliverEvent
  dsimp only
  split
  · exact outsideKlovaSame_trans (outsideKlovaSame_updMb s _ _) (outsideKlovaSame_finish _ _ _)
  · rfl

theorem outsideKlovaSame_eventOn (s : State) (code detail : Nat) (n : Fin 256) : OutsideKlovaSame s (eventOn s code detail n) := by
  unfold eventOn
  split
  · exact outsideKlovaSame_trans (outsideKlovaSame_updMb s _ _) (outsideKlovaSame_deliverEvent _ _)
  · rfl

theorem outsideKlovaSame_events (s : State) (code detail : Nat) (l : List (Fin 256)) :
    OutsideKlovaSame s (l.foldl (fun s n => eventOn s code detail n) s) :=
  foldl_keeps OutsideKlovaSame outsideKlovaSame_refl outsideKlovaSame_trans _ (fun s n => outsideKlovaSame_eventOn s code detail n) l s

theorem outsideKlovaSame_eventFor (s : State) (p code detail : Nat) : OutsideKlovaSame s (eventFor s p code detail) :=
  outsideKlovaSame_events s code detail _

theorem outsideKlovaSame_eventAll (s : State) (code detail : Nat) : OutsideKlovaSame s (eventAll s code detail) :=
  outsideKlovaSame_events s code detail _

/-- An entry of the error log leaves everything but Klova, what its transfers do, and the RAS block. -/
theorem logErr_rest (s : State) (e : LogRec) :
    { logErr s e with klv := s.klv, hmem := s.hmem, bus := s.bus, free := s.free, ras := s.ras } = s := by
  have h := outsideKlovaSame_events
    { s with ras := { s.ras with
      log := tput s.ras.log (s.ras.seq.toNat % 65536) (logBytes s.ras.seq.toNat (now s) (fullRec s e))
      seq := s.ras.seq + 1
      critDram := s.ras.critDram || (e.source == 1 && (e.severity == 1 || e.severity == 2)) } }
    0x0006 (s.ras.seq.toNat % 65536) (logAudience s e.part)
  exact congrArg (fun t : State => { t with ras := s.ras }) h

/-! ### Writes of stores and of DRAM -/

@[simp] theorem storeWrite_rest (s : State) (a : Nat) (bs : List Byte) :
    { storeWrite s a bs with mem := s.mem, arrs := s.arrs, ras := s.ras } = s := rfl
@[simp] theorem storeMove_rest (s : State) (src a n : Nat) :
    { storeMove s src a n with mem := s.mem, arrs := s.arrs, ras := s.ras } = s := rfl
@[simp] theorem clearRange_rest (s : State) (a n : Nat) :
    { clearRange s a n with mem := s.mem, arrs := s.arrs, ras := s.ras } = s := rfl
@[simp] theorem dramCommit_rest (s : State) (a : Nat) (bs : List Byte) :
    { dramCommit s a bs with mem := s.mem, ras := s.ras, tie := s.tie } = s := rfl

/-- `t` differs from `s` in module memory, poison, the objects' dirty marks, coherence and the ways of the clusters' caches alone. -/
def OnlyMemory (s t : State) : Prop := { t with mem := s.mem, ras := s.ras, tie := s.tie, coh := s.coh, clus := s.clus } = s

theorem onlyMemory_refl (s : State) : OnlyMemory s s := rfl

theorem onlyMemory_trans {a b c : State} (h : OnlyMemory a b) (k : OnlyMemory b c) : OnlyMemory a c := by
  unfold OnlyMemory at *
  rw [← h]
  rw [← k]

theorem dramCommit_only (s : State) (a : Nat) (bs : List Byte) : OnlyMemory s (dramCommit s a bs) := rfl

theorem mcopy_only (s : State) (src a n : Nat) :
    OnlyMemory s { s with mem := mcopy s.mem src a n, ras := { s.ras with poison := poisonAfter s.ras.poison a n } } := rfl

theorem onlyMemory_ncReadLine (s : State) (line : Nat) : OnlyMemory s (ncReadLine s line) := by
  unfold ncReadLine
  split
  · split
    · split <;> rfl
    · rfl
  · rfl

theorem onlyMemory_ncRead (s : State) (a n : Nat) : OnlyMemory s (ncRead s a n) :=
  foldl_keeps OnlyMemory onlyMemory_refl onlyMemory_trans _ onlyMemory_ncReadLine _ s

theorem onlyMemory_updDir (s : State) (line : Nat) (f : Dir → Dir) : OnlyMemory s (updDir s line f) := rfl

theorem onlyMemory_freeWay (s : State) (a : AgentId) (line : Nat) : OnlyMemory s (freeWay s a line) := by
  unfold freeWay
  dsimp only
  generalize (if a.val < 32 then wayOf s a.val (cacheSet (cacheSegs s a.val) line) line else none) = o
  cases o <;> rfl

theorem onlyMemory_dropAgentLine (s : State) (a : AgentId) (line : Nat) : OnlyMemory s (dropAgentLine s a line) :=
  onlyMemory_trans (onlyMemory_freeWay s a line) rfl

theorem onlyMemory_ncDropLine (s : State) (line : Nat) : OnlyMemory s (ncDropLine s line) := by
  unfold ncDropLine
  split
  · rfl
  · exact onlyMemory_trans
      (foldl_keeps OnlyMemory onlyMemory_refl onlyMemory_trans (fun s a => dropAgentLine s a line)
        (fun s a => onlyMemory_dropAgentLine s a line) _ s)
      (onlyMemory_updDir _ _ _)

theorem onlyMemory_ncDropLines (s : State) (l : List Nat) : OnlyMemory s (l.foldl ncDropLine s) :=
  foldl_keeps OnlyMemory onlyMemory_refl onlyMemory_trans _ onlyMemory_ncDropLine l s

theorem onlyMemory_ncWrite (s : State) (a : Nat) (bs : List Byte) : OnlyMemory s (ncWrite s a bs) := by
  unfold ncWrite
  refine onlyMemory_trans (onlyMemory_ncDropLines s (trackedLines s a bs.length)) ?_
  exact foldl_keeps OnlyMemory onlyMemory_refl onlyMemory_trans _ (fun _ _ => dramCommit_only _ _ _) _ _

theorem onlyMemory_ncMove (s : State) (src a n : Nat) : OnlyMemory s (ncMove s src a n) := by
  refine onlyMemory_trans (onlyMemory_ncDropLines s (trackedLines s a n)) ?_
  exact onlyMemory_trans (foldl_keeps OnlyMemory onlyMemory_refl onlyMemory_trans
    (fun (s : State) i => { s with tie := { s.tie with objs := markDirty s (a - a % 65536 + i * 65536) } }) (fun _ _ => rfl)
    (List.range ((a % 65536 + n + 65535) / 65536)) _) (mcopy_only _ _ _ _)

/-- `t` differs from `s` in module memory, held tiles and poison alone. -/
def OnlyStoreBytes (s t : State) : Prop := { t with mem := s.mem, arrs := s.arrs, ras := s.ras } = s

theorem onlyStoreBytes_trans {a b c : State} (h : OnlyStoreBytes a b) (k : OnlyStoreBytes b c) : OnlyStoreBytes a c := by
  unfold OnlyStoreBytes at *
  rw [← h]
  rw [← k]

theorem onlyStoreBytes_storeWrite (s : State) (a : Nat) (bs : List Byte) : OnlyStoreBytes s (storeWrite s a bs) := rfl

theorem onlyStoreBytes_storeWritePieces (l : List (Nat × Nat)) (s : State) (bs : List Byte) : OnlyStoreBytes s (storeWritePieces s l bs) := by
  induction l generalizing s bs with
  | nil => rfl
  | cons x t ih => exact onlyStoreBytes_trans (onlyStoreBytes_storeWrite s x.1 _) (ih _ _)

theorem onlyStoreBytes_viewWrite (s : State) (c i va : Nat) (bs : List Byte) : OnlyStoreBytes s (viewWrite s c i va bs) :=
  onlyStoreBytes_storeWritePieces _ s bs

/-! ### Contexts -/

/-- `t` differs from `s` in slots and jobs alone. -/
def OnlyContexts (s t : State) : Prop := { t with slots := s.slots, sch := s.sch } = s

theorem onlyContexts_trans {a b c : State} (h : OnlyContexts a b) (k : OnlyContexts b c) : OnlyContexts a c := by
  unfold OnlyContexts at *
  rw [← h]
  rw [← k]

theorem onlyContexts_updSlot (s : State) (c i : Nat) (f : Slot → Slot) : OnlyContexts s (updSlot s c i f) := rfl

theorem onlyContexts_updJob (s : State) (key : Nat) (f : Job → Job) : OnlyContexts s (updJob s key f) := by
  unfold updJob
  split <;> rfl

theorem onlyContexts_stopSlots (s : State) (j : Job) : OnlyContexts s (stopSlots s j) :=
  foldl_keeps OnlyContexts (fun _ => rfl) onlyContexts_trans _ (fun s c => onlyContexts_updSlot s c _ _) j.clusters s

theorem onlyContexts_beginEnd (s : State) (key : Nat) (e : JobEnd) : OnlyContexts s (beginEnd s key e) := by
  unfold beginEnd
  split
  · rfl
  · split
    · rfl
    · exact onlyContexts_trans (onlyContexts_stopSlots s _) (onlyContexts_updJob _ _ _)

theorem onlyContexts_contextFault (s : State) (c i code pos addr : Nat) : OnlyContexts s (contextFault s c i code pos addr) := by
  unfold contextFault
  dsimp only
  split
  · rfl
  · refine onlyContexts_trans ?_ (onlyContexts_beginEnd _ _ _)
    split
    · rfl
    · exact onlyContexts_trans (onlyContexts_updSlot s c i _) (onlyContexts_updJob _ _ _)

theorem onlyContexts_finishCmd (s : State) (c i : Nat) (e : Engine) (q : QCmd) : OnlyContexts s (finishCmd s c i e q) := by
  unfold finishCmd
  dsimp only
  split <;> rfl

/-! ### The canonical form of memories -/

theorem onlyContexts_memOk {s t : State} (h : OnlyContexts s t) (k : s.memOk) : t.memOk := by
  unfold OnlyContexts at h
  rw [← h] at k
  exact k

theorem memOk_contextFault {s : State} (h : s.memOk) (c i code pos addr : Nat) : (contextFault s c i code pos addr).memOk :=
  onlyContexts_memOk (onlyContexts_contextFault s c i code pos addr) h


theorem memOk_finish {s : State} (h : s.memOk) (r : ReqId) (a : Ans) : (finish s r a).memOk := by
  unfold finish
  split
  · exact h
  · obtain ⟨_, _, w, _, m, _⟩ := writeOut_frame s r ‹Exec› (settled s r ‹Exec› a)
    have hm := congrArg State.mem w
    have hf := congrArg State.fw w
    have hn := congrArg State.nvm w
    refine ⟨?_, ?_, ?_, ?_⟩
    · exact hm ▸ h.1
    · show Memory.wf (writeOut s r _ _).hmem = true
      rw [m]
      exact scatter_wf _ _ h.2.1
    · exact hf ▸ h.2.2.1
    · exact hn ▸ h.2.2.2

theorem memOk_deliverEvent {s : State} (h : s.memOk) (n : Fin 256) : (deliverEvent s n).memOk := by
  unfold deliverEvent
  dsimp only
  split
  · exact memOk_finish (s := updMb s _ _) h _ _
  · exact h

theorem memOk_eventOn {s : State} (h : s.memOk) (code detail : Nat) (n : Fin 256) : (eventOn s code detail n).memOk := by
  unfold eventOn
  split
  · exact memOk_deliverEvent (s := updMb s _ _) h n
  · exact h

theorem memOk_events {s : State} (h : s.memOk) (code detail : Nat) (l : List (Fin 256)) :
    (l.foldl (fun s n => eventOn s code detail n) s).memOk := by
  induction l generalizing s with
  | nil => exact h
  | cons n t ih => exact ih (memOk_eventOn h code detail n)

theorem memOk_eventFor {s : State} (h : s.memOk) (p code detail : Nat) : (eventFor s p code detail).memOk := memOk_events h code detail (mbsOf p)

theorem memOk_eventAll {s : State} (h : s.memOk) (code detail : Nat) : (eventAll s code detail).memOk := by
  rw [eventAll]
  exact memOk_events h code detail _

theorem memOk_logErr {s : State} (h : s.memOk) (e : LogRec) : (logErr s e).memOk := by
  rw [logErr]
  exact memOk_events (by exact h) _ _ _

theorem memOk_mediaFault {s : State} (h : s.memOk) (c i pos addr : Nat) : (mediaFault s c i pos addr).memOk :=
  memOk_logErr (memOk_contextFault h c i 0x26 pos addr) _

theorem memOk_storeWrite {s : State} (h : s.memOk) (a : Nat) (bs : List Byte) : (storeWrite s a bs).memOk := ⟨mwrite_wf h.1 a bs, h.2⟩

theorem memOk_storeMove {s : State} (h : s.memOk) (src a n : Nat) : (storeMove s src a n).memOk := ⟨mcopy_wf h.1 src a n, h.2⟩

theorem memOk_clearRange {s : State} (h : s.memOk) (a n : Nat) : (clearRange s a n).memOk := ⟨mclear_wf h.1 a n, h.2⟩

theorem memOk_storeWritePieces (l : List (Nat × Nat)) {s : State} (h : s.memOk) (bs : List Byte) : (storeWritePieces s l bs).memOk := by
  induction l generalizing s bs with
  | nil => exact h
  | cons x t ih => exact ih (memOk_storeWrite h x.1 _) _

theorem memOk_viewWrite {s : State} (h : s.memOk) (c i va : Nat) (bs : List Byte) : (viewWrite s c i va bs).memOk :=
  memOk_storeWritePieces _ h bs

theorem memOk_dramCommit {s : State} (h : s.memOk) (a : Nat) (bs : List Byte) : (dramCommit s a bs).memOk := ⟨mwrite_wf h.1 a bs, h.2⟩

theorem memOk_ncReadLine {s : State} (h : s.memOk) (line : Nat) : (ncReadLine s line).memOk := by
  unfold ncReadLine
  split
  · split
    · split
      · exact ⟨mwrite_wf h.1 _ _, h.2⟩
      · exact h
    · exact h
  · exact h

theorem memOk_ncRead {s : State} (h : s.memOk) (a n : Nat) : (ncRead s a n).memOk :=
  foldl_inv State.memOk _ (fun _ x h => memOk_ncReadLine h x) _ s h

theorem memOk_dropAgentLine {s : State} (h : s.memOk) (a : AgentId) (line : Nat) : (dropAgentLine s a line).memOk := by
  unfold dropAgentLine freeWay
  dsimp only
  generalize (if a.val < 32 then wayOf s a.val (cacheSet (cacheSegs s a.val) line) line else none) = o
  cases o <;> exact h

theorem memOk_ncDropLine {s : State} (h : s.memOk) (line : Nat) : (ncDropLine s line).memOk := by
  unfold ncDropLine
  split
  · exact h
  · exact foldl_inv State.memOk (fun s a => dropAgentLine s a line) (fun _ a h => memOk_dropAgentLine h a line) _ s h

theorem memOk_ncWrite {s : State} (h : s.memOk) (a : Nat) (bs : List Byte) : (ncWrite s a bs).memOk := by
  unfold ncWrite
  exact foldl_inv State.memOk _ (fun _ _ h => memOk_dramCommit h _ _) _ _
    (foldl_inv State.memOk _ (fun _ x h => memOk_ncDropLine h x) _ s h)

theorem memOk_ncMove {s : State} (h : s.memOk) (src a n : Nat) : (ncMove s src a n).memOk := by
  have k := foldl_inv State.memOk
    (fun (s : State) i => { s with tie := { s.tie with objs := markDirty s (a - a % 65536 + i * 65536) } }) (fun _ _ h => h)
    (List.range ((a % 65536 + n + 65535) / 65536)) _
    (foldl_inv State.memOk _ (fun _ x h => memOk_ncDropLine h x) (trackedLines s a n) s h)
  exact ⟨mcopy_wf k.1 src a n, k.2⟩

end Sys2Proof.Machine
end

