-- ==== Sys2Proof/Laws/Flash.lean ====
section
/-! SUPPORT. The operations of the flash translation layer touch its state alone, so they keep every memory in its canonical form. -/

namespace Sys2Proof.Machine

/-- `t` differs from `s` in the flash translation layer alone. -/
def OnlyFtl (s t : State) : Prop := { t with ftl := s.ftl } = s

theorem onlyFtl_refl (s : State) : OnlyFtl s s := rfl

theorem onlyFtl_trans {a b c : State} (h : OnlyFtl a b) (k : OnlyFtl b c) : OnlyFtl a c := by
  unfold OnlyFtl at *
  rw [← h]
  rw [← k]

theorem onlyFtl_memOk {s t : State} (h : OnlyFtl s t) (k : s.memOk) : t.memOk := by
  unfold OnlyFtl at h
  rw [← h] at k
  exact k

theorem onlyFtl_updGrp (s : State) (g : Nat) (f : Group → Group) : OnlyFtl s (updGrp s g f) := rfl

theorem onlyFtl_takeSlot (s : State) (g k t : Nat) : OnlyFtl s (takeSlot s g k t) := by
  unfold takeSlot
  dsimp only
  split <;> rfl

theorem onlyFtl_putTake (s : State) (g k t a : Nat) (x : FPage) : OnlyFtl s (putPage (takeSlot s g k t) a x) :=
  onlyFtl_trans (onlyFtl_takeSlot s g k t) rfl

theorem onlyFtl_progPage {s t : State} {g a : Nat} {slc : Bool} {x : FPage} (h : progPage s g slc x = some (t, a)) : OnlyFtl s t := by
  unfold progPage at h
  dsimp only at h
  split at h
  · cases h
  · split at h
    · cases h
    · split at h
      · cases h
        exact onlyFtl_trans (onlyFtl_putTake s _ _ _ _ _) (onlyFtl_updGrp _ _ _)
      · split at h
        · cases h
          exact onlyFtl_trans (onlyFtl_putTake s _ _ _ _ _) (onlyFtl_trans (onlyFtl_updGrp _ _ _) (onlyFtl_updGrp _ _ _))
        · cases h
          exact onlyFtl_trans (onlyFtl_putTake s _ _ _ _ _) (onlyFtl_trans (onlyFtl_updGrp _ _ _)
            (onlyFtl_trans (onlyFtl_putTake _ _ _ _ _ _) (onlyFtl_updGrp _ _ _)))

theorem onlyFtl_setEntry (s : State) (ns u e : Nat) : OnlyFtl s (setEntry s ns u e) := by
  unfold setEntry
  dsimp only
  split <;> rfl

theorem onlyFtl_setFrags (s : State) (ns u mask : Nat) (l : List Nat) : OnlyFtl s (setFrags s ns u mask l) := by
  unfold setFrags
  dsimp only
  split <;> rfl

theorem onlyFtl_applyData (s : State) (x : FPage) (a : Nat) : OnlyFtl s (applyData s x a) := by
  unfold applyData
  dsimp only
  split
  · exact onlyFtl_setEntry s _ _ _
  · exact onlyFtl_setFrags s _ _ _ _

theorem onlyFtl_applyDealloc (s : State) (g ns lba n : Nat) : OnlyFtl s (applyDealloc s g ns lba n) :=
  foldl_keeps OnlyFtl onlyFtl_refl onlyFtl_trans _ (fun s x => by
    split
    · exact onlyFtl_setEntry s _ _ _
    · rfl) (mappedIn s ns lba n) s

theorem onlyFtl_applyZeroes (s : State) (g ns lba n : Nat) : OnlyFtl s (applyZeroes s g ns lba n) :=
  foldl_keeps OnlyFtl onlyFtl_refl onlyFtl_trans _ (fun s x => by
    split
    · rfl
    · split
      · exact onlyFtl_setEntry s _ _ _
      · exact onlyFtl_setFrags s _ _ _ _) (mappedIn s ns lba n) s

theorem onlyFtl_applyPage (s : State) (x : FPage) (a : Nat) : OnlyFtl s (applyPage s x a) := by
  unfold applyPage
  split
  · exact onlyFtl_applyData s x a
  · exact onlyFtl_applyZeroes s _ _ _ _
  · exact onlyFtl_applyDealloc s _ _ _ _
  · rfl
  · rfl
  · rfl

theorem onlyFtl_progPages (l : List FPage) {s t : State} {r : List (FPage × Nat)} (h : progPages s l = some (t, r)) : OnlyFtl s t := by
  induction l generalizing s r with
  | nil => cases h; rfl
  | cons x l ih =>
    unfold progPages at h
    split at h
    · cases h
    · rename_i e
      split at h
      · cases h
      · rename_i k
        cases h
        exact onlyFtl_trans (onlyFtl_progPage e) (ih k)

theorem onlyFtl_writeSeq (s : State) (l : List Nat) : OnlyFtl s (writeSeq s l).1 :=
  foldl_keeps OnlyFtl onlyFtl_refl onlyFtl_trans _ (fun s g => onlyFtl_updGrp s g _) l s

theorem onlyFtl_dropCached (s : State) (ns lba n : Nat) (w : Bool) : OnlyFtl s (dropCached s ns lba n w) := rfl

theorem onlyFtl_ftlWrite {s t : State} {ns lba : Nat} {bs : List Byte} (h : ftlWrite s ns lba bs = some t) : OnlyFtl s t := by
  unfold ftlWrite at h
  dsimp only at h
  split at h
  · cases h
  · split at h
    · cases h
    · rename_i e
      cases h
      refine onlyFtl_trans (onlyFtl_writeSeq s _) (onlyFtl_trans (onlyFtl_progPages _ e) ?_)
      exact onlyFtl_trans (onlyFtl_trans (foldl_keeps OnlyFtl onlyFtl_refl onlyFtl_trans _
          (fun (s : State) (x : FPage × Nat) => onlyFtl_applyPage s x.1 x.2) _ _) (onlyFtl_dropCached _ _ _ _ _))
        (foldl_keeps OnlyFtl onlyFtl_refl onlyFtl_trans _ (fun s x => onlyFtl_updGrp s _ _) _ _)

theorem onlyFtl_journalGroups (x : FPage) (l : List Nat) {s t : State} (h : journalGroups x l s = some t) : OnlyFtl s t := by
  induction l generalizing s with
  | nil => cases h; rfl
  | cons g l ih =>
    unfold journalGroups at h
    split at h
    · cases h
    · rename_i e
      exact onlyFtl_trans (onlyFtl_progPage e) (onlyFtl_trans (onlyFtl_applyPage _ x _) (ih h))

theorem onlyFtl_ftlJournal {s t : State} {kind : PageKind} {ns lba n : Nat} (h : ftlJournal s kind ns lba n = some t) : OnlyFtl s t := by
  unfold ftlJournal at h
  dsimp only at h
  split at h
  · cases h
  · exact onlyFtl_trans (onlyFtl_dropCached s _ _ _ _) (onlyFtl_trans (onlyFtl_writeSeq _ _) (onlyFtl_journalGroups _ _ h))

end Sys2Proof.Machine
end

