-- ==== Sys2Proof/Tests/Helpers.lean ====
section
/-! SUPPORT. Small states for the tests: a module that has left reset, with a request executing on a mailbox, a command in a slot's queue, a
command on a controller, and so on. -/

namespace Sys2Proof.Machine

/-- Request 1 of MB000. -/
def wR : ReqId := ⟨0, false, 1⟩

/-- An entry of a class and opcode with VER 0x20 and HSEQ 1, and fields set at their offsets. -/
def wEntry (cls op : Nat) (fs : List (Nat × Nat × Nat)) : List Byte :=
  fs.foldl (fun e f => setFld e f.1 f.2.1 f.2.2) (leBytes 1 cls ++ leBytes 1 op ++ leBytes 1 0x20 ++ zeros 1 ++ leBytes 4 1 ++ zeros 56)

/-- The executing request of an entry. -/
def wExec (cls op : Nat) (fs : List (Nat × Nat × Nat)) : Exec :=
  { entry := wEntry cls op fs, hseq := 1, oow := false, acceptTs := 0, timeoutUs := some 2000, ver := 0x20, begun := false, committed := false
    replays := [], evsel := none, snap := [], cfg := State.reset.prt.cfg, order := 0, applying := false }

/-- The same, accepted under the configuration of `s`. -/
def wExecIn (s : State) (cls op : Nat) (fs : List (Nat × Nat × Nat)) : Exec := { wExec cls op fs with cfg := s.prt.cfg }

/-- The module after a reset, with the factory configuration. -/
def wUp : State := { State.reset with prt := { State.reset.prt with loaded := true }, rst := { rstReset with active := false, ready := true } }

/-- A mailbox 0 changed. -/
def wMb (f : Mailbox → Mailbox) : State := updMb wUp 0 f

/-- A request executing on MB000. -/
def wReqOn (s : State) (x : Exec) : State :=
  updMb s 0 fun m => { m with en := true, enabled := true, ver := 0x20, execs := m.execs ++ [x], nextHseq := 2 }

/-- A request of a class and opcode executing on MB000 and next to begin. -/
abbrev wTurn (s : State) (cls op : Nat) (fs : List (Nat × Nat × Nat)) : Prop :=
  AtTurn (wReqOn s (wExecIn s cls op fs)) wR (wExecIn s cls op fs) cls op ∧ Outlet (wReqOn s (wExecIn s cls op fs)) wR (wExecIn s cls op fs)

/-- The fields of an entry with one in-payload of `n` bytes at host address 0x10000. -/
def wIn (n : Nat) : List (Nat × Nat × Nat) := [(3, 1, 1), (0x10, 8, 0x10000), (0x18, 4, n)]

/-- Host memory holding a payload at 0x10000. -/
def wHost (s : State) (bs : List Byte) : State := { s with hmem := mwrite s.hmem 0x10000 bs }

end Sys2Proof.Machine
end

