-- ==== Sys2Proof/Tests/WitnessCluster.lean ====
section
/-! SUPPORT. States and operands that meet the hypotheses of the statements about clusters, coherence and jobs, one theorem for each
statement, its clauses in order. -/

namespace Sys2Proof.Machine

set_option Elab.async false

/-- A command word of an opcode with fields set. -/
def wWord (op : Nat) (fs : List (Nat × Nat × Nat)) : List Byte :=
  fs.foldl (fun e f => setFld e f.1 f.2.1 f.2.2) (leBytes 1 op ++ zeros 31)

def wCmd (op : Nat) (fs : List (Nat × Nat × Nat)) : QCmd := { word := wWord op fs, pos := 0, seq := 0 }

/-- The handle of the job at index 0 of P0, generation 1. -/
def wH : Word := 65536

/-- A job of one rank with one view segment and a stream of 64 bytes, its header fields set. -/
def wJob (fs : List (Nat × Nat × Nat)) (st : JobState) (cs : List Nat) : Job :=
  { part := 0, index := 0, gen := 1
    header := fs.foldl (fun e f => setFld e f.1 f.2.1 f.2.2) (setFld (setFld (setFld (zeros 0x110) 6 1 1) 0x18 1 1) 0x108 4 64)
    peers := [], imageBase := 0x100000, rankBase := 0x200000, st, runEpoch := 0, seed := 0, run := none, forceStrict := false, slotIx := 0
    clusters := cs, eligible := false, placedAt := 0, queuedAt := 0, budget0 := 0, ran := 0, ending := none, fault := none, saved := [], path := 0
    fallbacks := 0, flags := nf0, vclip := 0, vflush := 0, stall := 0, suspends := [] }

/-- Jobs in the table. -/
def wJobs (s : State) (l : Tbl Job) : State := { s with sch := { s.sch with jobs := l } }

/-- The job RUNNING in slot 0 of C00, its one view segment physical segment 0. -/
def wRun (j : Job) (f : Slot → Slot) : State :=
  let s := { wJobs wUp [(0, j)] with clus := [(0, { clusterReset with segCfg := 0x001FFFF8#32, xlat := [(0, 0x00200000#32)] })] }
  updSlot s 0 0 fun _ => f { slotReset with st := .running, job := wH }

def wVec (op : Nat) (fs : List (Nat × Nat × Nat)) : State := wRun (wJob [] .running [0]) fun sl => { sl with vecQ := [wCmd op fs] }

/-- The vector command heads the queue and may run, with this fault. -/
abbrev wVecAt (op : Nat) (fs : List (Nat × Nat × Nat)) (fault : Option Nat) : Prop :=
  VecReady (wVec op fs) 0 0 op (wCmd op fs) [] ∧ vecFault (wVec op fs) 0 0 (wWord op fs) = fault ∧
    viewClearing (wVec op fs) 0 0 (vecReads (wWord op fs) ++ vecWrites (wWord op fs)) = false ∧
    viewPoison (wVec op fs) 0 0 (vecReads (wWord op fs)) = none

/-- Two sources and a destination of one element each. -/
def wSrcs : List (Nat × Nat × Nat) := [(0xC, 4, 64), (0x10, 4, 128), (0x14, 4, 1)]

/-- Every plain command without a fault and with one (COUNT 0), VCVT to FP32 and to an MX format, and THY_FILL. -/
theorem witness_VectorUnit :
    wVecAt 0x60 wSrcs none ∧ wVecAt 0x61 wSrcs none ∧ wVecAt 0x62 wSrcs none ∧ wVecAt 0x63 wSrcs none ∧ wVecAt 0x64 wSrcs none ∧
    wVecAt 0x65 wSrcs none ∧ wVecAt 0x68 wSrcs none ∧ wVecAt 0x69 wSrcs none ∧ wVecAt 0x6A wSrcs none ∧ wVecAt 0x6B wSrcs none ∧
    wVecAt 0x6C wSrcs none ∧ wVecAt 0x6D wSrcs none ∧ wVecAt 0x70 wSrcs none ∧ wVecAt 0x71 wSrcs none ∧
    wVecAt 0x60 [] (some 0x08) ∧ wVecAt 0x72 ((0x19, 1, 1) :: wSrcs) none ∧ wVecAt 0x72 ((0x18, 1, 0xA0) :: wSrcs) none ∧
    (wVec 0x60 wSrcs).memOk ∧ VecReady (wVec 0x9F [(8, 4, 64), (0xC, 4, 1)]) 0 0 0x9F (wCmd 0x9F [(8, 4, 64), (0xC, 4, 1)]) [] ∧
    tfFault (wVec 0x9F [(8, 4, 64), (0xC, 4, 1)]) 0 0 (wWord 0x9F [(8, 4, 64), (0xC, 4, 1)]) = none ∧
    viewClearing (wVec 0x9F [(8, 4, 64), (0xC, 4, 1)]) 0 0 [(64, tfBytes (wWord 0x9F [(8, 4, 64), (0xC, 4, 1)]))] = false := by
  and_intros <;> decide +kernel

/-- A DMA command at the head of the queue of slot 0 of C00. -/
def wDma (op : Nat) (fs : List (Nat × Nat × Nat)) : State := wRun (wJob [] .running [0]) fun sl => { sl with dmaQ := [wCmd op fs] }

abbrev wPlaces (op : Nat) (fs : List (Nat × Nat × Nat)) : List (Except Nat (Option Place × Place)) :=
  dmaPlaces (wDma op fs) 0 0 (cluPart (wDma op fs) 0) (dmaFields (wWord op fs))

abbrev wDmaAt (op : Nat) (fs : List (Nat × Nat × Nat)) (fault : Option Nat) : Prop :=
  DmaReady (wDma op fs) 0 0 op (wCmd op fs) [] ∧ dmaFault (wWord op fs) (dmaFields (wWord op fs)) (wPlaces op fs) = fault

/-- One row filled, and copied, in the own store; a COPY whose space is reserved; a FILL of DRAM; CACHE_OP of one line, and of none. -/
theorem witness_DmaCommands :
    (wDmaAt 2 [(8, 4, 7), (0x10, 6, 128)] none ∧ (wDma 2 [(8, 4, 7), (0x10, 6, 128)]).memOk ∧
      (wPlaces 2 [(8, 4, 7), (0x10, 6, 128)]).filterMap (·.toOption) = [(none, .store [(storeBase 0 + 128, 64)])] ∧ 64 % 4 = 0 ∧
      clearingAt (wDma 2 [(8, 4, 7), (0x10, 6, 128)]) [(storeBase 0 + 128, 64)] = false) ∧
    (wDmaAt 1 [(0x10, 6, 128)] none ∧
      (wPlaces 1 [(0x10, 6, 128)]).filterMap (·.toOption) = [(some (.store [(storeBase 0, 64)]), .store [(storeBase 0 + 128, 64)])] ∧
      poisoned (wDma 1 [(0x10, 6, 128)]) (storeBase 0) 64 = false ∧
      clearingAt (wDma 1 [(0x10, 6, 128)]) [(storeBase 0, 64)] = false ∧ clearingAt (wDma 1 [(0x10, 6, 128)]) [(storeBase 0 + 128, 64)] = false ∧
      (copyBlocks 0 false 0 ((wPlaces 1 [(0x10, 6, 128)]).filterMap (·.toOption)) (wDma 1 [(0x10, 6, 128)])).2 = none) ∧
    wDmaAt 1 [(0xE, 1, 0x70)] (some 0x07) ∧ wDmaAt 2 [(0xE, 1, 0x70)] (some 0x07) ∧
    (wDmaAt 2 [(0xE, 1, 0x50), (0x10, 6, 0x3FFFFFFC0)] none ∧
      ((wPlaces 2 [(0xE, 1, 0x50), (0x10, 6, 0x3FFFFFFC0)]).filterMap (·.toOption)).any
        (fun x => placeBusy (wDma 2 [(0xE, 1, 0x50), (0x10, 6, 0x3FFFFFFC0)]) x.2) = false) ∧
    (DmaReady (wDma 3 [(0x10, 4, 1)]) 0 0 3 (wCmd 3 [(0x10, 4, 1)]) [] ∧
      cacheOpFault (wDma 3 [(0x10, 4, 1)]) (cluPart (wDma 3 [(0x10, 4, 1)]) 0) (wWord 3 [(0x10, 4, 1)]) = none ∧
      rangeBusy (wDma 3 [(0x10, 4, 1)]) 0 64 = false ∧ cacheSegs (wDma 3 [(0x10, 4, 1)]) 0 = 0) ∧
    (DmaReady (wDma 3 []) 0 0 3 (wCmd 3 []) [] ∧ cacheOpFault (wDma 3 []) (cluPart (wDma 3 []) 0) (wWord 3 []) = some 0x08) := by
  and_intros <;> decide +kernel

/-- The job running with its stream's word `w` in memory and the slot at position `pos`. -/
def wStream (pos : Nat) (w : List Byte) : State :=
  { wRun (wJob [] .running [0]) (fun sl => { sl with pos }) with mem := mwrite [] 0x100000 (w ++ w) }

abbrev wDispatches (pos : Nat) (w : List Byte) : Prop :=
  slotJob (wStream pos w) 0 0 = some (wJob [] .running [0]) ∧ (cluster (wStream pos w) 0).dispatched = false ∧
    dispatchTurn (wStream pos w) 0 1 = some 0 ∧ poisoned (wStream pos w) (0x100000 + pos) 32 = false ∧
    mread (ncRead (wStream pos w) (0x100000 + pos) 32).mem (0x100000 + pos) 32 = w

/-- A cluster cycle whose word is read, and no slot with a word ready; at 64 of 64 bytes; opcode 0; a reserved header; words for each engine; a
SYNC_NOP that waits for no ticket, and for one; a finished DMA command; and a cycle. -/
theorem witness_DispatchAndCycles :
    (cluster { wUp with clus := [(0, { clusterReset with dispatched := true })] } 0).dispatched = true ∧ dispatchTurn (wStream 0 []) 0 0 = none ∧
    (wDispatches 64 (zeros 32) ∧ (slot (wStream 64 []) 0 0).pos = 64) ∧
    (wDispatches 0 (zeros 32) ∧ opAssigned (wOp (zeros 32)) = false) ∧
    jStreamLen (wJob [] .running [0]) 0 < 64 + 32 ∧ 32 + 32 ≤ jStreamLen (wJob [] .running [0]) 0 ∧
    (wDispatches 32 (wWord 1 [(6, 2, 1)]) ∧ opAssigned 1 = true ∧ headerReserved (wWord 1 [(6, 2, 1)]) = true) ∧
    (wDispatches 32 (wWord 1 []) ∧ headerReserved (wWord 1 []) = false ∧ wOp (wWord 1 []) ≤ 3) ∧
    (wDispatches 32 (wWord 0x60 []) ∧ headerReserved (wWord 0x60 []) = false ∧ wOp (wWord 0x60 []) = 0x60) ∧
    (wDispatches 32 (wWord 0x21 []) ∧ headerReserved (wWord 0x21 []) = false ∧ wOp (wWord 0x21 []) = 0x21) ∧
    (wDispatches 32 (wWord 0x80 []) ∧ headerReserved (wWord 0x80 []) = false ∧ syncReserved (wWord 0x80 []) = false ∧
      waitMet (slot (wStream 32 []) 0 0) (wWord 0x80 []) = true) ∧
    (wDispatches 32 (wWord 0x80 [(1, 1, 1), (4, 2, 1)]) ∧ syncReserved (wWord 0x80 [(1, 1, 1), (4, 2, 1)]) = false ∧
      headerReserved (wWord 0x80 [(1, 1, 1), (4, 2, 1)]) = false ∧ waitMet (slot (wStream 32 []) 0 0) (wWord 0x80 [(1, 1, 1), (4, 2, 1)]) = false) ∧
    (let s := wRun (wJob [] .running [0]) fun sl => { sl with fin := [⟨.dma, wCmd 1 [], nf0⟩] }
     (slot s 0 0).fin.find? (fun x => x.eng == Engine.dma) = some ⟨.dma, wCmd 1 [], nf0⟩ ∧ dmaPostCluster 0 (wCmd 1 []).word = 0) ∧
    (let s := wRun (wJob [] .running [0]) fun sl => { sl with fin := [⟨.arr 2, wCmd 0x21 [], nf0⟩] }
     (slot s 0 0).fin.find? (fun x => x.eng == Engine.arr 2) = some ⟨.arr 2, wCmd 0x21 [], nf0⟩ ∧ dmaPostCluster 0 (wCmd 0x21 []).word = 0 ∧
       (arr s 0 2).test = none) ∧
    (State.reset.memOk ∧ (cluster State.reset 31).ports = []) := by
  and_intros <;> decide +kernel

/-- Layout registers with strides of one row. -/
def wLay : Layout := { layoutReset with aStride := 1, bStride := 1, yStride := 1 }

/-- An array command at the head of slot 0's queue for array 0 of C00, with the array granted to it or not and its layout registers. -/
def wArray (op : Nat) (fs : List (Nat × Nat × Nat)) (granted : Bool) : State :=
  { wRun (wJob [] .running [0]) (fun sl => { sl with arrQ := [(0, [wCmd op fs])], layout := [(0, wLay)] }) with
    arrs := [(0, { arrReset with st := if granted then 1 else 0 })] }

/-- ARR_MM of one element in three rows: A at 0, B at row 1, Y at row 2. -/
def wMm : List (Nat × Nat × Nat) := [(9, 1, 0x10), (0xF, 3, 1), (0x12, 3, 2)]

theorem witness_ArrayCommands :
    (ArrReady (wArray 0x20 [] false) 0 0 0 0x20 (wCmd 0x20 []) [] ∧ layoutReserved (wWord 0x20 []) = false ∧
      arrUnusable (wArray 0x20 [] false) 0 0 = false ∧ (wArray 0x20 [] false).memOk) ∧
    (ArrReady (wArray 0x21 [] true) 0 0 0 0x21 (wCmd 0x21 []) [] ∧ mmStage1 (wArray 0x21 [] true) 0 (wWord 0x21 []) = some 0x11 ∧
      arrPresent (wArray 0x21 [] true) 0 0 = true) ∧
    (ArrReady (wArray 0x21 wMm false) 0 0 0 0x21 (wCmd 0x21 wMm) [] ∧ mmStage1 (wArray 0x21 wMm false) 0 (wWord 0x21 wMm) = none ∧
      grantedTo (arr (wArray 0x21 wMm false) 0 0) 0 = false) ∧
    (ArrReady (wArray 0x21 wMm true) 0 0 0 0x21 (wCmd 0x21 wMm) [] ∧ mmStage1 (wArray 0x21 wMm true) 0 (wWord 0x21 wMm) = none ∧
      grantedTo (arr (wArray 0x21 wMm true) 0 0) 0 = true ∧
      mmStage2 (wArray 0x21 wMm true) 0 0 (mmFields (wWord 0x21 wMm)) wLay true = none ∧
      mayReuse (arr (wArray 0x21 wMm true) 0 0) 0 (mmFields (wWord 0x21 wMm)) wLay = false ∧
      (let d := mmFields (wWord 0x21 wMm)
       let rs := mmReads d wLay true ++ (if d.acc then rowRanges (storedY d wLay) else []) ++ statsRange d wLay
       viewClearing (wArray 0x21 wMm true) 0 0 (rs ++ yRanges d wLay) = false ∧ viewPoison (wArray 0x21 wMm true) 0 0 rs = none)) ∧
    mmStage2 (wArray 0x21 wMm true) 0 0 (mmFields (wWord 0x21 ((0xC, 3, 0x80000) :: wMm)))
      wLay true = some 0x05 := by
  refine ⟨?_, ?_, ?_, ?_, ?_⟩ <;> decide +kernel

/-- Two jobs on C00, in slots 0 and 1, of priorities `p0` and `p1`, slot 1 waiting for array 0 and slot 0 as `q0` says. -/
def wTwo (p0 p1 : Nat) (q0 : Bool) (a : Arr) : State :=
  let j0 := wJob [(7, 1, p0), (0x10, 4, 100)] .running [0]
  let j1 := { wJob [(7, 1, p1)] .running [0] with index := 1, slotIx := 1 }
  let s := wRun j0 fun sl => { sl with arrQ := if q0 then [(0, [wCmd 0x21 []])] else [] }
  { updSlot (wJobs s [(0, j0), (1, j1)]) 0 1 fun _ => { slotReset with st := .running, job := 65537, arrQ := [(0, [wCmd 0x21 []])] } with
    arrs := [(0, a)] }

/-- No job is pinned, and slot 1 is the best waiter. -/
abbrev wGrants (s : State) : Prop :=
  arrPresent s 0 0 = true ∧ (arr s 0 0).failed = false ∧ (cluster s 0).katFail = false ∧ (∀ i < 4, slotPinned s 0 0 i = false) ∧
    atBoundary s 0 0 = true ∧ bestWaiter s 0 0 (rotated (arr s 0 0).slot.val) = some 1

/-- A self-test of array 0 of C00, run by request 1 of MB000. -/
def wTest (y : ArrTest) (patterns : Word) : State :=
  { wReqOn wUp (wExec 9 0x40 []) with arrs := [(0, { arrReset with st := 2, test := some y, patterns })] }

def wTesting (yielded : Bool) : ArrTest :=
  { req := wR, total := 1024, running := !yielded, yielded, clearFailed := false, stop := false, idleAt := 0 }

theorem witness_ArrayGrants :
    (wGrants (wTwo 1 1 false arrReset) ∧ (arr (wTwo 1 1 false arrReset) 0 0).st = 0) ∧
    (wGrants (wTwo 0 3 true { arrReset with st := 1 }) ∧ waitsFor (wTwo 0 3 true { arrReset with st := 1 }) 0 0 0 = true ∧
      slotPri (wTwo 0 3 true { arrReset with st := 1 }) 0 0 < slotPri (wTwo 0 3 true { arrReset with st := 1 }) 0 1) ∧
    (wGrants (wTwo 1 1 true { arrReset with st := 1 }) ∧ waitsFor (wTwo 1 1 true { arrReset with st := 1 }) 0 0 0 = true ∧
      slotPri (wTwo 1 1 true { arrReset with st := 1 }) 0 1 ≤ slotPri (wTwo 1 1 true { arrReset with st := 1 }) 0 0) ∧
    (let s := wTwo 1 1 true { arrReset with st := 1, quantum := 100 }
     (arr s 0 0).pinned = false ∧ atBoundary s 0 0 = true ∧ (slotJob s 0 0).map jQuantum = some 100 ∧ 100 ≤ (arr s 0 0).quantum ∧
     ((rotated 0).find? fun i => i != 0 && waitsFor s 0 0 i && slotPri s 0 i == slotPri s 0 0) = some 1) ∧
    (wTurn wUp 9 0x40 [(0x20, 1, 31), (0x21, 1, 3)] ∧ (arr wUp 31 3).test = none ∧ clusterOwner wUp 31 = some 0 ∧
      arrPresent wUp 31 3 = true ∧ arrayIdle wUp 31 3 = true) ∧
    (wTurn wUp 9 0x41 [(0x20, 1, 31)] ∧ clusterOwner wUp 31 = some (reqPart wR)) ∧
    ((arr (wTest (wTesting false) 0) 0 0).test = some (wTesting false) ∧ (wTesting false).running = true ∧ (wTesting false).yielded = false) ∧
    (1024 ≤ ((arr (wTest (wTesting false) 1023) 0 0).patterns + 1).toNat ∧
      findExec (wTest (wTesting false) 1023) wR = some (wExec 9 0x40 []) ∧ Outlet (wTest (wTesting false) 1023) wR (wExec 9 0x40 [])) ∧
    ((arr (wTest (wTesting true) 5) 0 0).test = some (wTesting true) ∧ (wTesting true).yielded = true ∧
      arrayIdle (wTest (wTesting true) 5) 0 0 = true) ∧
    (let y : ArrTest := { wTesting false with running := false }
     let x : Done := ⟨.arr 0, wCmd 0x21 [], nf0⟩
     let s := updSlot (wTest y 0) 0 1 fun sl => { sl with fin := [x] }
     (arr s 0 0).test = some y ∧ y.running = false ∧ (slot s 0 1).fin.find? (fun x => x.eng == Engine.arr 0) = some x ∧
       atBoundary s 0 0 = false ∧
       arrayIdle (updSlot s 0 1 fun sl => { sl with fin := dropFirst (fun x => x.eng == .arr 0) sl.fin }) 0 0 = true) := by
  and_intros <;> decide +kernel

/-- The dispatcher of slot 0 of C00 holds a synchronisation command. -/
def wHold (jfs : List (Nat × Nat × Nat)) (op : Nat) (fs : List (Nat × Nat × Nat)) (f : Slot → Slot) : State :=
  wRun (wJob jfs .running [0]) fun sl => f { sl with cur := some (wCmd op fs) }

abbrev wHeld (jfs : List (Nat × Nat × Nat)) (op : Nat) (fs : List (Nat × Nat × Nat)) (f : Slot → Slot) : Prop :=
  SyncHeld (wHold jfs op fs f) 0 0 op (wCmd op fs) (wJob jfs .running [0])

/-- NOP; RWAIT with its counter at the threshold and one below; JUMP and LOOP to the last word of the stream, LOOP at its counts; DL_ARM, DL_CHECK
and DL_END; YIELD; then each with a reserved byte, and each target one word past the stream's end. -/
theorem witness_Synchronisation :
    wHeld [] 0x80 [] id ∧
    (wHeld [] 0x84 [] id ∧ tktReady (tget (0 : Half) [] 0).toNat (fld (wWord 0x84 []) 0xA 2) = true) ∧
    (wHeld [] 0x84 [(0xA, 2, 1)] id ∧ tktReady (tget (0 : Half) [] 0).toNat (fld (wWord 0x84 [(0xA, 2, 1)]) 0xA 2) = false) ∧
    (wHeld [] 0x89 [(8, 4, 32)] id ∧ streamTarget (wJob [] .running [0]) 0 32 = true) ∧
    (wHeld [] 0x8A [(0x10, 4, 2)] id ∧ streamTarget (wJob [] .running [0]) 0 0 = true) ∧
    wHeld [] 0x8A [(0x10, 4, 1)] id ∧ wHeld [] 0x8A [] (fun sl => { sl with lctr := [(0, 2)] }) ∧
    wHeld [] 0x8A [] (fun sl => { sl with lctr := [(0, 1)] }) ∧
    wHeld [] 0x85 [(0xC, 4, 1)] id ∧
    (wHeld [(5, 1, 1)] 0x86 [] (fun sl => { sl with armed := true }) ∧ runsTimely (wJob [(5, 1, 1)] .running [0]) = true ∧
      lateFor { slotReset with armed := true, cur := some (wCmd 0x86 []) } (wWord 0x86 []) 0 = false) ∧
    (let f : Slot → Slot := fun sl => { sl with armed := true, deadline := 5, tkt := [(0, 1)], postAt := [(1, 9)] }
     wHeld [] 0x86 [(0xA, 2, 1)] f ∧ runsTimely (wJob [] .running [0]) = false ∧
       tktReady (tget 0 (slot (wHold [] 0x86 [(0xA, 2, 1)] f) 0 0).tkt 0).toNat 1 = true ∧
       (slot (wHold [] 0x86 [(0xA, 2, 1)] f) 0 0).deadline.toNat = 5 ∧ readyAt (slot (wHold [] 0x86 [(0xA, 2, 1)] f) 0 0) 0 1 = 9) ∧
    wHeld [] 0x87 [] (fun sl => { sl with armed := true }) ∧ wHeld [] 0x8B [] id ∧
    (syncReserved (wWord 0x80 [(31, 1, 1)]) = true ∧ syncReserved (wWord 0x81 [(31, 1, 1)]) = true ∧ syncReserved (wWord 0x84 [(31, 1, 1)]) = true ∧
      syncReserved (wWord 0x85 [(31, 1, 1)]) = true ∧ syncReserved (wWord 0x86 [(31, 1, 1)]) = true ∧ syncReserved (wWord 0x87 [(31, 1, 1)]) = true ∧
      syncReserved (wWord 0x88 [(31, 1, 1)]) = true ∧ syncReserved (wWord 0x89 [(31, 1, 1)]) = true ∧ syncReserved (wWord 0x8A [(31, 1, 1)]) = true ∧
      syncReserved (wWord 0x8B [(31, 1, 1)]) = true ∧ syncReserved (wWord 0x8F [(31, 1, 1)]) = true) ∧
    ((wHold [] 0x8F [(31, 1, 1)] id).slots.map (fun x => x.2.cur) = [some (wCmd 0x8F [(31, 1, 1)])] ∧
      slotJob (wHold [] 0x8F [(31, 1, 1)] id) 0 0 = some (wJob [] .running [0])) ∧
    (wHeld [] 0x89 [(8, 4, 64)] id ∧ streamTarget (wJob [] .running [0]) 0 64 = false) ∧
    wHeld [] 0x8A [(0xC, 4, 64)] id ∧ wHeld [] 0x85 [(0x10, 4, 64)] id := by
  and_intros <;> decide +kernel

/-- A two-rank job on C00 and C01, slot 0 of each. -/
def wPair (op : Nat) : State :=
  let j := { wJob [(6, 1, 2)] .running [0, 1] with slotIx := 0 }
  updSlot (wRun j fun sl => { sl with cur := some (wCmd op []) }) 1 0 fun _ => { slotReset with st := .running, job := wH, rank := 1 }

theorem witness_BarriersAndDeadlines :
    (wHeld [] 0x81 [] id ∧ (wJob [] .running [0]).slotIx = 0 ∧ (wJob [] .running [0]).clusters = [0] ∧
      (slot (wHold [] 0x81 [] id) 0 0).ended = false ∧ (slot (wHold [] 0x81 [] id) 0 0).barrier = none ∧
      allFinished (slot (wHold [] 0x81 [] id) 0 0) = true ∧ (wHold [] 0x81 [] id).memOk) ∧
    (SyncHeld (wPair 0x81) 0 0 0x81 (wCmd 0x81 []) (wJob [(6, 1, 2)] .running [0, 1]) ∧ (∀ e ∈ [0, 1], (slot (wPair 0x81) e 0).ended = false) ∧
      (slot (wPair 0x81) 1 0).barrier = none ∧ (slot (wPair 0x81) 0 0).barrier = none) ∧
    (wHeld [] 0x8F [] id ∧ allFinished (slot (wHold [] 0x8F [] id) 0 0) = true ∧ (slot (wHold [] 0x8F [] id) 0 0).barrier = none ∧
      (wJob [] .running [0]).ending = none ∧
      tfind? (wHold [] 0x8F [] id).sch.jobs (jobKey (jobHandle (wJob [] .running [0]))) = some (wJob [] .running [0])) ∧
    (wHeld [] 0x8F [] (fun sl => { sl with fin := [⟨.dma, wCmd 1 [], nf0⟩] }) ∧
      allFinished (slot (wHold [] 0x8F [] fun sl => { sl with fin := [⟨.dma, wCmd 1 [], nf0⟩] }) 0 0) = false) ∧
    (SyncHeld (wPair 0x8F) 0 0 0x8F (wCmd 0x8F []) (wJob [(6, 1, 2)] .running [0, 1]) ∧ allFinished (slot (wPair 0x8F) 0 0) = true ∧
      (∀ d ∈ [0, 1], (slot (wPair 0x8F) d 0).barrier = none) ∧ (slot (wPair 0x8F) 1 0).ended = false) ∧
    (wHeld [] 0x88 [] id ∧ viewRange (wHold [] 0x88 [] id) 0 0 0 64 = some [(storeBase 0, 64)] ∧
      viewClearing (wHold [] 0x88 [] id) 0 0 [(0, 64)] = false) ∧
    (wHeld [(5, 1, 1)] 0x86 [(0xA, 2, 1)] (fun sl => { sl with armed := true }) ∧ runsTimely (wJob [(5, 1, 1)] .running [0]) = true ∧
      tktReady (tget (0 : Half) [] 0).toNat 1 = false ∧ (0 : Dword).toNat ≤ (pst wUp (cluPart wUp 0)).budget.toNat) ∧
    (wHeld [(5, 1, 1)] 0x86 [(0xA, 2, 1)] (fun sl => { sl with armed := true, deadline := 1 }) ∧
      (pst wUp (cluPart wUp 0)).budget.toNat < (1 : Dword).toNat) ∧
    (wHeld [] 0x86 [(0xA, 2, 1)] (fun sl => { sl with armed := true }) ∧ runsTimely (wJob [] .running [0]) = false) ∧
    (let s := wHold [(5, 1, 1)] 0x86 [(0xA, 2, 1)] (fun sl => { sl with armed := true })
     let t := { s with tie := { s.tie with scheds := [(jobKey (jobHandle (wJob [(5, 1, 1)] .running [0])),
       { entries := [], repeatN := 1, lookahead := 1, pass := 0, doneIx := [], begun := [], failed := [(0, 0)] })] } }
     SyncHeld t 0 0 0x86 (wCmd 0x86 [(0xA, 2, 1)]) (wJob [(5, 1, 1)] .running [0]) ∧
       failHeld t (jobKey (jobHandle (wJob [(5, 1, 1)] .running [0]))) 0 0 = true) ∧
    (slotJob (wHold [(0x20, 4, 7)] 0x80 [] id) 0 0 = some (wJob [(0x20, 4, 7)] .running [0]) ∧ jWatchdog (wJob [(0x20, 4, 7)] .running [0]) = 7 ∧
      running (wHold [(0x20, 4, 7)] 0x80 [] fun sl => { sl with wd := 7 }) 0 0 = true ∧
      (slot (wHold [(0x20, 4, 7)] 0x80 [] fun sl => { sl with wd := 7 }) 0 0).wd = 7 ∧ (slot (wHold [(0x20, 4, 7)] 0x80 [] id) 0 0).wd < 7) := by
  and_intros <;> decide +kernel

end Sys2Proof.Machine
end

