-- ==== Sys2Proof/Tests/WitnessTier.lean ====
section
/-! SUPPORT. States and operands that meet the hypotheses of the statements about memory tiers, one theorem for each statement, its clauses
in order. -/

namespace Sys2Proof.Machine

set_option Elab.async false

/-- Namespace 1 of P0, of as many blocks as an object of one chunk takes. -/
def wNs : State :=
  { wUp with ftl := { ftlReset with nss := [(1, { blocks := 20, attached := 1, shared := false, epoch := 0, legacy := false })] } }

/-- An object of one chunk. -/
def wObj (fl : Byte) : Obj :=
  { gen := 1, oflags := fl, tileLog2 := 0, tiles := 1, nsid := 1, slba := 0, daddr := 0x100000, shareMask := 0, t1 := [], root := []
    mdirty := [], promotes := [] }

/-- The object at index 0 of P0, and its handle. -/
def wHas (o : Obj) : State := { wNs with tie := { tieReset with objs := [(0, o)] } }
abbrev wOH : Nat := 2 ^ 20

abbrev wReqTurn (s : State) (cls op : Nat) (fs : List (Nat × Nat × Nat)) : Prop :=
  wTurn s cls op fs ∧ NothingEarlier (wReqOn s (wExec cls op fs)) wR (wExec cls op fs)

/-- The pool of P0 has one 64 KiB unit. -/
def wPool (s : State) : State := updTiePart s 0 fun t => { t with poolBase := 0x800000, poolLen := 1 }

/-- The object a CREATE describes. -/
def wNew (x : Exec) : Obj :=
  { gen := 1, oflags := BitVec.ofNat 8 (prm x 0x24 1), tileLog2 := prm x 0x25 1, tiles := prm x 0x28 4, nsid := BitVec.ofNat 32 (prm x 0x20 4)
    slba := prm x 0x30 8, daddr := prm x 0x38 8, shareMask := 0, t1 := [], root := []
    mdirty := [], promotes := [] }

abbrev wCreates (fs : List (Nat × Nat × Nat)) (r : Option Nat × Option Nat) : Prop :=
  let s := wPool wNs
  let x := wExec 4 1 fs
  wTurn s 4 1 fs ∧ badObject (prm x 0x24 1) (prm x 0x25 1) (prm x 0x28 4) = r.1 ∧ freeObj s 0 = some 0 ∧
    badExtent (begunExec (wReqOn s x) wR) 0 (wNew x) = r.2 ∧
    poolUsed (begunExec (wReqOn s x) wR) 0 + tableGranules (wNew x) ≤ poolCap (begunExec (wReqOn s x) wR) 0

/-- CREATE with no tiles, with too long an extent, of a VOLATILE object, and of one in flash; then the opcodes on an object that is not there, and
on one: DELETE of a shared, a referenced and a clean object, SHARE of what may be shared and what may not, POOL while a copy is held, over
DRAM that is taken, and where it is clear. -/
theorem witness_TierObjects :
    (Memory.wf (wReqOn (wPool wNs) (wExec 4 1 [])).mem = true ∧ wCreates [] (some 0x28, some 0x20)) ∧
    wCreates [(0x20, 4, 1), (0x28, 4, 2)] (none, some 0x30) ∧
    (wCreates [(0x24, 1, 0x0A), (0x28, 4, 1), (0x38, 8, 0x100000)] (none, none) ∧
      oVolatile (wNew (wExec 4 1 [(0x24, 1, 0x0A), (0x28, 4, 1), (0x38, 8, 0x100000)])) = true) ∧
    (wCreates [(0x20, 4, 1), (0x28, 4, 1)] (none, none) ∧ oMapped (wNew (wExec 4 1 [(0x20, 4, 1), (0x28, 4, 1)])) = false ∧
      (writeTable (begunExec (wReqOn (wPool wNs) (wExec 4 1 [(0x20, 4, 1), (0x28, 4, 1)])) wR) (wNew (wExec 4 1 [(0x20, 4, 1), (0x28, 4, 1)]))).isSome =
        true) ∧
    (wReqTurn wUp 4 2 [] ∧ wReqTurn wUp 4 3 [] ∧ wReqTurn wUp 4 4 [] ∧ wReqTurn wUp 4 5 [] ∧ wReqTurn wUp 4 6 [] ∧ wReqTurn wUp 4 7 [] ∧
      wReqTurn wUp 4 9 [] ∧ objOf (wReqOn wUp (wExec 4 2 [])) 0 = none) ∧
    (wReqTurn (wHas { wObj 0 with shareMask := 2 }) 4 2 [(0x20, 4, wOH)] ∧ objOf (wHas { wObj 0 with shareMask := 2 }) wOH = some { wObj 0 with shareMask := 2 } ∧
      oPart (objKey wOH) = reqPart wR) ∧
    (wReqTurn (wHas { wObj 0 with t1 := [(0, copyStarted 1 0)] }) 4 2 [(0x20, 4, wOH)] ∧ referenced { wObj 0 with t1 := [(0, copyStarted 1 0)] } = true) ∧
    (wReqTurn (wHas (wObj 0)) 4 2 [(0x20, 4, wOH)] ∧ objOf (wHas (wObj 0)) wOH = some (wObj 0) ∧ (wObj 0).shareMask = 0 ∧
      referenced (wObj 0) = false ∧ dirtyChunks (wObj 0) = []) ∧
    (wReqTurn (wHas (wObj 6)) 4 6 [(0x20, 4, wOH), (0x24, 2, 0x8000)] ∧ objOf (wHas (wObj 6)) wOH = some (wObj 6) ∧ oReadOnly (wObj 6) = true ∧
      oMapped (wObj 6) = true ∧ isSealed (wHas (wObj 6)) 0 = false) ∧
    (wReqTurn (wHas (wObj 2)) 4 6 [(0x20, 4, wOH)] ∧ oReadOnly (wObj 2) = false) ∧ wReqTurn (wHas (wObj 6)) 4 7 [(0x20, 4, wOH)] ∧
    wReqTurn (wHas (wObj 6)) 4 9 [(0x20, 4, wOH)] ∧
    (wReqTurn (wPool (wHas (wObj 0))) 4 0x0A [] ∧ poolBusy (wPool (wHas (wObj 0))) 0 = true) ∧
    (wReqTurn (wHas (wObj 2)) 4 0x0A [(0x20, 8, 0x100000), (0x28, 4, 1)] ∧ poolBusy (wHas (wObj 2)) 0 = false ∧
      hitsAny 0x100000 65536 (mappedRanges (wHas (wObj 2)) ++ jobRanges (wHas (wObj 2)) 0) = true) ∧
    (wReqTurn (wHas (wObj 2)) 4 0x0A [(0x20, 8, 0x800000), (0x28, 4, 1), (0x2C, 4, 1)] ∧ slicesOwned (wHas (wObj 2)) 0 0x800000 65536 = true ∧
      hitsAny 0x800000 65536 (mappedRanges (wHas (wObj 2)) ++ jobRanges (wHas (wObj 2)) 0) = false ∧
      (1 : Word) &&& ~~~ (prec (wHas (wObj 2)) 0).rootSegs = 0) := by
  and_intros <;> decide +kernel

/-- A copy of tile 0, of one ZERO chunk. -/
def wTile (complete : Bool) (refs : List Nat) : TileCopy := { copyStarted 0 0 with chunks := [(0, zeros 8)], refs, complete }

abbrev wTileReq (o : Obj) (op : Nat) (fs : List (Nat × Nat × Nat)) : Prop :=
  wReqTurn (wHas o) 4 op ((0x20, 4, wOH) :: (0x30, 4, 0xF00) :: fs) ∧
    objOf (wReqOn (wHas o) (wExec 4 op ((0x20, 4, wOH) :: (0x30, 4, 0xF00) :: fs))) wOH = some o ∧ oPart (objKey wOH) = reqPart wR ∧ o.promotes = []

/-- The object with a PROMOTE that waits for tile 0. -/
def wWaits (o : Obj) (root : Bool) : Obj :=
  { o with promotes := [{ req := wR, holder := 0xF00, root, count := 1, took := [0], waiting := [0] }] }

def wWaiting (o : Obj) (root : Bool) : State := wReqOn (wHas (wWaits o root)) (wExec 4 3 [])

abbrev wCopying (o : Obj) (root : Bool) : Prop :=
  objOf (wWaiting o root) wOH = some (wWaits o root) ∧ copyOf o root 0 = some (wTile false [0xF00]) ∧
    findExec (wWaiting o root) wR = some (wExec 4 3 []) ∧ Outlet (wWaiting o root) wR (wExec 4 3 [])

/-- PROMOTE past the end, of a held tile, of an absent one; EVICT of a tile with one holder and with two; FLUSH of a VOLATILE object and of one
with a dirty chunk; a copy from T1 to the root tile cache, from flash, and one that cannot be read; a chunk that is clean, and one dirty. -/
theorem witness_TileReferences :
    wTileReq (wObj 0) 3 [(0x28, 4, 2)] ∧
    (wTileReq { wObj 0 with t1 := [(0, wTile true [])] } 3 [(0x28, 4, 1)] ∧
      copyOf { wObj 0 with t1 := [(0, wTile true [])] } false 0 = some (wTile true []) ∧ alwaysHeld (wObj 0) false = false) ∧
    (wTileReq (wObj 0) 3 [(0x28, 4, 1)] ∧ copyOf (wObj 0) false 0 = none ∧ copyNeed (wHas (wObj 0)) (wObj 0) false 0 ≤ 16 ∧
      poolUsed (wPool (wHas (wObj 0))) 0 + 16 ≤ poolCap (wPool (wHas (wObj 0))) 0) ∧
    (wTileReq (wObj 2) 3 [(0x28, 4, 1)] ∧ alwaysHeld (wObj 2) false = true ∧ copyOf (wObj 2) false 0 = none) ∧
    (wTileReq { wObj 0 with t1 := [(0, wTile true [0xF00])] } 4 [(0x28, 4, 1)] ∧ ([0xF00] : List Nat).filter (· != 0xF00) = []) ∧
    (wTileReq { wObj 0 with t1 := [(0, wTile true [0xF00, 1])] } 4 [(0x28, 4, 1)] ∧ ([0xF00, 1] : List Nat).filter (· != 0xF00) = [1]) ∧
    (wTileReq (wObj 0x0A) 5 [] ∧ oVolatile (wObj 0x0A) = true) ∧
    (wTileReq { wObj 2 with mdirty := [(0, 5)] } 5 [] ∧ oVolatile (wObj 2) = false ∧ dirtyChunks { wObj 2 with mdirty := [(0, 5)] } = [0] ∧
      poisoned (wHas { wObj 2 with mdirty := [(0, 5)] }) 0x100000 65536 = false) ∧
    (wTileReq { wObj 0 with t1 := [(0, { wTile true [] with dirty := [(0, 5)] })] } 5 [] ∧
      dirtyChunks { wObj 0 with t1 := [(0, { wTile true [] with dirty := [(0, 5)] })] } = [0] ∧
      (writeBacks 0 [0] (wHas { wObj 0 with t1 := [(0, { wTile true [] with dirty := [(0, 5)] })] })).isSome = true) ∧
    (wCopying { wObj 0 with t1 := [(0, wTile true [])], root := [(0, wTile false [0xF00])] } true ∧
      heldCopy { wObj 0 with t1 := [(0, wTile true [])] } false 0 = some (wTile true []) ∧ (t1Tile (wObj 0) 0 (wTile true [])).isSome = true) ∧
    (wCopying { wObj 0 with t1 := [(0, wTile false [0xF00])] } false ∧
      noteRead (wWaiting { wObj 0 with t1 := [(0, wTile false [0xF00])] } false) 1 (slotLba (wObj 0) 0 / 4) (.hard 0) =
        (wWaiting { wObj 0 with t1 := [(0, wTile false [0xF00])] } false, true) ∧
      (flashChunks (wWaiting { wObj 0 with t1 := [(0, wTile false [0xF00])] } false) (wObj 0) [0]).isSome = true) ∧
    jobOf (wWaiting { wObj 0 with t1 := [(0, wTile false [0xF00])] } false) 0xF00 = none ∧
    (objOf (wHas (wObj 0)) wOH = some (wObj 0) ∧ dirtySince (wObj 0) 0 = none) ∧
    (dirtySince { wObj 0 with t1 := [(0, { wTile true [] with dirty := [(0, 5)] })] } 0 = some 5 ∧
      (writeBack (reach (wHas { wObj 0 with t1 := [(0, { wTile true [] with dirty := [(0, 5)] })] }) 10000000005) 0 0).isSome = true) := by
  refine ⟨?_, ?_, ?_, ?_, ?_, ?_, ?_, ?_, ?_, ?_, ?_, ?_, ?_, ?_⟩ <;> decide +kernel

/-! ### Schedules -/

/-- A schedule entry on the object, with fields set, and the job RUNNING with a schedule of such entries. -/
def wEnt (fs : List (Nat × Nat × Nat)) : List Byte := fs.foldl (fun e f => setFld e f.1 f.2.1 f.2.2) (setFld (zeros 32) 0 4 wOH)
def wSched (e : List Byte) : Schedule := { entries := [e], repeatN := 1, lookahead := 0, pass := 0, doneIx := [], begun := [], failed := [] }
def wPlays (o : Obj) (e : List Byte) : State :=
  { wRun (wJob [] .running [0]) id with
    tie := { tieReset with objs := [(0, o)], scheds := [(0, wSched e)], parts := [(0, { tiePartReset with poolLen := 2 })] } }

abbrev wNextEntry (o : Obj) (kind : Nat) : Prop :=
  NextEntry (wPlays o (wEnt [(9, 1, kind)])) wH kind (wJob [] .running [0]) (wSched (wEnt [(9, 1, kind)])) 0 (wEnt [(9, 1, kind)]) ∧
    reachObj (wPlays o (wEnt [(9, 1, kind)])) 0 (sObj (wEnt [(9, 1, kind)])) = some o

/-- SCHEDULE's payload: a header for one entry, and the entry. -/
def wSchedPay (fs : List (Nat × Nat × Nat)) : List Byte := leBytes 8 0x148435354 ++ leBytes 4 1 ++ zeros 52 ++ wEnt fs

abbrev wSchedules (st : JobState) (pay : List Byte) : Prop :=
  let s := { wHost (wJobs (wHas (wObj 0)) [(0, wJob [] st [])]) pay with ts := 5 }
  let fs := (0x20, 4, 65536) :: wIn 96
  wTurn s 4 8 fs ∧ jobOf (wReqOn s (wExec 4 8 fs)) 65536 = some (wJob [] st []) ∧
    inPayload (wReqOn s (wExec 4 8 fs)) (wExec 4 8 fs) = pay

/-- A T1 copy that takes all a chunk can take. -/
def wWide : TileCopy := { wTile true [] with chunks := [(0, storedOf (1 + 255 * 4) [])] }

/-- A chunk takes at most 256 granules, so the merged tile takes no more than the wide copy. -/
theorem wWide_room (bs : List Byte) (n : Nat) : copyGranules (mergeTile (wObj 0) wWide n [0] bs) ≤ copyGranules wWide := by
  have h (e : Nat) : eGranules e ≤ 256 := by
    unfold eGranules
    have : eLen e ≤ 256 := by unfold eLen bits; have := Nat.mod_lt (e / 2 ^ 2) (show 0 < 2 ^ (9 + 1 - 2) by decide); omega
    split <;> omega
  have g : copyGranules wWide = 256 := by decide +kernel
  rw [g]
  have k (b : Bool) (f : TileCopy) (hf : copyGranules f ≤ 256) : copyGranules (if b then wWide else f) ≤ 256 := by
    cases b
    · exact hf
    · exact Nat.le_of_eq g
  simp only [mergeTile]
  refine k _ _ ?_
  generalize encodeChunk (oCompress (wObj 0)) (bs.take 65536) = ef
  show 0 + eGranules (storedEntry (storedOf ef.1 ef.2)) ≤ 256
  have := h (storedEntry (storedOf ef.1 ef.2))
  omega

/-- SCHEDULE of a running job, with a bad header, a bad entry, and a good one; the next entry of each kind, with what it acts on. -/
theorem witness_Schedules :
    wSchedules .running (wSchedPay []) ∧
    (wSchedules .loaded (zeros 96) ∧ goodHeader (zeros 96) = false) ∧
    (wSchedules .ended (wSchedPay [(4, 4, 1)]) ∧ goodHeader (wSchedPay [(4, 4, 1)]) = true ∧
      findIx (badEntry (wHas (wObj 0)) (wJob [] .ended [])) (schedEntries 1 ((wSchedPay [(4, 4, 1)]).drop 64)) = some 0) ∧
    (wSchedules .loaded (wSchedPay []) ∧ goodHeader (wSchedPay []) = true ∧
      findIx (badEntry (wHas (wObj 0)) (wJob [] .loaded [])) (schedEntries 1 ((wSchedPay []).drop 64)) = none) ∧
    (wNextEntry { wObj 0 with root := [(0, wTile true [])] } 0 ∧ heldCopy { wObj 0 with root := [(0, wTile true [])] } true 0 = some (wTile true []) ∧
      rankCluster (wJob [] .running [0]) 0 = some 0 ∧
      (entryView (wPlays (wObj 0) (wEnt [])) (wJob [] .running [0]) 0 (wEnt []) 65536).toOption = some [(storeBase 0, 65536)]) ∧
    (wNextEntry { wObj 0 with t1 := [(0, wTile true [])] } 1 ∧
      copyOf { wObj 0 with t1 := [(0, wTile true [])] } false 0 = some (wTile true [])) ∧
    (wNextEntry (wObj 0) 1 ∧ alwaysHeld (wObj 0) false = false ∧ copyOf (wObj 0) false 0 = none ∧ tileSrc 0 (wObj 0) 0 = .flash ∧
      (let e := wEnt [(9, 1, 1)]
       let s := wPlays (wObj 0) e
       mayRead s (wSched e) 0 e = true ∧ copyNeed s (wObj 0) false 0 ≤ 16 ∧ poolUsed s 0 + 16 ≤ poolCap s 0)) ∧
    (wNextEntry { wObj 0 with t1 := [(0, wWide)] } 2 ∧ wWide.complete = true ∧
      copyOf { wObj 0 with t1 := [(0, wWide)] } true 0 = none ∧
      (entryView (wPlays (wObj 0) (wEnt [(9, 1, 2)])) (wJob [] .running [0]) 0 (wEnt [(9, 1, 2)]) 65536).toOption = some [(storeBase 0, 65536)] ∧
      (∀ y ∈ [(storeBase 0, 65536)], poisoned (wPlays { wObj 0 with t1 := [(0, wWide)] } (wEnt [(9, 1, 2)])) y.1 y.2 = false) ∧
      poolUsed (wPlays { wObj 0 with t1 := [(0, wWide)] } (wEnt [(9, 1, 2)])) 0 ≤
        poolCap (wPlays { wObj 0 with t1 := [(0, wWide)] } (wEnt [(9, 1, 2)])) 0) ∧
    wNextEntry { wObj 0 with t1 := [(0, wTile true [65536])] } 3 := by
  refine ⟨?_, ?_, ?_, ?_, ?_, ?_, ?_, ?_, ?_⟩ <;> decide +kernel

end Sys2Proof.Machine
end

