-- ==== Sys2Proof/Tests/WitnessIngest.lean ====
section
/-! SUPPORT. States and operands that meet the hypotheses of the statements about ingest, scans and indexes, one theorem for each
statement, its clauses in order. -/

namespace Sys2Proof.Machine

set_option Elab.async false

/-- Fields set in bytes. -/
def wSet (e : List Byte) (fs : List (Nat × Nat × Nat)) : List Byte := fs.foldl (fun e f => setFld e f.1 f.2.1 f.2.2) e

/-! ### Sources, catalogues and targets -/

/-- A source of P0 of one frame, and what parsing found in it. -/
def wFrame : FrameRec :=
  { pics := [0], pts := 0, interlaced := false, width := 16, height := 16, chroma := 1, depth := 8, damaged := false, discontinuity := false
    grain := false }

def wProg : Config.Program :=
  { number := 1, carriage := 2, av01 := false, encrypted := false, edits := [], profile := .main, level := 1, profileCode := 0, levelCode := 0
    fmo := false, aso := false, redundantSlices := false, resampling := false, rateNum := 30, rateDen := 1, matrix := none, fullRange := none
    matrixCode := 0, rangeCode := 0, chromaLoc := none, colocated := false, audio := [], captions := [], pictures := [] }

def wInfo : SrcInfo := { prog := wProg, codec := 0, editsIgnored := false, frames := [wFrame], breaks := [] }

def wSource : Source :=
  { id := 0, nsid := 1, container := 0, program := 0, slba := 0, bytes := 4096, indexSlba := 4, info := wInfo, since := 0, removed := none }

def wGen (l : List Source) : Generation := { num := 1, clipFrames := 1, stride := 1, excludeBreaks := false, sources := l }

/-- The namespace, with these ingest registers of P0. -/
def wIng (a : IngPart) : State :=
  { wNs with
    ing := { ingReset with parts := [(0, a)] }
    prt := { wNs.prt with cfg := { wNs.prt.cfg with links := { wNs.prt.cfg.links with ports := [{ portRecNone with lanes := 1, owner := 0 }] } } } }

abbrev wIngTurn (a : IngPart) (op : Nat) (fs : List (Nat × Nat × Nat)) : Prop :=
  wTurn (wIng a) 5 op fs ∧ NothingEarlier (wReqOn (wIng a) (wExecIn (wIng a) 5 op fs)) wR (wExecIn (wIng a) 5 op fs)

/-- A run's descriptor: two samples of one picture of one element, for the host. -/
def wDesc (fs : List (Nat × Nat × Nat)) : List Byte :=
  wSet (zeros 256) ([(0, 4, 0x4E55525A), (4, 1, 1), (5, 1, 1), (0x14, 4, 1), (0x18, 8, 2), (0x2C, 4, 1), (0x41, 1, 1), (0x42, 1, 1), (0x44, 1, 0xFF),
    (0x56, 2, 1), (0x74, 2, 1), (0x76, 2, 1), (0x98, 8, 0x1000000), (0xA8, 8, 0x2000000), (0xB0, 8, 4096), (0xB8, 4, 4096)] ++ fs)

/-- The run of that descriptor, of another request, with `n` local elements and the pieces `l` staged. -/
def wRunOf (fs : List (Nat × Nat × Nat)) (n : Nat) (l : List Piece) : Run :=
  { req := ⟨0, false, 2⟩, desc := wDesc fs, seed := 0, gen := wGen [], n, batch := 0, stop := 2, samples := [], staged := l, delivered := []
    pieces := 0, samplesDone := 0, damaged := 0, unreadable := 0, pictures := 0, failed := 0 }

/-- TARGET's payload. -/
def wTargetPay : List Byte := wSet (zeros 128) [(1, 1, 4), (3, 1, 8), (0x3C, 4, 1)]

abbrev wTargets (a : IngPart) (pay : List Byte) : Prop :=
  let s := wHost (wIng a) pay
  let fs := wIn 128
  wTurn s 5 5 fs ∧ inPayload (wReqOn s (wExecIn s 5 5 fs)) (wExecIn s 5 5 fs) = pay ∧ NothingEarlier (wReqOn s (wExecIn s 5 5 fs)) wR (wExecIn s 5 5 fs)

/-- A source of more than 2 ^ 48 frames makes as many clips of one frame. -/
theorem wMany (l : List FrameRec) (h : 2 ^ 48 < l.length) : 2 ^ 48 < clipCount (wGen [{ wSource with info := { wInfo with frames := l } }]) := by
  have e : (srcClips (wGen []) { wSource with info := { wInfo with frames := l } }).length = l.length - 1 + 1 := by
    have hl : ¬ l.length < 1 := by omega
    simp only [srcClips, wGen, hl]
    simp
    all_goals (rw [List.filter_eq_self.2 (by simp)]; simp)
  show 2 ^ 48 < 0 + (srcClips (wGen []) { wSource with info := { wInfo with frames := l } }).length
  omega

/-- An extent out of the namespace, and a good one; no source and one; a catalogue of too many clips (`wMany`), and a good one; a target in use, a bad one and a good one. -/
theorem witness_IngestSources :
    (wIngTurn ingPartReset 1 [(0x20, 4, 1), (0x30, 8, 2 ^ 30)] ∧ badSourceExtent (wIng ingPartReset) 0 1 0 (2 ^ 30) 0 = some 0x30) ∧
    (wIngTurn ingPartReset 1 [(0x20, 4, 1), (0x30, 8, 4096), (0x38, 8, 4)] ∧ badSourceExtent (wIng ingPartReset) 0 1 0 4096 4 = none) ∧
    (wIngTurn ingPartReset 1 [(0x20, 4, 1), (0x30, 8, 4096), (0x38, 8, 5)] ∧ badSourceExtent (wIng ingPartReset) 0 1 0 4096 5 = some 0x38) ∧
    (wIngTurn ingPartReset 2 [] ∧ sourceOf (wIng ingPartReset) 0 0 = none) ∧
    (wIngTurn { ingPartReset with sources := [wSource] } 2 [] ∧ sourceOf (wIng { ingPartReset with sources := [wSource] }) 0 0 = some wSource) ∧
    (wIngTurn { ingPartReset with sources := [wSource] } 3 [(0x20, 4, 1), (0x24, 4, 1)] ∧
      commitSources [wSource] 0 = [wSource] ∧ clipCount (wGen [wSource]) = 1) ∧
    wIngTurn ingPartReset 4 [] ∧
    (wTargets { ingPartReset with run := some (wRunOf [(0x44, 1, 0)] 0 []) } wTargetPay ∧
      targetInUse (wIng { ingPartReset with run := some (wRunOf [(0x44, 1, 0)] 0 []) }) 0 0 = true) ∧
    (wTargets ingPartReset (zeros 128) ∧ badTarget (wIng ingPartReset) 0 (zeros 128) = some 1 ∧ targetInUse (wIng ingPartReset) 0 0 = false) ∧
    (wTargets ingPartReset wTargetPay ∧ badTarget (wIng ingPartReset) 0 wTargetPay = none) := by
  and_intros <;> decide +kernel

/-! ### Runs and delivery -/

/-- RUN with no upper timeout, accepted under the configuration of `s`. -/
def wRunExec (s : State) : Exec := { wExecIn s 5 6 (wIn 256) with timeoutUs := none }

abbrev wStarts (s : State) (a : IngPart) (d : List Byte) : Prop :=
  let t := wReqOn (wHost { s with ing := { ingReset with parts := [(0, a)] } } d) (wRunExec s)
  Outlet t wR (wRunExec s) ∧ AtTurn t wR (wRunExec s) 5 6 ∧ inPayload t (wRunExec s) = d ∧ (ingPart t 0).gens = a.gens ∧
    (ingPart t 0).run = a.run ∧ (ingPart t 0).targets = [] ∧ listRange t d = none

/-- P0 without decode engines. -/
def wNoEngines : State :=
  { wUp with prt := { wUp.prt with cfg := { wUp.prt.cfg with parts := wUp.prt.cfg.parts.map fun q => (q.1, { q.2 with engines := 0 }) } } }

def wPiece (k e : Nat) : Piece := { batch := k, entry := e, addr := 0x2000000, len := 256 }

/-- FETCH with room for `n` bytes, while a run has the piece `q` staged and the next batch is for the host. -/
abbrev wFetches (a : IngPart) (n : Nat) : Prop :=
  let fs := [(3, 1, 2), (0x10, 8, 0x10000), (0x18, 4, n)]
  let x := wExecIn (wIng a) 5 7 fs
  wTurn (wIng a) 5 7 fs ∧ (ingPart (wReqOn (wIng a) x) 0).run = a.run ∧ outRoom (wReqOn (wIng a) x) x = n ∧ fetches (wReqOn (wIng a) x) 0 = [wR] ∧
    poisonedLine (wReqOn (wIng a) x) 0x2000000 256 = none

def wRunning (r : Run) (l : Tbl Target) : IngPart := { ingPartReset with gens := [wGen []], run := some r, targets := l }

/-- A target, with its writes in flight. -/
def wTarget (l : List RdmaWrite) : Target :=
  { desc := wTargetPay, localQpn := 0, creditRkey := 0, creditAddr := 0, consumed := 0, sent := 0, delivered := 0, psn := 1, rqPsn := 0, flight := l
    timeouts := 0, rate := 1000, rateAt := 0, sentAt := 0, freeAt := 0, failed := false }

def wWrite (notice : Bool) : RdmaWrite := { k := 0, notice, psn := 0, packets := 1, acked := 0, addr := 0, data := zeros 64 }

/-- No target of these has failed. -/
theorem wNoneFailed (y : Target) (h : y.failed = false) (s : State) (l : Tbl Target) (hl : (ingPart s 0).targets = l) (h2 : l = [] ∨ l = [(0, y)]) :
    ∀ k, (Machine.target s 0 k).any (·.failed) = false := by
  intro k
  simp only [Machine.target, hl]
  rcases h2 with rfl | rfl
  · rfl
  · simp only [tfind?]
    split
    · rfl
    · split
      · simp [h]
      · rfl

/-- A run while another executes, without engines, of no descriptor, and a good one; a sample decoded; a piece that is staged, and one too big for
its shard; FETCH with no run, too small, and with room; a piece sent while credit permits, and not; the acknowledgements of a piece and of its
notice; a NAK and a timeout with a write in flight, the last allowed and one too many; the rate of a port of one lane. -/
theorem witness_IngestWork :
    (wStarts wUp (wRunning (wRunOf [] 0 []) []) (zeros 256) ∧ (wRunOf [] 0 []).req ≠ wR) ∧
    (wStarts wNoEngines ingPartReset (zeros 256) ∧ enginesOf wNoEngines 0 = []) ∧
    (wStarts wUp ingPartReset (zeros 256) ∧ enginesOf wUp 0 ≠ [] ∧ (checkRun wUp 0 (zeros 256)).toOption = none) ∧
    (wStarts wUp { ingPartReset with gens := [wGen []] } (wDesc []) ∧
      (checkRun (wIng { ingPartReset with gens := [wGen []] }) 0 (wDesc [])).toOption = some (wGen []) ∧
      runTimeoutOk wUp 0 (wDesc []) (wRunExec wUp) = true ∧ runFirst (wDesc []) < runStop (wDesc [])) ∧
    ((0 : Nat) ∈ enginesOf (wIng (wRunning (wRunOf [] 1 []) [])) 0 ∧ stagedBytes (wRunOf [] 1 []) < fld (wRunOf [] 1 []).desc 0xB0 8 ∧
      (batchPositions (wRunOf [] 1 []) 0)[0]? = some (0, 0)) ∧
    (batchPositions (wRunOf [] 0 []) 0 = [] ∧ (lowestOpen (wRunOf [] 0 []) fun _ => true) = some 0 ∧
      (buildPiece (wIng (wRunning (wRunOf [] 0 []) [])) (wRunOf [] 0 [])).length = 256 ∧ fld (wRunOf [] 0 []).desc 0xB8 4 = 4096 ∧
      stagePlace (wRunOf [] 0 []) 256 = some 0x2000000 ∧ stagePlace (wRunOf [(0xB0, 8, 256)] 0 [wPiece 0 0]) 256 = none) ∧
    fld (wRunOf [(0xB8, 4, 64)] 0 []).desc 0xB8 4 < 256 ∧
    wTurn wUp 5 7 [(3, 1, 2), (0x10, 8, 0x10000), (0x18, 4, 256)] ∧
    (wFetches (wRunning (wRunOf [] 0 [wPiece 0 0xFF]) []) 64 ∧ wFetches (wRunning (wRunOf [] 0 [wPiece 0 0xFF]) []) 256 ∧
      (lowestOpen (wRunOf [] 0 [wPiece 0 0xFF]) fun b => tgtOf (wDesc []) b == 0xFF) = some 0 ∧
      (lowestOpen { wRunOf [] 0 [wPiece 0 0xFF] with delivered := [0] } fun _ => true) = some 1) ∧
    (Machine.target (wIng (wRunning (wRunOf [] 0 [wPiece 0 0]) [(0, wTarget [])])) 0 0 = some (wTarget []) ∧
      (piecesFor (wRunOf [] 0 [wPiece 0 0]) 0)[0]? = some (wPiece 0 0) ∧ (wTarget []).sent < (wTarget []).consumed + tSlots (wTarget []) ∧
      poisonedLine (wIng (wRunning (wRunOf [] 0 [wPiece 0 0]) [(0, wTarget [])])) 0x2000000 256 = none ∧
      { wTarget [] with sent := 1 }.consumed + tSlots (wTarget []) ≤ { wTarget [] with sent := 1 }.sent) ∧
    (Machine.target (wIng (wRunning (wRunOf [] 0 [wPiece 0 0]) [(0, wTarget [wWrite false])])) 0 0 = some (wTarget [wWrite false]) ∧
      Machine.target (wIng (wRunning (wRunOf [] 0 [wPiece 0 0]) [(0, wTarget [wWrite true])])) 0 0 = some (wTarget [wWrite true]) ∧
      (wTarget [wWrite true]).failed = false ∧ (wTarget []).psn = ((wWrite true).psn + (wWrite true).packets) % 2 ^ 24 ∧ tRetry (wTarget []) = 0 ∧
      tRetry (wTarget []) < (wTarget []).timeouts + 1 ∧ { wTarget [] with desc := wSet wTargetPay [(4, 1, 7)] }.timeouts + 1 ≤
        tRetry { wTarget [] with desc := wSet wTargetPay [(4, 1, 7)] }) ∧
    (portRate (wIng ingPartReset) 0 (wTarget []) = 200000 ∧ (wTarget []).rateAt + 55000 ≤ now { wUp with ts := 55000 }) := by
  and_intros <;> decide +kernel

/-! ### Writes of one block -/

theorem wFresh_seq (n : Nat) : writeSb { groupReset with seq := n } true = some 1114 ∧ nextSlot 1114 (sbOf { groupReset with seq := n } 1114) = some 0 := ⟨rfl, rfl⟩

theorem wProg_isSome (s : State) (g n : Nat) (x : FPage) (h : grp s g = { groupReset with seq := n }) : (progPage s g true x).isSome = true := by
  simp only [progPage, h, (wFresh_seq n).1, (wFresh_seq n).2]
  repeat' split
  all_goals rfl

theorem wUnits (lba : Nat) : unitsOf lba 1 = [(lba / 4, maskOf lba 1 (lba / 4))] := by
  have : (lba + 1 - 1) / 4 + 1 - lba / 4 = 1 := by omega
  simp only [unitsOf, this]; rfl

theorem wSeq (s : State) (g : Nat) (h : s.ftl.groups = []) : grp (writeSeq s [g]).1 g = { groupReset with seq := (writeSeq s [g]).2 + 1 } := by
  simp [writeSeq, grp, updGrp, h, tget_tmod_same, tget]

/-- A fresh flash takes a write of one block anywhere. -/
theorem wWritable (s : State) (ns lba : Nat) (bs : List Byte) (l : bs.length = 4096) (hg : s.ftl.groups = []) (hp : s.ftl.pins = [])
    (hc : pendingPages s = []) : (ftlWrite s ns lba bs).isSome = true := by
  have r (g : Nat) : grp s g = groupReset := by simp [grp, hg, tget]
  have u : unitsOf lba (bs.length / 4096) = [(lba / 4, maskOf lba 1 (lba / 4))] := by rw [l]; exact wUnits lba
  have w : writable s ns lba (bs.length / 4096) = true := by
    have f : (writeSb groupReset true).isSome = true := by rw [(wFresh_seq groupReset.seq).1]; rfl
    have pr (us : List Nat) : pinRoom s ns us = true := by simp [pinRoom, pinPairs, hp, natSum]
    have fr : fragRoom s ns (([(lba / 4, maskOf lba 1 (lba / 4))].filter fun x => x.2 != 0xF).map (·.1)) = true := by
      simp only [fragRoom, r, List.all_eq_true, decide_eq_true_eq]
      intro g _
      have a := List.length_filter_le (fun u => unitGroup s ns u == g && bits (entryOf s ns u) 39 38 != 3)
        (([(lba / 4, maskOf lba 1 (lba / 4))].filter fun x => x.2 != 0xF).map (·.1))
      have b := List.length_filter_le (fun x => x.2 != 0xF) [(lba / 4, maskOf lba 1 (lba / 4))]
      simp only [List.length_map, List.length_singleton] at a b
      have c : groupReset.frags.length = 0 := rfl
      omega
    simp [writable, u, pr, fr, r, f]
  have n : pendingUnit s ns (lba / 4) = false := by simp [pendingUnit, hc]
  have q := wSeq s (unitGroup s ns (lba / 4)) hg
  generalize hz : writeSeq s [unitGroup s ns (lba / 4)] = z at q
  have d (m : Nat) : unitGroup z.1 ns m = unitGroup s ns m := by subst hz; rfl
  simp only [ftlWrite, w, u, List.any_cons, List.any_nil, n, Bool.not_true, Bool.or_self, Bool.false_eq_true, if_false, List.map_cons, List.map_nil, hz,
    writePages]
  simp only [progPages, d]
  have p := wProg_isSome z.1 (unitGroup s ns (lba / 4)) (z.2 + 1)
    { kind := .data, nsid := ns, unit := lba / 4, mask := maskOf lba 1 (lba / 4), seq := z.2, lba := 0, count := 0
      data := (List.range 4).flatMap fun j =>
        if bitAt (maskOf lba 1 (lba / 4)) j then slice bs ((4 * (lba / 4) + j - lba) * 4096) 4096 else zeros 4096 } q
  revert p
  cases progPage z.1 (unitGroup s ns (lba / 4)) true _ <;> simp

/-- What an index keeps in its extent fits into a block of a fresh flash, wherever it goes. -/
theorem wStores (s : State) (k : Index) (f m : Nat) (h : ceilDiv f 4096 = 1) (hg : s.ftl.groups = []) (hp : s.ftl.pins = [])
    (hc : pendingPages s = []) : (storeIndex s k f m).isSome = true := by
  have l : (freeBytes s.free (ceilDiv f 4096 * 4096)).length = 4096 := by simp [freeBytes, h]
  have w := wWritable s k.nsid (k.slba + (freeVal s).toNat % (k.nblocks - ceilDiv f 4096 + 1)) _ l hg hp hc
  simpa [storeIndex] using w

/-! ### Scans and indexes -/

/-- A scan of one record of 64 bytes of namespace `ns` by the program `g`, with fields `fs`. -/
def wScanFs (ns : Nat) (fs : List (Nat × Nat × Nat)) : List (Nat × Nat × Nat) :=
  [(0x20, 4, ns), (0x24, 1, 6), (0x30, 8, 1), (3, 1, 0x12), (0x10, 8, 0x10000), (0x18, 4, 64)] ++ fs

/-- The namespace of one chunk's object, with the programs `l` on Iris units. -/
def wScanState (g : List Byte) (l : List SearchRun) : State := { wHost (wHas (wObj 2)) g with srch := { srchReset with runs := l } }

/-- A program that a request has on no channel. -/
def wSearch (r : ReqId) (e : Nat) (pay : List Byte) : SearchRun := { req := r, key := 0, epoch := e, payload := pay, chans := [], loaded := true, waited := false }

abbrev wScans (ns : Nat) (g : List Byte) (l : List SearchRun) (fs : List (Nat × Nat × Nat)) (table prog : Option Nat) (dest : Option Obj) : Prop :=
  let x := wExec 6 1 (wScanFs ns fs)
  let s := wReqOn (wScanState g l) x
  Outlet s wR x ∧ AtTurn s wR x 6 1 ∧ Memory.wf s.mem = true ∧
    (if bitAt (prm x 0x25 1) 1 then dest = destObj s (reqPart wR) (prm x 0x38 4) ∧ lostMapped s (prm x 0x38 4) = none else dest = none) ∧
    searchRun s wR = l.head? ∧ badTable s 0 ns 0 1 64 = table ∧ badProgram g 64 = prog

/-- The program that passes every record. -/
def wProgram : List Byte := wSet (zeros 64) [(0, 4, 0x5352495A), (4, 1, 1)]

/-- The end of that scan, where `bad` is the unit that fails. -/
abbrev wScanEnds (fs : List (Nat × Nat × Nat)) (room : Nat) (bad : Option Nat) (e : Bool) : Prop :=
  let s := wReqOn (wScanState wProgram [wSearch wR 0 wProgram]) (wExec 6 1 (wScanFs 1 fs))
  (scanUnits wR wProgram 1 0 64 1 (room / 64) none bad 1
      (begunExec s wR, { next := 0, scanned := 0, passed := 0, written := [], full := false })).2.2 = e

/-- The fields that name the object as the destination. -/
abbrev wDest : List (Nat × Nat × Nat) := [(0x25, 1, 2), (0x38, 4, wOH)]

/-- An index of one dimension and 256 lists, of at most `m` vectors, its model in the object at index 0. -/
def wIndexDesc (m : Nat) : List Byte :=
  wSet (zeros 64) [(0, 4, 0x5844495A), (4, 1, 1), (6, 1, 8), (7, 1, 1), (8, 2, 1), (0x0C, 1, 1), (0x10, 8, m), (0x18, 8, 0x40000000), (0x20, 8, 2 ^ 31),
    (0x28, 4, wOH)]

def wIndex (m : Nat) : Index :=
  { gen := 1, desc := wIndexDesc m, nsid := 1, slba := 0, nblocks := 0, model := zeros 1024, epoch := 1, recs := [], dels := [], merging := none, held := [] }

/-- The index at index 0 of P0, with its model's object, a wide namespace, the payload `pay` in host memory, the programs `l`, and MB001 executing
a QUERY if `q`. -/
def wIndexed (k : Option Index) (pay : List Byte) (l : List SearchRun) (q : Bool) : State :=
  let s := wHost { wHas (wObj 6) with
    ftl := { ftlReset with nss := [(1, { blocks := 2 ^ 20, attached := 1, shared := false, epoch := 0, legacy := false })] }
    srch := { srchReset with
      indexes := match k with
        | some k => [(0, k)]
        | none => []
      runs := l } } pay
  if q then updMb s 1 fun m => { m with execs := [{ wExec 6 7 [] with order := 1 }] } else s

abbrev wIndexReq (k : Option Index) (pay : List Byte) (l : List SearchRun) (q : Bool) (op : Nat) (fs : List (Nat × Nat × Nat)) : Prop :=
  let s := wIndexed k pay l q
  let f := (if pay.isEmpty then [] else wIn pay.length) ++ (0x20, 4, wOH) :: fs
  wReqTurn s 6 op f ∧ indexOf s 0 wOH = k ∧ ownsCluster s 0 = true ∧ inPayload (wReqOn s (wExec 6 op f)) (wExec 6 op f) = pay ∧ Memory.wf s.mem = true ∧
    searchRun (wReqOn s (wExec 6 op f)) wR = l.head?.filter (fun y => y.req == wR)

abbrev wIndexTurn (k : Option Index) (pay : List Byte) (op : Nat) (fs : List (Nat × Nat × Nat)) : Prop := wIndexReq k pay [] false op fs

/-- A batch of one vector. -/
def wBatch : List Byte := wSet (zeros 128) [(0, 4, 0x534E495A), (4, 1, 1), (8, 4, 1)]

/-- The program of a QUERY of MB001 at epoch 5. -/
abbrev wOther : SearchRun := wSearch ⟨1, false, 1⟩ 5 (zeros 2)

/-- SCAN that begins: a table out of its namespace, no destination that may be written, a program that is none, and a good one; and SCAN whose program is loaded,
to host memory and to an object, ending as it should and at a unit that fails. -/
theorem witness_ScansAndIndexes_scan :
    wScans 2 wProgram [] [] (some 0x20) none none ∧ wScans 1 wProgram [] [(0x25, 1, 2)] none none none ∧ wScans 1 (zeros 64) [] [] none (some 0) none ∧
    wScans 1 wProgram [] [] none none none ∧ wScans 1 wProgram [] wDest none none (some (wObj 2)) ∧
    (wScans 1 wProgram [wSearch wR 0 wProgram] [] none none none ∧ outRoom (wScanState wProgram []) (wExec 6 1 (wScanFs 1 [])) - 64 = 0 ∧
      wScanEnds [] 0 none false) ∧
    (wScans 1 wProgram [wSearch wR 0 wProgram] wDest none none (some (wObj 2)) ∧ wScanEnds wDest 65536 none false ∧ wScanEnds wDest 65536 (some 0) true) := by
  and_intros <;> decide +kernel

/-- The index requests on no index; CREATE of a bad descriptor and a good one; DROP while a merge runs or a QUERY executes and after; INSERT of a bad batch, of a
vector too many, and of one; DELETE, COMMIT, MERGE begun and going on, INFO; QUERY of an epoch that none holds, of the newest with every bound at its limit, of one
that another QUERY holds, and QUERY whose program is loaded. What is to be stored fits: `wStored`. -/
theorem witness_ScansAndIndexes :
    (wIndexTurn none [] 3 [] ∧ wIndexTurn none [] 4 [] ∧ wIndexTurn none [] 5 [] ∧ wIndexTurn none [] 6 [] ∧ wIndexTurn none [] 7 [] ∧
      wIndexTurn none [] 9 []) ∧
    (wIndexTurn none (zeros 64) 2 [] ∧ badIndexDesc (zeros 64) = some 0) ∧
    (let s := wIndexed none [] [] false
     let d := wIndexDesc 1
     wIndexTurn none d 2 [(0x20, 4, 1), (0x30, 8, 2 ^ 19 + 2 ^ 12)] ∧ badIndexDesc d = none ∧ modelObj s 0 d = some (wObj 6) ∧
      lostMapped s (fld d 0x28 4) = none ∧ trackedLines s (wObj 6).daddr (modelBytes d) = [] ∧ poisonedLine s (wObj 6).daddr (modelBytes d) = none ∧
      (modelFor s d (wObj 6)).isSome = true ∧ badHomes s 0 1 0 (2 ^ 19 + 2 ^ 12) d = none ∧ (indexesOf s 0).length < 16 ∧
      (List.range 17).find? (fun i => (tfind? s.srch.indexes (0 * 65536 + i)).isNone) = some 0) ∧
    (wIndexTurn (some { wIndex 1 with merging := some (wR, 1) }) [] 3 [] ∧ wIndexReq (some (wIndex 1)) [] [wOther] true 3 [] ∧
      queried (wIndexed (some (wIndex 1)) [] [wOther] true) 0 = true ∧ wIndexTurn (some (wIndex 1)) [] 3 [] ∧
      queried (wIndexed (some (wIndex 1)) [] [] false) 0 = false ∧ asterPlaced (wIndexed none [] [] false) 0 (wIndex 1) = true) ∧
    (wIndexTurn (some (wIndex 1)) (zeros 128) 4 [] ∧ badBatch (zeros 128) = some 0) ∧
    (wIndexTurn (some (wIndex 0)) wBatch 4 [] ∧ badBatch wBatch = none ∧ wBatch.length = 0x40 + fld wBatch 8 4 * insertEntry (wIndexDesc 0) ∧
      findIx (badVector (wIndexDesc 0)) (batchEntries (wIndexDesc 0) wBatch) = none ∧
      iMax (wIndexDesc 0) < pendingCount ((batchEntries (wIndexDesc 0) wBatch).foldl insertOne (wIndex 0))) ∧
    (wIndexTurn (some (wIndex 1)) wBatch 4 [] ∧ pendingCount ((batchEntries (wIndexDesc 1) wBatch).foldl insertOne (wIndex 1)) ≤ iMax (wIndexDesc 1) ∧
      2 * sideUsed ((batchEntries (wIndexDesc 1) wBatch).foldl insertOne (wIndex 1)) ≤ sideSize) ∧
    (wIndexTurn (some (wIndex 1)) (zeros 8) 5 [] ∧ 2 * sideUsed (deleteOne (wIndex 1, 0) 0).1 ≤ sideSize) ∧
    wIndexTurn (some (wIndex 1)) [] 6 [] ∧
    (wIndexTurn (some (wIndex 1)) [] 8 [] ∧ wIndexTurn (some { wIndex 1 with merging := some (wR, 1) }) [] 8 []) ∧
    wIndexTurn (some (wIndex 1)) [] 9 [] ∧
    (wIndexTurn (some (wIndex 1)) (zeros 2) 7 [(0x2A, 1, 1), (0x24, 4, 2)] ∧ queryEpoch (wIndexed none [] [] false) 0 (wIndex 1) 2 = none ∧
      wIndexTurn (some (wIndex 1)) (zeros 2) 7 [(0x2A, 1, 1), (0x24, 4, 1), (0x2C, 4, 256), (0x30, 4, 256)] ∧ iNlist (wIndexDesc 1) = 256 ∧
      queryEpoch (wIndexed none [] [] false) 0 (wIndex 1) 1 = some 1 ∧ payProgram (wIndexDesc 1) (zeros 2) 1 = none ∧
      findIx (fun q => !q.all isFinite) (payQueries (wIndexDesc 1) (zeros 2) 1) = none) ∧
    (wIndexReq (some (wIndex 1)) (zeros 2) [wOther] true 7 [(0x2A, 1, 1), (0x24, 4, 5)] ∧
      queryEpoch (wIndexed none [] [wOther] true) 0 (wIndex 1) 5 = some 5) ∧
    wIndexReq (some (wIndex 1)) (zeros 2) [wSearch wR 1 (zeros 2)] false 7 [(0x2A, 1, 1)] := by
  and_intros <;> decide +kernel

/-- What CREATE, INSERT, DELETE, COMMIT and MERGE of these states store fits. -/
theorem wStored (k : Option Index) (k' : Index) (pay : List Byte) (x : Exec) :
    (let s := wReqOn (wIndexed k pay [] false) x
     (storeIndex s k' 64 4608).isSome = true ∧ (storeIndex s k' 128 4096).isSome = true ∧ (storeIndex s k' 8 0).isSome = true ∧
      (storeIndex s k' 4 0).isSome = true) ∧
    listPages (mergeIndex 1 (wIndex 1)) = 0 ∧
    (storeIndex (wReqOn (wIndexed (some { wIndex 1 with merging := some (wR, 1) }) [] [] false) (wExec 6 8 [(0x20, 4, wOH)])) (wIndex 1) 0 0).isSome = true := by
  refine ⟨?_, by decide +kernel, ?_⟩
  · and_intros <;> exact wStores _ _ _ _ (by decide) rfl rfl rfl
  · simp [storeIndex, ftlWrite, writable, unitsOf, pinRoom, fragRoom, pinPairs, freeBytes, ceilDiv, writePages, progPages, natSum]
    decide +kernel

end Sys2Proof.Machine
end

