-- ==== Sys2Proof/Tests/WitnessNvme.lean ====
section
/-! SUPPORT. States and operands that meet the hypotheses of the statements about NVMe, one theorem for each statement, its clauses in
order. -/

namespace Sys2Proof.Machine

set_option Elab.async false

def wSq (n : Nat) : Sq := { size := 16, base := 0x30000 + n * 4096, cqid := n, prio := 0, ordered := false, head := 0, tail := 0, dbs := [], deleting := false }
def wCq (n : Nat) : Cq :=
  { size := 16, base := 0x40000 + n * 4096, iv := 0, ien := true, head := 0, tail := 0, phase := true }

/-- A command of queue `q` with identifier `cid` and its fields set. -/
def wNCmd (q : Nat) (cid : Half) (fs : List (Nat × Nat × Nat)) : NCmd :=
  { key := ⟨0, q, cid⟩, sqe := wSet (zeros 64) fs, order := 0, urgent := false, ordered := false, dbTs := 0, committed := false, pend := []
    journalled := false, done := none }

/-- Controller 0 enabled, with the admin queues and one pair of I/O queues, and these commands outstanding. -/
def wCtrl (l : List NCmd) : Ctrl :=
  { ctrlReset with cc := 1, rdy := true, sqs := [(0, wSq 0), (1, wSq 1)], cqs := [(0, wCq 0), (1, wCq 1)], cmds := l }

def wOn (s : State) (c : Ctrl) : State := { s with nvm := { nvmReset with ctrls := [(0, c)] } }

/-- A command of queue `q`, between others, on controller 0 changed by `g`, over a state. -/
abbrev wNTurn (s : State) (q : Nat) (fs : List (Nat × Nat × Nat)) (l l' : List NCmd) (g : Ctrl → Ctrl) : Prop :=
  NvmeTurn (wOn s (g (wCtrl (l ++ wNCmd q 7 fs :: l')))) ⟨0, q, 7⟩ (wNCmd q 7 fs) l l' (wSq q) (wCq q)

/-- An admin command alone. -/
abbrev wAdmin (fs : List (Nat × Nat × Nat)) : Prop := wNTurn wNs 0 fs [] [] id

/-- The admin queue with an entry to fetch. -/
def wFetch (l : List NCmd) : State := wOn wUp { wCtrl l with sqs := [(0, { wSq 0 with tail := 1 })] }

/-- Aborts and event requests outstanding. -/
def wAborts (n : Nat) : List NCmd := (List.range n).map fun i => wNCmd 0 (BitVec.ofNat 16 (100 + i)) [(0, 1, 8)]
def wAers (n : Nat) : List NCmd := (List.range n).map fun i => wNCmd 0 (BitVec.ofNat 16 (100 + i)) [(0, 1, 0x0C)]

/-- Doorbells at the last place; a fetch with the pool full and with it empty; CC.EN set, cleared, and a shutdown; then the admin commands, each
refusal and each success; a fifth Abort, Abort of no command and of one that waits; a fifth event request, one that takes an event, and one
that waits. -/
theorem witness_NvmeQueues :
    (serving (ctrl (wOn wUp (wCtrl [])) 0) = true ∧ tfind? (ctrl (wOn wUp (wCtrl [])) 0).sqs 1 = some (wSq 1) ∧ (15 : Half).toNat < (wSq 1).size ∧
      tfind? (ctrl (wOn wUp (wCtrl [])) 0).cqs 1 = some (wCq 1)) ∧
    (serving (ctrl (wFetch []) 0) = true ∧ (wFetch []).rst.halt = .no ∧ (arbitrate (ctrl (wFetch []) 0)).isSome = true ∧
      contextFree 0 (ctrl (wFetch []) 0) false = true ∧
      contextFree 0 (ctrl (wFetch (List.replicate 4096 (wNCmd 1 7 []))) 0) false = false) ∧
    (fetchRefusal (wFetch []) 0 0 (mread (wFetch []).hmem 0x30000 64) = none ∧
      fetchRefusal { wFetch [] with hmem := mwrite [] 0x30000 [3] } 0 0 (mread (mwrite [] 0x30000 [3]) 0x30000 64) = some stOpcode) ∧
    (ctrlExists wUp 0 = true ∧ (ctrl wUp 0).cc.getLsbD 0 = false ∧ (ctrl (wOn wUp (wCtrl [])) 0).cc.getLsbD 0 = true ∧
      bits (0x4001#32).toNat 15 14 ≠ 0 ∧ (ctrl wUp 0).resetting = false) ∧
    wAdmin [(0, 1, 5), (40, 4, 0x10000)] ∧ wAdmin [(0, 1, 5), (40, 4, 0x10101)] ∧ wAdmin [(0, 1, 5), (40, 4, 0x10001)] ∧
    (wAdmin [(0, 1, 5), (40, 4, 0x10100), (44, 4, 1)] ∧ tfind? (wCtrl []).cqs 256 = none) ∧
    (wAdmin [(0, 1, 1), (40, 4, 0x10100)] ∧ tfind? (wCtrl []).sqs 256 = none) ∧
    (wAdmin [(0, 1, 1), (40, 4, 0x10100), (44, 4, 0x10001)] ∧ (tfind? (wCtrl []).cqs 1).isSome = true) ∧
    wAdmin [(0, 1, 0), (40, 4, 2)] ∧ wAdmin [(0, 1, 0), (40, 4, 1)] ∧
    (wNTurn wNs 0 [(0, 1, 0), (40, 4, 1)] [{ wNCmd 1 5 [] with committed := true }] [] id ∧ tfind? (wCtrl []).sqs 1 = some (wSq 1)) ∧
    (wAdmin [(0, 1, 4), (40, 4, 1)] ∧ (wCtrl []).sqs.any (fun z => z.2.cqid == 1) = true) ∧
    wNTurn wNs 0 [(0, 1, 4), (40, 4, 1)] [] [] (fun c => { c with sqs := [(0, wSq 0)] }) ∧
    wNTurn wNs 0 [(0, 1, 8)] (wAborts 4) [] id ∧
    (wNTurn wNs 0 [(0, 1, 8), (40, 4, 1)] (wAborts 3) [] id ∧ findCmd (wOn wNs (wCtrl [])) ⟨0, 1, 0⟩ = none) ∧
    (wNTurn wNs 0 [(0, 1, 8), (40, 4, 0x50001)] [] [wNCmd 1 5 []] id ∧ (wNCmd 1 5 []).committed = false ∧ tfind? (wCtrl []).sqs 1 = some (wSq 1) ∧
      tfind? (wCtrl []).cqs (wSq 1).cqid = some (wCq 1) ∧ cqFull (wCq 1) = false ∧ (wSq 1).cqid ≠ (wSq 0).cqid ∧ (⟨0, 1, 5⟩ : CmdKey) ≠ ⟨0, 0, 7⟩) ∧
    wNTurn wNs 0 [(0, 1, 0x0C)] (wAers 4) [] id ∧ wNTurn wNs 0 [(0, 1, 0x0C)] [] (wAers 3) (fun c => { c with events := [5] }) ∧
    wNTurn wNs 0 [(0, 1, 0x0C)] (wAers 3) [] id := by
  and_intros <;> decide +kernel

/-! ### Administration -/

/-- Every die group in state `st`, with these NVMe namespaces and the host's bytes at 0x50000. -/
def wFlash (st : Fin 3) (nss : Tbl Ns) (pay : List Byte) : State :=
  { wUp with
    ftl := { ftlReset with groups := (List.range 32).map (fun g => (g, { groupReset with st })), nss }
    hmem := mwrite [] 0x50000 pay }

def wNsRec (attached : BitVec 17) (legacy : Bool) : Ns := { blocks := 64, attached, shared := false, epoch := 0, legacy }

abbrev wAdminOn (s : State) (fs : List (Nat × Nat × Nat)) (g : Ctrl → Ctrl) : Prop := wNTurn s 0 ((24, 8, 0x50000) :: fs) [] [] g
abbrev wAdm (s : State) (fs : List (Nat × Nat × Nat)) : Prop := wAdminOn s fs id

/-- The entry of such a command. -/
def wSqe (fs : List (Nat × Nat × Nat)) : List Byte := (wNCmd 0 7 ((24, 8, 0x50000) :: fs)).sqe

/-- A write of block 0 of namespace 1 past its commit point. -/
def wWriting : NCmd := { wNCmd 1 5 [(0, 1, 1), (4, 4, 1)] with committed := true }

/-- A self-test. -/
def wSelfTest (seg : Nat) (stopped : Bool) : SelfTest := { ext := false, nsid := 1, segment := seg, step := 0, stopped }

/-- The namespace a create asks for: `n` blocks for partition 0. -/
def wCreateNs (n : Nat) : List Byte := wSet (zeros 104) [(0, 8, n), (8, 8, n), (102, 2, 1)]

/-- The fields NAMESPACE_MANAGEMENT looks at in the data of a command. -/
def wNsFields (s : State) : Option (List Nat) :=
  (hostGet s ⟨0, 0, 7⟩ (wSqe []) 4096).toOption.map fun (_, d) => [fld d 102 2, fld d 26 1, fld d 29 1, fld d 0 8, fld d 8 8]

/-- Get Log Page and Identify refused and answered; Get Features refused and answered; Set Features with SV, of an unknown feature, of a plain one,
and of each kind of power state; self-tests aborted, started twice and started; downloads that are not aligned, and that are; commits of slot 0,
of a block that verifies and one that does not, and of an image; steps of a test. Then a namespace created beyond the capacity and within it,
deleted, a deletion that waits, attached twice and once, and formatted in each state of its groups, or waiting for a write. -/
theorem witness_NvmeAdministration :
    (wAdm wNs [(0, 1, 2), (40, 4, 0x7F)] ∧ (logAns wNs 0 (wSqe [(0, 1, 2), (40, 4, 0x7F)])).toOption = none) ∧
    (wAdm wNs [(0, 1, 2), (40, 4, 2)] ∧ (logAns wNs 0 (wSqe [(0, 1, 2), (40, 4, 2)])).toOption.isSome = true ∧
      (dataPieces wNs (wSqe []) 4).toOption = some ([], [(0x50000, 4)])) ∧
    (wAdm wNs [(0, 1, 6), (40, 4, 3)] ∧ (identifyAns wNs 0 (wSqe [(0, 1, 6), (40, 4, 3)])).toOption = none) ∧
    (wAdm wNs [(0, 1, 6), (40, 4, 1)] ∧ (identifyAns wNs 0 (wSqe [(0, 1, 6), (40, 4, 1)])).toOption.isSome = true) ∧
    (wAdm wNs [(0, 1, 0x0A), (40, 4, 3)] ∧ (featureAns wNs 0 (wSqe [(0, 1, 0x0A), (40, 4, 3)])).toOption = none) ∧
    (wAdm wNs [(0, 1, 0x0A), (40, 4, 2)] ∧ (featureAns wNs 0 (wSqe [(0, 1, 0x0A), (40, 4, 2)])).toOption = some (0, [])) ∧
    (wAdm wNs [(0, 1, 9), (40, 4, 0x80000001)] ∧ wAdm wNs [(0, 1, 9), (40, 4, 3)] ∧ 3 ∉ featIds ∧ wAdm wNs [(0, 1, 9), (40, 4, 0x0B)]) ∧
    (wAdm wNs [(0, 1, 9), (40, 4, 2), (44, 4, 5)] ∧ wAdm (wRun (wJob [] .running [0]) id) [(0, 1, 9), (40, 4, 2), (44, 4, 4)] ∧
      workInProgress (wRun (wJob [] .running [0]) id) = true ∧ wAdm wNs [(0, 1, 9), (40, 4, 2), (44, 4, 4)] ∧ workInProgress wNs = false ∧
      wAdm wNs [(0, 1, 9), (40, 4, 2), (44, 4, 2)]) ∧
    (wAdm wNs [(0, 1, 0x14), (40, 4, 0xF)] ∧ wAdm wNs [(0, 1, 0x14), (4, 4, 1), (40, 4, 1)] ∧ nsVisible wNs 0 1 = true ∧
      wAdminOn wNs [(0, 1, 0x14), (40, 4, 2)] (fun c => { c with selfTest := some (wSelfTest 1 false) })) ∧
    (wAdm wNs [(0, 1, 0x11), (44, 4, 1)] ∧ wAdm wNs [(0, 1, 0x11), (40, 4, 15), (44, 4, 1024)] ∧ (hostGet wNs ⟨0, 0, 7⟩ (wSqe []) 64).toOption.map (·.2) = some (zeros 64)) ∧
    (wAdm wNs [(0, 1, 0x10)] ∧ wNs.fw.job = none ∧ wAdm wNs [(0, 1, 0x10), (40, 4, 0x11)] ∧ blockVerifies wNs 0 = true ∧
      wAdm { wNs with fw := { wNs.fw with blocks := [] } } [(0, 1, 0x10), (40, 4, 0x12)] ∧
      blockVerifies { wNs with fw := { wNs.fw with blocks := [] } } 1 = false ∧ wAdm wNs [(0, 1, 0x10), (40, 4, 2)] ∧ wNs.fw.running = 0) ∧
    (wAdminOn wNs [] (fun c => { c with selfTest := some (wSelfTest 3 false) }) ∧ 1 < segSteps wNs 0 (wSelfTest 3 false) ∧
      wAdminOn wNs [] (fun c => { c with selfTest := some (wSelfTest 3 true) })) ∧
    (wAdm (wFlash 1 [] (wCreateNs (2 ^ 60))) [(0, 1, 0x0D)] ∧ wNsFields (wFlash 1 [] (wCreateNs (2 ^ 60))) = some [1, 0, 0, 2 ^ 60, 2 ^ 60] ∧
      partCap (wFlash 1 [] (wCreateNs (2 ^ 60))) 0 < 2 ^ 60 * 4096) ∧
    (wAdm (wFlash 1 [] (wCreateNs 1)) [(0, 1, 0x0D)] ∧ wNsFields (wFlash 1 [] (wCreateNs 1)) = some [1, 0, 0, 1, 1] ∧
      isActive (wFlash 1 [] []) 0 = true ∧ isSealed (wFlash 1 [] []) 0 = false ∧ 4096 ≤ partCap (wFlash 1 [] (wCreateNs 1)) 0 ∧
      ((List.range 64).map (· + 64 * 0 + 1)).find? (fun n => (nsOf (wFlash 1 [] (wCreateNs 1)) n).isNone) = some 1) ∧
    (wAdm (wFlash 1 [(1, wNsRec 0 false)] []) [(0, 1, 0x0D), (4, 4, 1), (40, 4, 1)] ∧ attachedTo (wFlash 1 [(1, wNsRec 0 false)] []) 1 = [] ∧
      wAdm (wFlash 1 [] []) [(0, 1, 0x0D), (4, 4, 1), (40, 4, 1)] ∧ nsVisible (wFlash 1 [] []) 0 1 = false ∧
      nsVisible (wFlash 1 [(1, wNsRec 0 false)] []) 0 1 = true ∧
      (journalDelete (wFlash 1 [(1, wNsRec 0 false)] []) 1).isSome = true ∧
      wNTurn (wFlash 1 [(1, wNsRec 0 false)] []) 0 [(0, 1, 0x0D), (4, 4, 1), (40, 4, 1)] [wWriting] [] id ∧
      journalDelete (wOn (wFlash 1 [(1, wNsRec 0 false)] []) (wCtrl [wWriting])) 1 = none) ∧
    (wAdm (wFlash 1 [(1, wNsRec 1 false)] [1]) [(0, 1, 0x15), (4, 4, 1)] ∧
      ((hostGet (wFlash 1 [(1, wNsRec 1 false)] [1]) ⟨0, 0, 7⟩ (wSqe []) 4096).toOption.map fun (_, d) => (fld d 0 2, fld d 2 2)) = some (1, 0) ∧
      mayAttach (wFlash 1 [(1, wNsRec 1 false)] [1]) 1 0 = true ∧ (tget 0 (wCtrl []).feats 0x0B).getLsbD 8 = false ∧ wAdm (wFlash 1 [(1, wNsRec 0 false)] [1]) [(0, 1, 0x15), (4, 4, 1)]) ∧
    (wAdm (wFlash 0 [(1, wNsRec 1 false)] []) [(0, 1, 0x80), (4, 4, 1)] ∧ nsReady (wFlash 0 [(1, wNsRec 1 false)] []) 1 = false ∧
      wAdm (wFlash 2 [(1, wNsRec 1 false)] []) [(0, 1, 0x80), (4, 4, 1)] ∧ (nsReadOnly (wFlash 2 [(1, wNsRec 1 false)] []) 1).isSome = true ∧
      writesBefore (wFlash 2 [(1, wNsRec 1 false)] []) (wNCmd 0 7 []) [1] = false ∧
      wAdm (wFlash 1 [(1, wNsRec 1 false)] []) [(0, 1, 0x80), (4, 4, 1)] ∧ nsReady (wFlash 1 [(1, wNsRec 1 false)] []) 1 = true ∧
      nsReadOnly (wFlash 1 [(1, wNsRec 1 false)] []) 1 = none ∧ claimed (wFlash 1 [(1, wNsRec 1 false)] []) 1 0 64 = false ∧
      writesBefore (wOn (wFlash 1 [(1, wNsRec 1 false)] []) (wCtrl [wWriting])) { wNCmd 0 7 [(0, 1, 0x80), (4, 4, 1)] with order := 1 } [1] = true ∧
      NvmeTurn (wOn (wFlash 1 [(1, wNsRec 1 false)] []) (wCtrl [wWriting, { wNCmd 0 7 [(0, 1, 0x80), (4, 4, 1)] with order := 1 }])) ⟨0, 0, 7⟩
        { wNCmd 0 7 [(0, 1, 0x80), (4, 4, 1)] with order := 1 } [wWriting] [] (wSq 0) (wCq 0) ∧
      (ftlJournal (wFlash 1 [(1, wNsRec 1 false)] []) .zeroes 1 0 64).isSome = true) := by
  and_intros <;> decide +kernel

/-! ### Input and output -/

/-- An I/O command on NSID 1, its data at 0x50000. -/
def wIoFs (opc ns : Nat) (fs : List (Nat × Nat × Nat)) : List (Nat × Nat × Nat) := [(0, 1, opc), (4, 4, ns), (24, 8, if opc = 8 ∨ opc = 0 then 0 else 0x50000)] ++ fs

/-- The command alone on queue 1, with nothing earlier outstanding on its blocks, and what R366-R371 find wrong. -/
abbrev wIo (s : State) (opc ns : Nat) (fs : List (Nat × Nat × Nat)) (ranged data : Bool) (bad : Option ((Nat × Nat) × Bool)) : Prop :=
  wNTurn s 1 (wIoFs opc ns fs) [] [] id ∧ earlierOverlap (wOn s (wCtrl [wNCmd 1 7 (wIoFs opc ns fs)])) (wNCmd 1 7 (wIoFs opc ns fs)) = false ∧
    (wNCmd 1 7 (wIoFs opc ns fs)).committed = false ∧
    ioCheck (wOn s (wCtrl [wNCmd 1 7 (wIoFs opc ns fs)])) ⟨0, 1, 7⟩ (wNCmd 1 7 (wIoFs opc ns fs)).sqe ranged data = bad

/-- Namespace 1 of 64 blocks on groups that are READY, the last measurement of the bank 6.00 J. -/
def wVolume (legacy : Bool) (pay : List Byte) : State :=
  { wFlash 1 [(1, wNsRec 1 legacy)] pay with ftl := { (wFlash 1 [(1, wNsRec 1 legacy)] pay).ftl with energy := 600 } }

/-- A group none of whose SLC superblocks has a page left. -/
def wFullGroup : Group := { groupReset with st := 1, sbs := slcSbs.map fun k => (k, { sbReset with st := .closed }) }

/-- Each command on an absent namespace, and one past the last block; a read of the last block; a write to read-only groups, one the cache
takes, one that is programmed, and one that waits for a page; zeroes, deallocation with and without AD, and a flush. -/
theorem witness_NvmeInputOutput :
    (wIo (wVolume false []) 1 2 [] true true (some (stNs, true)) ∧ wIo (wVolume false []) 2 2 [] true true (some (stNs, true)) ∧
      wIo (wVolume false []) 8 1 [(40, 8, 64)] true false (some (stLba, true)) ∧ wIo (wVolume false []) 9 2 [] false false (some (stNs, true))) ∧
    (wIo (wVolume false []) 2 1 [(40, 8, 63)] true true none ∧ noteRead (wVolume false []) 1 15 (.hard 96) = (wVolume false [], true) ∧
      (dataPieces (wVolume false []) (wNCmd 1 7 (wIoFs 2 1 [])).sqe 4096).toOption = some ([], [(0x50000, 4096)]) ∧
      (ftlBlock (wVolume false []) 1 63).length = 4096) ∧
    (wIo (wFlash 2 [(1, wNsRec 1 false)] []) 1 1 [] true true none ∧ writeRefused (wFlash 2 [(1, wNsRec 1 false)] []) 1 0 1 = some stProtected) ∧
    (wIo (wVolume true []) 1 1 [(40, 8, 63)] true true none ∧ writeRefused (wVolume true []) 1 63 1 = none ∧
      (hostGet (wVolume true []) ⟨0, 1, 7⟩ (wNCmd 1 7 (wIoFs 1 1 [])).sqe 4096).toOption.isSome = true ∧
      cacheTakes (wOn (wVolume true []) (wCtrl [])) (wNCmd 1 7 (wIoFs 1 1 [])) = true ∧ drainRoom (wVolume true []) 0 1 = true ∧ cacheBytes (wVolume true []) 0 + 4096 ≤ cacheCap (wVolume true []) 0) ∧
    (wIo (wVolume false []) 1 1 [(40, 8, 63)] true true none ∧ cacheTakes (wOn (wVolume false []) (wCtrl [])) (wNCmd 1 7 (wIoFs 1 1 [])) = false ∧
      hostWritable (wVolume false []) 1 63 1 = true ∧
      wIo { wVolume false [] with ftl := { (wVolume false []).ftl with groups := (List.range 32).map fun g => (g, wFullGroup) } } 1 1 [(40, 8, 63)]
        true true none ∧
      writeRoom { wVolume false [] with ftl := { (wVolume false []).ftl with groups := (List.range 32).map fun g => (g, wFullGroup) } }
        (wNCmd 1 7 (wIoFs 1 1 [(40, 8, 63)])) = none ∧
      (progPages (writeSeq (wVolume false []) ((unitsOf 63 1).map fun u => unitGroup (wVolume false []) 1 u.1)).1
        (writePages 1 63 (writeSeq (wVolume false []) ((unitsOf 63 1).map fun u => unitGroup (wVolume false []) 1 u.1)).2 (zeros 4096))).any
          (fun r => r.2.all fun p => dieFree (wVolume false []) p.2) = true) ∧
    (wIo (wVolume false []) 8 1 [(40, 8, 63)] true false none ∧ (journalRanges .zeroes 1 [(63, 1)] (wVolume false [])).isSome = true) ∧
    (wIo (wVolume false []) 9 1 [] false false none ∧ wIo (wVolume false (leBytes 4 0 ++ leBytes 4 1 ++ leBytes 8 63)) 9 1 [(44, 4, 4)] false false none ∧
      ((hostGet (wVolume false (leBytes 4 0 ++ leBytes 4 1 ++ leBytes 8 63)) ⟨0, 1, 7⟩ (wNCmd 1 7 (wIoFs 9 1 [])).sqe 16).toOption.map fun (_, bs) => dsmRanges bs 1) =
        some [(63, 1)] ∧
      (journalRanges .dealloc 1 [(63, 1)] (wVolume false [])).isSome = true) ∧
    (wIo (wVolume false []) 0 1 [] false false none ∧ (wVolume false []).ftl.cache = []) := by
  and_intros <;> decide +kernel

end Sys2Proof.Machine
end

