-- ==== Sys2Proof/Tests/WitnessFlash.lean ====
section
/-! SUPPORT. States and operands that meet the hypotheses of the statements about flash and the MEDIA class, one theorem for each statement,
its clauses in order. -/

namespace Sys2Proof.Machine

set_option Elab.async false

/-- Die group 0 as given, READY, over namespace 1; and the same with unit 5 of it in the group's superblock 0. -/
def wGroup (g : Group) : State := { wUp with ftl := { ftlReset with groups := [(0, { g with st := 1 })], nss := [(1, wNsRec 1 false)] } }
def wMapped (g : Group) : State := { wGroup g with ftl := { (wGroup g).ftl with map := [(17179869189, 2 ^ 38)] } }

/-- Superblocks closed, in their order. -/
def wClosed (l : List Nat) : Group := { groupReset with sbs := l.map fun k => (k, { sbReset with st := .closed, next := 124416, closedAt := k }) }

/-- An operation in flight on die 0. -/
def wOp0 (kind : NandKind) (sb : Nat) (owner : Option CmdKey) : DieOp := { kind, die := 0, plane := 0, sb, page := 0, owner }
def wInFlight (l : List DieOp) : State := wGroup { groupReset with ops := l }

/-- A table of consecutive keys gives what it was made of. -/
theorem tget_range' {α : Type} (d : α) (f : Nat → α) : ∀ (n a k : Nat), a ≤ k → k < a + n →
    tget d ((List.range' a n).map fun i => (i, f i)) k = f k
  | 0, _, _, h1, h2 => by omega
  | n + 1, a, k, h1, h2 => by
    simp only [List.range'_succ, List.map_cons, tget]
    by_cases e : k = a
    · subst e; simp
    · have ha : ¬ k < a := by omega
      simp only [ha, if_false, e]
      exact tget_range' d f n (a + 1) k (by omega) (by omega)

def wFullSb (k : Nat) : Sb := { sbReset with st := if k == 0 then .closed else .erasing, next := 4096 }

/-- No QLC superblock is free, and one alone is closed. -/
def wFull : Group := { groupReset with sbs := (List.range' 0 1106).map fun k => (k, wFullSb k) }

theorem wFull_sb (k : Nat) (h : k < 1106) : (sbOf { wFull with st := 1 } k).st = if k == 0 then .closed else .erasing := by
  have e : sbOf { wFull with st := 1 } k = wFullSb k := tget_range' sbReset wFullSb 1106 0 k (by omega) (by omega)
  rw [e]
  rfl

/-- It is the victim (R404). -/
theorem wVictim : freeQlc (grp (wGroup wFull) 0) < 16 ∧ victim (wGroup wFull) 0 = some 0 := by
  have h (st : SbState) : (qlcSbs.filter fun k => (sbOf { wFull with st := 1 } k).st == st) =
      qlcSbs.filter fun k => (if k == 0 then SbState.closed else .erasing) == st :=
    List.filter_congr fun k hk => by rw [wFull_sb k (List.mem_range.1 hk)]
  have g : grp (wGroup wFull) 0 = { wFull with st := 1 } := rfl
  constructor
  · simp only [g, freeQlc, h]
    decide +kernel
  · simp only [victim, g, h]
    have e : (qlcSbs.filter fun k => (if k == 0 then SbState.closed else .erasing) == .closed) = [0] := by decide +kernel
    rw [e]
    rfl

/-- Nine SLC superblocks of 16 closed, the lowest first. -/
def wSlc : Group := wClosed ((List.range 9).map (· + 1114))

/-- Slots at the limits of URGENT and BACKGROUND; a group less than half full of SLC, with 16 QLC superblocks free and nothing to rewrite; one to
fold, to reclaim (`wVictim`) and to rewrite; a patrol read of a mapped unit; a checkpoint due by its journal, by its age, and not due; an hour
with a sample; operations of each kind in flight, the last erase of a superblock, and the last program of a write; a bank at 6.00 J. -/
theorem witness_FlashOperations :
    ((chan wUp 0).urgent < 16 ∧ (chan wUp 0).background < 8) ∧
    (slcOverHalf (grp (wGroup groupReset) 0) = false ∧ (grp (wGroup groupReset) 0).toRewrite = []) ∧
    16 ≤ freeQlc (grp (wGroup groupReset) 0) ∧
    (slcOverHalf (grp (wGroup wSlc) 0) = true ∧
      oldestSb (grp (wGroup wSlc) 0) slcSbs (fun k => (sbOf (grp (wGroup wSlc) 0) k).st == .closed) = some 1114 ∧
      validUnits (evacuate (wGroup wSlc) 0 1114) 0 1114 = 0) ∧
    validUnits (evacuate (wGroup wFull) 0 0) 0 0 = 0 ∧
    ((grp (wGroup { groupReset with toRewrite := [3] }) 0).toRewrite = [3] ∧
      validUnits (evacuate (wGroup { groupReset with toRewrite := [3] }) 0 3) 0 3 = 0) ∧
    (entryOf (wMapped groupReset) 1 5 ≠ 0 ∧ aGroup (entryOf (wMapped groupReset) 1 5) = 0 ∧ (grp (wMapped groupReset) 0).thresh.toNat = 96) ∧
    ((grp (wGroup { groupReset with journal := 0x100000000 }) 0).journal = 0x100000000 ∧
      0 < (grp (wGroup { groupReset with journal := 1 }) 0).journal ∧ (grp (wGroup { groupReset with journal := 1 }) 0).ckptAt + 30000000000 < 2 ^ 64 ∧
      (grp (wGroup groupReset) 0).journal = 0) ∧
    (({ wUp with ftl := { ftlReset with hour := (300, 1, 300, 300, 0) } } : State).ftl.hour.2.1 = 1) ∧
    ((grp (wInFlight [wOp0 .read 0 none]) 0).ops.find? (fun o => o.die == 0 && o.kind == .read) = some (wOp0 .read 0 none) ∧
      (grp (wInFlight [wOp0 .erase 1114 none]) 0).ops.find? (fun o => o.die == 0 && o.kind == .erase) = some (wOp0 .erase 1114 none) ∧
      ((dropFirst (fun o => o.die == 0 && o.kind == .erase) [wOp0 .erase 1114 none]).any fun p => p.kind == .erase && p.sb == 1114) = false ∧
      (grp (wInFlight [wOp0 .program 0 none]) 0).ops.find? (fun o => o.die == 0 && o.kind == .program) = some (wOp0 .program 0 none)) ∧
    (let k : CmdKey := ⟨0, 1, 7⟩
     let s := wOn (wInFlight [wOp0 .program 0 (some k)]) (wCtrl [wNCmd 1 7 (wIoFs 1 1 [])])
     findCmd s k = some (wNCmd 1 7 (wIoFs 1 1 [])) ∧ opsOf (dropOp s 0 0 .program) k = false) ∧
    (wVolume false []).ftl.energy.toNat = 600 ∧ NoShutdownWaits wUp := by
  and_intros <;> decide +kernel

/-! ### The MEDIA class -/

abbrev wMedia (s : State) (op : Nat) (fs : List (Nat × Nat × Nat)) (ns : Option Ns) : Prop :=
  wTurn s 8 op ((0x20, 4, 1) :: fs) ∧ nsIn s 0 1 = ns

/-- The volume after a measurement of 6.00 J, its health told. -/
def wCool : State := healthWatch (bankSound (wVolume true []) 600)

/-- No namespace; NS_COMMIT on read-only groups and on others; NS_MODE of a namespace in use, into the legacy mode below 6.00 J and at it; NS_INFO;
GROUP_INFO of the last group, and of none; HOLDUP_TEST. -/
theorem witness_MediaRequests :
    (wMedia wUp 1 [] none ∧ wMedia wUp 2 [] none ∧ wMedia wUp 3 [] none) ∧
    (wMedia (wFlash 2 [(1, wNsRec 1 false)] []) 1 [] (some (wNsRec 1 false)) ∧ nsReadOnly (wFlash 2 [(1, wNsRec 1 false)] []) 1 = some 0) ∧
    (wMedia (wVolume false []) 1 [] (some (wNsRec 1 false)) ∧ nsReadOnly (wVolume false []) 1 = none ∧ (wVolume false []).ftl.cache = [] ∧
      RecordPage (wVolume false []) 1) ∧
    (wMedia (wOn (wVolume false []) (wCtrl [wNCmd 1 7 (wIoFs 1 1 [])])) 2 [] (some (wNsRec 1 false)) ∧
      nsBusy (wOn (wVolume false []) (wCtrl [wNCmd 1 7 (wIoFs 1 1 [])])) 1 = true) ∧
    (wMedia (wFlash 1 [(1, wNsRec 1 false)] []) 2 [(0x24, 4, 1)] (some (wNsRec 1 false)) ∧ nsBusy (wFlash 1 [(1, wNsRec 1 false)] []) 1 = false ∧
      (wFlash 1 [(1, wNsRec 1 false)] []).ftl.energy.toNat < 600) ∧
    (wMedia (wVolume true []) 2 [(0x24, 4, 1)] (some (wNsRec 1 true)) ∧ nsBusy (wVolume true []) 1 = false) ∧
    wMedia (wVolume true []) 3 [] (some (wNsRec 1 true)) ∧
    (wTurn wUp 8 4 [(0x20, 4, 31)] ∧ isActive wUp 0 = true ∧ (prec wUp 0).dieGroups.getLsbD 31 = true) ∧
    (wTurn wUp 8 4 [(0x20, 4, 32)] ∧ (prec wUp 0).dieGroups.getLsbD 32 = false) ∧
    (wTurn wCool 8 5 [] ∧ healthWatch (bankSound (begunExec (wReqOn wCool (wExecIn wCool 8 5 [])) wR) 600) =
      bankSound (begunExec (wReqOn wCool (wExecIn wCool 8 5 [])) wR) 600) := by
  and_intros
  all_goals first | decide +kernel | exact ⟨1114, 0, rfl, rfl⟩

end Sys2Proof.Machine
end

