-- ==== Sys2Proof/Tests/WitnessJobs.lean ====
section
/-! SUPPORT. States and operands that meet the hypotheses of the statements about coherence, remote operations and jobs, one theorem for
each statement, its clauses in order. -/

namespace Sys2Proof.Machine

set_option Elab.async false

/-! ### Coherence -/

/-- A line whose directory entry is `d`, with copies in caches and messages under way. -/
def wLine (line : Nat) (d : Dir) (caches : Tbl (Tbl CLine)) (net : List (LineNo × AgentId × CohMsg)) : State :=
  { wUp with coh := { cohReset with dir := [(line, d)], caches, net } }

/-- The last line below the ECC region. -/
abbrev wLast : Nat := 0x1DFFFFFFF

/-- A line rests in an empty directory, whose regions have room. -/
theorem wRests_empty (s : State) (line : Nat) (h : s.coh = cohReset) (d : inDram (lineAddr line) 64 = true) : LineRests s line := by
  have u : dirOf s line = dirReset := by simp [dirOf, h]; rfl
  refine ⟨by simp [lineBusy, h, u, cohReset, dirReset], d, by simp [u, dirReset], by simp [h, cohReset], Or.inr fun p _ => ?_⟩
  have e : ((s.coh.dir.filter fun x => x.2.st != .u && sliceOwner s (sliceOf (lineAddr x.1)) == some p).length = 0) := by rw [h]; rfl
  rw [e]
  exact Nat.lt_of_lt_of_le (by decide) (Nat.le_add_left (2 ^ 20) _)

theorem wRests (s : State) (h : lineBusy s wLast = false ∧ (∀ a, (dirOf s wLast).st ≠ .wbp a) ∧ (∀ x ∈ s.coh.arrivals, homeOf x.1 ≠ homeOf wLast) ∧
    (dirOf s wLast).st ≠ .u) : LineRests s wLast :=
  ⟨h.1, by decide +kernel, h.2.1, h.2.2.1, Or.inl h.2.2.2⟩

/-- A pair of an agent and a home agent between which no message is under way is quiet. -/
theorem wQuiet (s : State) (line : Nat) (o : AgentId) (h : s.coh.net = []) : PairQuiet s line o := by
  intro x hx; rw [h] at hx; cases hx

/-- A read-only MAPPED object of P0, shared with P1, that holds line 16,384. -/
def wRo : State :=
  { wUp with tie := { tieReset with objs := [(0,
    { gen := 1, oflags := 6, tileLog2 := 0, tiles := 1, nsid := 1, slba := 0, daddr := 0x100000, shareMask := 2, t1 := [], root := []
      mdirty := [], promotes := [] })] } }

/-- A poisoned line in U. -/
def wPoison : State := { wUp with ras := { wUp.ras with poison := [(0x100000 / 64, true)] } }

/-- The state of a line in S, held by some, and in O. -/
def wShared (v : List AgentId) : State := wLine wLast { dirReset with st := .s v } [] []
def wOwned (a : AgentId) : State := wLine wLast { dirReset with st := .o a } [] []

/-- Requester 32 (and 33 for the non-caching requests) at a line of a shared object; at a line in U; in S with other holders, with the requester
alone, and with neither; in O; at a poisoned line. -/
theorem witness_CoherenceRequests :
    (hasCache wRo 32 = true ∧ LineRests wRo 16384 ∧ LineSound wRo 16384 ∧ isSharedLine wRo 16384 = true ∧ (dirOf wRo 16384).st = .u) ∧
    (LineRests wPoison 16384 ∧ poisoned wPoison (lineAddr 16384) 64 = true ∧ tilirData wPoison (lineAddr 16384) = false ∧
      (dirOf wPoison 16384).st = .u) ∧
    LineRests wUp wLast ∧ LineRests (wShared [0, 32]) wLast ∧ LineRests (wShared [32]) wLast ∧ LineRests (wShared [5]) wLast ∧
    LineRests (wOwned 31) wLast ∧ hasCache wUp 32 = true ∧ LineSound wUp wLast ∧ isSharedLine wUp wLast = false ∧ isSharedLine (wShared [5]) wLast = false ∧
    (dirOf wUp wLast).st = .u ∧ (dirOf (wShared [32]) wLast).st = .s [32] ∧ ([32] : List AgentId).filter (· != 32) = [] ∧
    ([0, 32] : List AgentId).filter (· != 32) ≠ [] ∧ ([5] : List AgentId).filter (· != 32) ≠ [] ∧ (32 : AgentId) ∈ ([0, 32] : List AgentId) ∧
    (dirOf (wOwned 31) wLast).st = .o 31 ∧ Memory.wf wUp.mem = true ∧ Memory.wf (wShared [5]).mem = true :=
  ⟨⟨by decide +kernel, wRests_empty _ _ rfl (by decide +kernel), by decide +kernel⟩,
    ⟨wRests_empty _ _ rfl (by decide +kernel), by decide +kernel⟩, wRests_empty _ _ rfl (by decide +kernel), wRests _ (by decide +kernel), wRests _ (by decide +kernel), wRests _ (by decide +kernel), wRests _ (by decide +kernel), by decide +kernel⟩

/-- A copy of a line. -/
def wCopy (st : LineState) : Tbl (Tbl CLine) := [(3, [(wLast, { st, data := zeros 64 })])]

theorem witness_ProbesAndWritebacks :
    (PairQuiet wUp wLast 3 ∧ PairQuiet (wLine wLast { dirReset with st := .o 3 } (wCopy .m) []) wLast 3) ∧ agentLine wUp 3 wLast = none ∧
    agentLine (wLine wLast { dirReset with st := .o 3 } (wCopy .m) []) 3 wLast = some { st := .m, data := zeros 64 } ∧
    (let s := wLine wLast { dirReset with st := .o 3 } (wCopy .m) []
     (dirOf s wLast).st = .o 3 ∧ (dirOf s wLast).wbData = none ∧ (agentLine s 3 wLast).isSome = true ∧ Memory.wf s.mem = true ∧
     (dirOf s wLast).queue = [] ∧ rspClear s wLast 3 = true) ∧
    (let s := wLine wLast { dirReset with st := .wbp 3, wbData := some (fit [1] 64) } [] []
     (dirOf s wLast).st = .wbp 3 ∧ (dirOf s wLast).wbData = some (fit [1] 64) ∧ (dirOf s wLast).queue = []) ∧
    (let s := wLine wLast { dirReset with st := .s [3, 4] } (wCopy .s) []
     (dirOf s wLast).queue = [] ∧ (agentLine s 3 wLast).map (·.st) = some .s ∧ (dirOf s wLast).st = .s [3, 4] ∧ rspClear s wLast 3 = true) ∧
    ([3, 4] : List AgentId).filter (· != 3) ≠ [] ∧ (dirOf (wLine wLast { dirReset with st := .s [3] } (wCopy .s) []) wLast).st = .s [3] ∧
    ([3] : List AgentId).filter (· != 3) = [] ∧
    (findMsg (wLine wLast dirReset [] [(wLast, 3, .wbAck)]) wLast 3 .gnt isWbAck).isSome = true := by
  refine ⟨⟨wQuiet _ _ _ rfl, wQuiet _ _ _ rfl⟩, ?_⟩
  and_intros <;> decide +kernel

/-- A transaction that awaits answers. -/
def wTxn (kind : CohKind) (await : List AgentId) : CohTxn :=
  { req := { kind, r := 7, mask := 0, data := [] }, await, data := none, keepS := false }

def wAwaits (kind : CohKind) (await : List AgentId) (st : DirState) : State :=
  wLine wLast { dirReset with st, txn := some (wTxn kind await) } [] []

abbrev wAwaiting (kind : CohKind) (await : List AgentId) (st : DirState) : Prop :=
  Memory.wf (wAwaits kind await st).mem = true ∧ (dirOf (wAwaits kind await st) wLast).txn = some (wTxn kind await) ∧
    (dirOf (wAwaits kind await st) wLast).queue = [] ∧ (dirOf (wAwaits kind await st) wLast).wbData = none ∧
    isSharedLine (wAwaits kind await st) wLast = false ∧ (wAwaits kind await st).coh.net = []

theorem witness_AnswersAndGrants :
    (wAwaiting .rdX [3, 4] (.s [3, 4]) ∧ (3 : AgentId) ∈ (wTxn .rdX [3, 4]).await ∧ (wTxn .rdX [3, 4]).await.filter (· != 3) ≠ [] ∧
      (wTxn .rdX [3, 4]).req.kind = .rdX ∧ (zeros 64).length = 64) ∧
    wAwaiting .rdX [3] (.o 3) ∧
    (wAwaiting .rdS [3] (.o 3) ∧ (dirOf (wAwaits .rdS [3] (.o 3)) wLast).st = .o 3) ∧
    (∀ h ∈ wUp.coh.heldProbes, h.1 ≠ wLast) ∧ (PairQuiet wUp wLast 3 ∧ WayFree wUp 3 wLast ∧ WayFree wUp 32 wLast) ∧
    PairQuiet (wAwaits .rdX [3] (.o 3)) wLast 3 ∧ (7 : AgentId) ≠ 3 ∧
    (let s := wLine wLast { dirReset with st := .s [3] } (wCopy .s) []
     agentLine s 3 wLast = some { st := .s, data := zeros 64 } ∧ (∀ h ∈ s.coh.heldProbes, h.1 ≠ wLast)) := by
  refine ⟨?_, ?_, ?_, ?_, ⟨wQuiet _ _ _ rfl, Or.inr (Or.inl (by decide +kernel)), Or.inl (by decide)⟩, wQuiet _ _ _ rfl, ?_, ?_⟩ <;> decide +kernel

/-! ### Remote operations -/

/-- A job with one peer, on the module at NODE_ID 9, with a remote command at the head of its queue; `up` tells whether a HELLO has shown where
that module is. -/
def wPeered : Job := { wJob [(0x1B, 1, 1), (0x1C, 4, 0x10000)] .running [0] with peers := leBytes 8 9 ++ leBytes 4 65536 ++ zeros 4 }

def wRem (op : Nat) (fs : List (Nat × Nat × Nat)) (up : Bool) : State :=
  { wRun wPeered (fun sl => { sl with remQ := [wCmd op fs] }) with
    prt := { wUp.prt with cfg := { wUp.prt.cfg with links := { wUp.prt.cfg.links with present := 3 } } }
    lnk := { lnkReset with links := if up then [(0, { link wUp 0 with partnerNode := 9 })] else [] } }

abbrev wRemote (op : Nat) (fs : List (Nat × Nat × Nat)) (up put : Bool) (fault : Option Nat) : Prop :=
  (slot (wRem op fs up) 0 0).remQ = [wCmd op fs] ∧ slotJob (wRem op fs up) 0 0 = some wPeered ∧ running (wRem op fs up) 0 0 = true ∧
    wOp (wWord op fs) = (if put then 0x82 else 0x83) ∧ waitMet (slot (wRem op fs up) 0 0) (wWord op fs) = true ∧
    remoteFault (wRem op fs up) 0 0 wPeered put (wWord op fs) = fault ∧
    viewPoison (wRem op fs up) 0 0 [(rView (wWord op fs), rLen (wWord op fs))] = none

/-- A response that names run epoch `e` and tag `t`. -/
def wResp (e : Word) (t : Nat) : RemoteResp := { job := wH, rank := 0, runEpoch := e, tag := t, data := [] }

def wEntryR : Remote := { tag := 4, isPut := true, cmd := wCmd 0x82 [(1, 1, 2)], pos := 1, msn := 0, landed := false }

/-- PUT and GET with peer 0 known, unknown, and peer 1 of 1; responses to no job, to another run, and to a PUT. -/
theorem witness_RemoteOperations :
    wRemote 0x82 [(8, 1, 1)] true true (some 0x21) ∧ wRemote 0x83 [(8, 1, 1)] true false (some 0x21) ∧
    (wRemote 0x82 [(0x18, 4, 64)] false true none ∧ nodePos (wRem 0x82 [(0x18, 4, 64)] false) (fld (peerEntry wPeered 0) 0 8) = none) ∧
    (wRemote 0x83 [(0x18, 4, 64)] false false none) ∧
    (wRemote 0x82 [(0x18, 4, 64)] true true none ∧ nodePos (wRem 0x82 [(0x18, 4, 64)] true) (fld (peerEntry wPeered 0) 0 8) = some 1) ∧
    (wRemote 0x83 [(0x18, 4, 64)] true false none ∧ nodePos (wRem 0x83 [(0x18, 4, 64)] true) (fld (peerEntry wPeered 0) 0 8) = some 1) ∧
    jobOf wUp (wResp 0 0).job.toNat = none ∧
    (jobOf (wRem 0x82 [] true) (wResp 1 0).job.toNat = some wPeered ∧ wPeered.runEpoch ≠ (wResp 1 0).runEpoch) ∧
    (let s := wRun wPeered fun sl => { sl with remotes := [wEntryR] }
     jobOf s (wResp 0 4).job.toNat = some wPeered ∧ wPeered.st = .running ∧ wPeered.ending = none ∧ wPeered.runEpoch = (wResp 0 4).runEpoch ∧
     wPeered.clusters[(wResp 0 4).rank]? = some 0 ∧ wPeered.slotIx < 4 ∧
     (slot s 0 0).remotes.find? (fun e => e.tag == (wResp 0 4).tag && !e.landed) = some wEntryR ∧ wPostEn wEntryR.cmd.word = true) := by
  refine ⟨?_, ?_, ?_, ?_, ?_, ?_, ?_, ?_, ?_⟩ <;> decide +kernel

/-! ### Jobs -/

/-- A JOB request that names the job of handle `wH`, in a table of one job. -/
abbrev wJobTurn (j : Job) (op : Nat) : Prop :=
  wTurn (wJobs wUp [(0, j)]) 3 op [(0x20, 4, 65536)] ∧
    jobOf (wReqOn (wJobs wUp [(0, j)]) (wExec 3 op [(0x20, 4, 65536)])) 65536 = some j ∧ j.part = reqPart wR

/-- A LOAD whose image is `m` in host memory at 0x10000, of `n` bytes, with IMAGE_BASE `a`. -/
def wLoad (m : Memory) (n a : Nat) : State :=
  wReqOn { wUp with hmem := m } (wExec 3 1 (wIn n ++ [(0x20, 8, a), (0x28, 8, 0x200000)]))

/-- The least image: a header, one rank of no words, `s` view segments. -/
def wJobImage (segs : Byte) : Memory :=
  [(0x10000, 0x5A), (0x10001, 0x4A), (0x10002, 0x4F), (0x10003, 0x42), (0x10004, 1), (0x10006, 1), (0x10014, 0x10), (0x10015, 1), (0x10018, segs)]

abbrev wLoads (m : Memory) (n a : Nat) (r : Option Nat × Option Nat × Option Nat) : Prop :=
  let x := wExec 3 1 (wIn n ++ [(0x20, 8, a), (0x28, 8, 0x200000)])
  let j := jobFrom (inPayload (wLoad m n a) x) 0 0 1 a 0x200000
  Outlet (wLoad m n a) wR x ∧ AtTurn (wLoad m n a) wR x 3 1 ∧ badImage (inPayload (wLoad m n a) x) = r.1 ∧ badFit (wLoad m n a) j = r.2.1 ∧
    badAddress (wLoad m n a) j = r.2.2

/-- No job of the handle; each request in a state it acts in and, for RUN, in one it does not; KILL of a job that is ending. -/
theorem witness_JobTable :
    (wTurn wUp 3 2 [] ∧ wTurn wUp 3 3 [] ∧ wTurn wUp 3 4 [] ∧ wTurn wUp 3 5 [] ∧ wTurn wUp 3 6 [] ∧ wTurn wUp 3 7 [] ∧
      jobOf (wReqOn wUp (wExec 3 2 [])) 0 = none) ∧
    (wJobTurn (wJob [] .loaded []) 2 ∧ (wJob [] .loaded []).run ≠ some wR) ∧ wJobTurn (wJob [] .ended []) 2 ∧ wJobTurn (wJob [] .running [0]) 2 ∧
    (wJobTurn (wJob [] .running [0]) 3 ∧ savedRoom (wReqOn (wJobs wUp [(0, wJob [] .running [0])]) (wExec 3 3 [(0x20, 4, 65536)])) 0 1 = true) ∧
    wJobTurn (wJob [] .saved []) 4 ∧ wJobTurn (wJob [] .queued []) 5 ∧
    (wJobTurn { wJob [] .running [0] with ending := some { status := 0, detail := 0 } } 5) ∧ wJobTurn (wJob [] .running [0]) 6 ∧
    wJobTurn (wJob [] .ended []) 7 ∧
    ((List.range 256).find? fun i => (tfind? (wLoad (wJobImage 1) 272 0).sch.jobs (reqPart wR * 256 + i)).isNone) = some 0 ∧
    tget 0 (schPart (wLoad (wJobImage 1) 272 0) (reqPart wR)).gens 0 = 0 ∧
    wLoads [] 1 0x100000 (some 0, none, none) ∧ wLoads (wJobImage 0x37) 272 0x100000 (none, some 0x18, none) ∧
    wLoads (wJobImage 1) 272 0x7FFFFFFF00 (none, none, some 0x20) ∧ wLoads (wJobImage 1) 272 0x100000 (none, none, none) := by
  and_intros <;> decide +kernel

/-- A waiting job alone in the table. -/
abbrev wWaitsFor (j : Job) (p : Option (Nat × List Nat)) : Prop :=
  jobOf (wJobs wUp [(0, j)]) 65536 = some j ∧ j.ending = none ∧ goesAfter (wJobs wUp [(0, j)]) (jobKey 65536) j = false ∧
    placement (wJobs wUp [(0, j)]) j = p

/-- A job running on every cluster, with one of higher priority queued that needs them all. -/
def wEvicted : State :=
  let all := List.range 32
  let j := { wJob [(6, 1, 32), (0x18, 1, 4)] .running all with clusters := all }
  let q := { wJob [(6, 1, 32), (0x18, 1, 4), (7, 1, 3)] .queued [] with index := 1 }
  let s := { wJobs wUp [(0, j), (1, q)] with clus := all.map fun c => (c, { clusterReset with xlat := [(0, 0x00800688#32)] }) }
  all.foldl (fun s c => updSlot s c 0 fun _ => { slotReset with st := .running, job := wH, rank := c }) s

/-- A queued job and a saved one that fit, and that do not (no cluster is its own); a job being saved; a victim, and a job that is none; a job
that is ending, with its RUN. -/
theorem witness_JobScheduling :
    (let f : Slot → Slot := fun sl => { sl with fin := [⟨.arr 0, wCmd 0x21 [], nf0⟩] }
     arraysDone (wRun (wJob [] .saving [0]) f) (wJob [] .saving [0]) = false ∧ jobOf (wRun (wJob [] .saving [0]) f) 65536 = some (wJob [] .saving [0]) ∧
     arraysDone (wRun (wJob [] .saving [0]) id) (wJob [] .saving [0]) = true) ∧
    wWaitsFor (wJob [] .queued []) (some (0, [0])) ∧ wWaitsFor { wJob [] .saved [] with eligible := true } (some (0, [0])) ∧
    wWaitsFor (wJob [(0x18, 1, 0x0F)] .queued []) none ∧ wWaitsFor { wJob [(0x18, 1, 0x0F)] .saved [] with eligible := true } none ∧
    jobOf (wRun (wJob [] .saving [0]) id) 65536 = some (wJob [] .saving [0]) ∧
    (evictionCalled (wRun (wJob [] .running [0]) id) (jobKey 65536) = false ∧ jobOf (wRun (wJob [] .running [0]) id) 65536 = some (wJob [] .running [0])) ∧
    ((jobOf wEvicted 65536).map (fun j => (j.st, j.ending.isNone)) = some (.running, true) ∧ evictionCalled wEvicted (jobKey 65536) = true) ∧
    (let j := { wJob [] .running [0] with ending := some { status := 0, detail := 0 }, run := some wR }
     let s := wReqOn (wRun j id) (wExec 3 2 [])
     jobOf s 65536 = some j ∧ j.suspends = [] ∧ findExec s wR = some (wExec 3 2 []) ∧ Outlet s wR (wExec 3 2 []) ∧ arraysDone s j = true) := by
  and_intros <;> decide +kernel

end Sys2Proof.Machine
end

