-- ==== Sys2Proof/Tests/WitnessLinks.lean ====
section
/-! SUPPORT. States and operands that meet the hypotheses of the statements about links, Evsel connections and messages, one theorem for each
statement, its clauses in order. -/

namespace Sys2Proof.Machine

set_option Elab.async false

/-- The module at position 0 of a group of two, with link 0 to the partner at position 1, link 90 a port's, and the connection of P0 with that
partner. -/
def wLnk (k : Link) (c : Conn) : State :=
  { wUp with
    rst := { wUp.rst with released := true }
    prt := { wUp.prt with cfg := { wUp.prt.cfg with links := { wUp.prt.cfg.links with
      present := 3, groupId := 0, evselMb := 1, ports := [{ portRecNone with lanes := 1, firstLink := 90, owner := 0 }] } } }
    lnk := { lnkReset with links := [(0, k), (90, k)], conns := [(16, c)] } }

def wLinkSt (st : Fin 6) : Link := { linkReset with st }

/-- A request of class LINK executing on MB000. -/
abbrev wLinkReq (st : Fin 6) (op : Nat) (fs : List (Nat × Nat × Nat)) : Prop :=
  wTurn (wLnk (wLinkSt st) connReset) 7 op fs ∧
    ∀ n : Mb, (mbox (wReqOn (wLnk (wLinkSt st) connReset) (wExecIn (wLnk (wLinkSt st) connReset) 7 op fs)) n.val).registered = false

abbrev wForwards (b : List Byte) : Prop :=
  let s := wHost (wLnk (wLinkSt 1) connReset) b
  let x := wExecIn s 7 3 ((0x20, 1, 1) :: wIn 64)
  Outlet (wReqOn s x) wR x ∧ AtTurn (wReqOn s x) wR x 7 3 ∧ (mbox (wReqOn s x) 0).dmaBlock = false ∧ inPayload (wReqOn s x) x = b ∧
    forwarding (conn (wReqOn s x) 1 0) wR = false ∧ (conn (wReqOn s x) 1 0).waiting = [] ∧ outstanding (wReqOn s x) 1 < 8192

theorem witness_LinkStates :
    (isTrunk (wLnk (wLinkSt 0) connReset) 90 = false ∧ (portOf (wLnk (wLinkSt 0) connReset) 90).isSome = true ∧
      (wLnk (wLinkSt 0) connReset).rst.released = true ∧ (link (wLnk (wLinkSt 0) connReset) 90).st = 0) ∧
    (link (wLnk (wLinkSt 4) connReset) 0).st = 4 ∧ (link (wLnk (wLinkSt 1) connReset) 0).st = 1 ∧ (link (wLnk (wLinkSt 2) connReset) 0).st = 2 ∧
    (link (wLnk (wLinkSt 3) connReset) 0).st = 3 ∧ isTrunk (wLnk (wLinkSt 1) connReset) 0 = true ∧
    wLinkReq 0 0x10 [] ∧ wLinkReq 1 0x10 [] ∧ wLinkReq 0 0x11 [] ∧ wLinkReq 2 0x11 [] ∧ wLinkReq 3 0x11 [] ∧ wLinkReq 1 1 [] ∧ wLinkReq 1 2 [] ∧
    wForwards (wSet (zeros 64) [(0x10, 8, 1)]) ∧ wForwards (zeros 64) := by
  and_intros <;> decide +kernel

/-- A frame of a type, for a partition or 0xFF, with fields set; its length and its check. -/
def wEvFrame (ty p : Nat) (fs : List (Nat × Nat × Nat)) (pay : List Byte) : EvFrame :=
  let h := wSet (zeros 32) ([(0, 1, 0x10), (1, 1, ty), (3, 1, p), (0x14, 2, pay.length)] ++ fs)
  { header := setFld h 0x1C 4 (evCheck h pay), payload := pay }

/-- A HELLO from the link that link 0 faces, in group `g`. -/
def wHello (g : Nat) : EvFrame := wEvFrame 4 0xFF [(0x18, 4, 256 + 72)] (leBytes 8 9 ++ leBytes 8 g ++ leBytes 4 5 ++ zeros 4)

/-- A transmitting trunk link and a port's; a HELLO that matches on a DOWN, an UP and a MISMATCH link, from a partner not seen yet and from one
seen; and one of another group. -/
theorem witness_HelloFrames :
    (transmits (wLnk (wLinkSt 0) connReset) 0 = true ∧ isTrunk (wLnk (wLinkSt 0) connReset) 0 = true ∧ transmits (wLnk (wLinkSt 1) connReset) 90 = true ∧
      (portOf (wLnk (wLinkSt 1) connReset) 90).isSome = true) ∧
    ((facing (wLnk (wLinkSt 0) connReset) 0).map (·.1) = some 1 ∧ frameBad (wHello 0) = false ∧ fld (wHello 0).header 1 1 = 4) ∧
    (helloMatches (wLnk (wLinkSt 0) connReset) 0 (wHello 0) = true ∧ (trunk (wLnk (wLinkSt 0) connReset) 1).incarnation = none) ∧
    (helloMatches (wLnk (wLinkSt 1) connReset) 0 (wHello 0) = true ∧ transmits (wLnk (wLinkSt 4) connReset) 0 = true ∧
      BitVec.ofNat 32 (fld (wHello 0).payload 16 4) = (5 : Word)) ∧
    (frameBad (wHello 7) = false ∧ helloMatches (wLnk (wLinkSt 1) connReset) 0 (wHello 7) = false) := by
  and_intros <;> decide +kernel

/-! ### Connections -/

/-- A connection in epoch 0 of its partner. -/
def wConn : Conn := { connReset with rxEpoch := some 0 }

def wMsg (owner : MsgOwner) : OutMsg := { msn := 3, kind := 0, payload := zeros 64, psn := 0, owner, sentAt := 0, paused := 0 }

/-- A connection with one message of one packet unacknowledged. -/
def wSent (owner : MsgOwner) : Conn := { wConn with msgs := [wMsg owner], nextPsn := 1, nextMsn := 4 }

def wPacket : EvPacket := { first := true, last := true, msn := 0, kind := 1, payload := [] }

abbrev wFrameAt (c : Conn) (ty : Nat) (fs : List (Nat × Nat × Nat)) (pay : List Byte) : Prop :=
  FrameAt (wLnk (wLinkSt 1) c) 0 (wEvFrame ty 0 fs pay) ty 1 0

/-- An ACK of nothing new, and of the message; a packet passed, one held, the one expected, and one beyond a gap; the NACKs; a CANCEL of no
message, and of a FORWARD's; then the timers. -/
theorem witness_Connections :
    (wFrameAt wConn 1 [] [] ∧ ¬AckNew wConn 0) ∧
    (wFrameAt (wSent .nobody) 1 [(0xC, 4, 1)] [] ∧ AckNew (wSent .nobody) 1 ∧ NoneWaits (wLnk (wLinkSt 1) (wSent .nobody)) 1) ∧
    (wFrameAt { wConn with rxBase := 1 } 0 [(2, 1, 3)] [1] ∧ 2 ^ 31 ≤ psnDist 0 1) ∧
    (wFrameAt { wConn with held := [(1, wPacket)] } 0 [(2, 1, 3), (8, 4, 1)] [1] ∧ (tfind? [(1, wPacket)] 1).isSome = true) ∧
    wFrameAt wConn 0 [(2, 1, 3)] [1] ∧
    (wFrameAt wConn 0 [(2, 1, 3), (8, 4, 0x7FFFFFFF)] [1] ∧ 0 < psnDist 0x7FFFFFFF 0 ∧ psnDist 0x7FFFFFFF 0 < 2 ^ 31) ∧
    (wFrameAt (wSent .nobody) 2 [] [] ∧ ¬AckNew (wSent .nobody) 0 ∧ wFrameAt (wSent .nobody) 3 [] [] ∧
      blockBusy (wLnk (wLinkSt 1) (wSent .nobody)) 3 0 = false) ∧
    (wFrameAt (wSent .nobody) 5 [(0x10, 4, 9)] [] ∧ (wSent .nobody).msgs.find? (fun m => m.msn == 9) = none) ∧
    (let s := wReqOn (wLnk (wLinkSt 1) (wSent (.forward wR))) (wExec 7 3 [])
     FrameAt s 0 (wEvFrame 5 0 [(0x10, 4, 3)] []) 5 1 0 ∧ (wSent (.forward wR)).msgs.find? (fun m => m.msn == 3) = some (wMsg (.forward wR)) ∧
     findExec s wR = some (wExec 7 3 []) ∧ Outlet s wR (wExec 7 3 []) ∧ NoneWaits s 1) ∧
    ({ wConn with unacked := 15 }.unacked ≠ 0 ∧ { wConn with gapAt := some 5 }.gapAt = some 5 ∧ { wSent .nobody with rnrAt := some 5 }.rnrAt = some 5 ∧
      (wSent .nobody).msgs ≠ [] ∧ (wSent .nobody).rnrAt = none) := by
  and_intros <;> decide +kernel

/-! ### Messages -/

def wIn1 (kind : Nat) (pay : List Byte) : InMsg := { msn := 0, kind, payload := pay, psn := 0, lastPsn := 0 }

/-- The module with a message of P0 in the inbox, a job with a landing area of 64 KiB RUNNING on C00 with `remotes` outstanding, and a FORWARD
acknowledged. -/
def wMail (kind : Nat) (pay : List Byte) (remotes : List Remote) : State :=
  let c := { wConn with inbox := [wIn1 kind pay], forwards := [(wR, zeros 64)] }
  let r := wRun wPeered fun sl => { sl with remotes }
  { wReqOn (wLnk (wLinkSt 1) c) (wExec 7 3 (wIn 64 ++ [(3, 1, 2)])) with sch := r.sch, slots := r.slots, clus := r.clus }

/-- A message for P1, which the links do not reach. -/
def wAway : State := { wLnk (wLinkSt 1) wConn with lnk := { lnkReset with links := [(0, wLinkSt 1)], conns := [(17, { wConn with inbox := [wIn1 1 []] })] } }

abbrev wArrives (kind : Nat) (pay : List Byte) : Prop :=
  (conn (wMail kind pay []) 1 0).inbox = [wIn1 kind pay] ∧ targetJob (wMail kind pay []) 0 0 0 = none ∧
    targetJob (wMail kind pay []) 0 wH 0 = some wPeered ∧ jLanding wPeered = 0x10000 ∧ wPeered.clusters[0]? = some 0

/-- Each kind that names a job, with a rank of no job and one of the job, and a landing area just long enough; a GET that may be answered; a GET's
data for an entry that asked; a completion of no FORWARD, and of one; a request where there is no Evsel mailbox, where it is full, and
where it has room; a message for a partition that may not be reached; an Evsel mailbox that resets. -/
theorem witness_MessagesConsumed :
    wArrives 2 [] ∧ wArrives 3 [] ∧ wArrives 4 [] ∧ wArrives 5 [] ∧
    (poisoned (wMail 3 [] []) (jLandingArea wPeered 0) 0x10000 = false ∧ (conn (wMail 3 [] []) 1 0).waiting = [] ∧ outstanding (wMail 3 [] []) 1 < 8192) ∧
    jobOf (wMail 4 [] []) 0 = none ∧
    (jobOf (wMail 4 [] [{ wEntryR with isPut := false }]) wH.toNat = some wPeered ∧ wPeered.st = .running ∧ wPeered.ending = none ∧
      wPeered.runEpoch = (wResp 0 4).runEpoch ∧
      (slot (wMail 4 [] [{ wEntryR with isPut := false }]) 0 0).remotes.find? (fun e => e.tag == 4 && !e.landed) =
        some { wEntryR with isPut := false }) ∧
    (let fits (b : List Byte) (f : ReqId × List Byte) : Bool := fld f.2 0 2 == fld b 0 2 && fld f.2 4 4 == fld b 4 4 && fld f.2 0xC 4 == fld b 0xC 4
     (conn (wMail 1 [1] []) 1 0).forwards.find? (fits [1]) = none ∧ (conn (wMail 1 (zeros 32) []) 1 0).forwards.find? (fits (zeros 32)) = some (wR, zeros 64)) ∧
    (findExec (wMail 1 (zeros 32) []) wR = some (wExec 7 3 (wIn 64 ++ [(3, 1, 2)])) ∧
      Outlet (wMail 1 (zeros 32) []) wR (wExec 7 3 (wIn 64 ++ [(3, 1, 2)])) ∧
      outRoom (wMail 1 (zeros 32) []) (wExec 7 3 (wIn 64 ++ [(3, 1, 2)])) = 64) ∧
    ((wMail 0 (zeros 64) []).rst.ready = true ∧ (wMail 0 (zeros 64) []).rst.halt = .no ∧ isEvselMb (wMail 0 (zeros 64) []) 15 = true ∧
      unreachable (wMail 0 (zeros 64) []) 0 = false ∧ roomFor (wMail 0 (zeros 64) []) 15 (mbox (wMail 0 (zeros 64) []) 15) (zeros 64) = true ∧
      (mbox (wMail 0 (zeros 64) []) 15).nextHseq = 0 ∧ entOow (zeros 64) = false) ∧
    (let e := wSet (zeros 64) [(3, 1, 0x10)]
     let busy := updMb (wMail 0 e []) 15 fun m => { m with execs := [{ wExec 1 1 [] with oow := true }] }
     roomFor busy 15 (mbox busy 15) e = false) ∧
    ((conn wAway 1 1).inbox = [wIn1 1 []] ∧ unreachable wAway 1 = true ∧
      (mbox (updMb (wMail 0 (zeros 64) []) 15 fun m => { m with resetting := true }) 15).resetting = true) := by
  refine ⟨?_, ?_, ?_, ?_, ?_, ?_, ?_, ?_, ?_, ?_, ?_, ?_⟩ <;> decide +kernel

end Sys2Proof.Machine
end

