-- ==== Sys2Proof/Tests/Slice0.lean ====
section
/-! SUPPORT. Tests of the model's own: an ill-formed command for each check of WellFormed, the spec's worked examples, and single steps on small
states. Every expected result is the spec's. -/

namespace Sys2Proof.Machine

set_option Elab.async false

/-! ### Ill-formed commands -/

theorem test_wf_register : Instr.wf (.registerWrite (.bar2 0 0x001002) 0) = false ∧ Instr.wf (.registerWrite (.bar2 1 0x100000) 0) = false ∧ Instr.wf (.rcRead (.module 0x014000000001) false) = false ∧
    Instr.wf (.rcRead (.bar0 0 0x13) true) = false := by decide
theorem test_wf_line : Instr.wf (.wbCommit (0x007800000000 / 64)) = false ∧ Instr.wf (.wbCommit (0x007800000000 / 64 - 1)) = true := by decide
theorem test_wf_requesters : Instr.wf (.rdS 0 (cohQuiet [])) = false ∧ Instr.wf (.rdX 0 (cohQuiet [3, 3])) = false ∧
    Instr.wf (.upg 0 (cohQuiet [3, 4])) = true := by decide
theorem test_wf_data : Instr.wf (.wrNc 0 (ncQuiet 33) [1, 2]) = false ∧ Instr.wf (.wrNc 0 (ncQuiet 33) (zeros 64)) = true := by decide
def wCycle (l : List RowAccess) : CycleInput := { arrivals := l, found := [], ecc := .clean }
theorem test_wf_access :
    Instr.wf (.clusterCycle 0 (wCycle [{ port := .vu, seg := 0, bank := 0, row := 0, write := true, mask := 0, data := [1] }])) = false ∧
    Instr.wf (.clusterCycle 0 (wCycle [{ port := .vu, seg := 0, bank := 0, row := 0, write := false, mask := 0, data := zeros 64 }])) = false ∧
    Instr.wf (.clusterCycle 0 { wCycle [] with found := [{ seg := 0, bank := 0, row := { data := [], side := 0 } }] }) = false := by decide
theorem test_wf_ecc : Instr.wf (.rootScrub (some { data := [], side := 0 })) = false ∧ Instr.wf (.dramScrub 0 none) = true := by decide
theorem test_wf_frame : Instr.wf (.evselAck 0 { header := zeros 31, payload := [] }) = false ∧
    Instr.wf (.linkUp 0 { header := zeros 32, payload := zeros 4097 }) = false := by decide +kernel
theorem test_wf_messages :
    Instr.wf (.put ⟨0, 0⟩ { job := 0, rank := 32, runEpoch := 0, off := 0, data := [], sig := none, tag := 0 }) = false ∧
    Instr.wf (.getReq ⟨0, 0⟩ { job := 0, rank := 0, fromJob := 0, fromRank := 32, runEpoch := 0, off := 0, len := 1, tag := 0 }) = false ∧
    Instr.wf (.getData ⟨0, 0⟩ { job := 0, rank := 32, runEpoch := 0, tag := 0, data := [] }) = false ∧ Instr.wf (.signal ⟨0, 0⟩ 0 32 0) = false := by decide
theorem test_wf_queue : Instr.wf (.nvmeFlush ⟨0, 257, 0⟩) = false ∧ Instr.wf (.sqDoorbell 0 65536 0) = false ∧
    Instr.wf (.cqHeadDoorbell 0 65536 0) = false ∧ Instr.wf (.nvmeFlush ⟨0, 256, 0⟩) = true := by decide
theorem test_wf_samples : Instr.wf (.powerSample 65536 0 0 0) = false ∧ Instr.wf (.thermalSample []) = false ∧
    Instr.wf (.holdupMeasure 65536) = false ∧ Instr.wf (.vpdRead 65536 0) = false ∧ Instr.wf (.tunnelledAdmin []) = false ∧
    Instr.wf (.storeReadBusy 0x10000000) = false := by decide

/-! ### The spec's worked examples -/

/-- Chapter 01, sequence window: N = 0xFFFF_FFFE and 0xFFFF_FFFF. -/
theorem test_hseq_window :
    classify { mailboxReset with nextHseq := 0xFFFFFFFE } 0xFFFFFFFE = .accept ∧ classify { mailboxReset with nextHseq := 0xFFFFFFFF } 3 = .ahead ∧
    classify { mailboxReset with nextHseq := 0xFFFFFFFF, recs := [(0xFFFFEFFF, ⟨0xFFFFEFFF, 1, 6, 0, none, 0⟩)] } 0xFFFFEFFF = .duplicate ∧
    classify { mailboxReset with nextHseq := 0xFFFFFFFF } 0xFFFFEFFE = .stale := by decide

/-- Chapter 03: the DMA_COPY and the VADD of the example, read field by field. -/
def xDma : List Byte := [
  0x01, 0x02, 0x00, 0x03, 0, 0, 0, 0, 0x00, 0x34, 0x12, 0x00, 0x50, 0x00, 0x05, 0x00,
  0x00, 0x20, 0x00, 0x01, 0x00, 0x00, 0x7F, 0x00, 0x3F, 0x00, 0x80, 0x00, 0x40, 0x00, 0x00, 0x00]
theorem test_dma_word :
    dmaReserved xDma = false ∧ dmaFields xDma =
      { fill := false, value := 0x00123400, src := 0x005000123400, srcSp := 5, dst := 0x01002000, dstSp := 0, cached := false
        rows := 128, bytes := 4096, srcStride := 8192, dstStride := 4096 } ∧ wPostEn xDma = true ∧ wPostTkt xDma = 3 := by decide

def xVadd : List Byte := [
  0x60, 0x01, 0x03, 0x00, 0x01, 0, 0, 0, 0x00, 0x20, 0x00, 0x01, 0x00, 0x00, 0x20, 0x01,
  0x00, 0x00, 0x00, 0x02, 0x00, 0x00, 0x02, 0x00, 0, 0, 0, 0, 0, 0, 0, 0]
theorem test_vadd_word :
    wOp xVadd = 0x60 ∧ vSrcA xVadd = 0x01002000 ∧ vSrcB xVadd = 0x01200000 ∧ vDst xVadd = 0x02000000 ∧ vCount xVadd = 131072 ∧
    waitMet { slotReset with tkt := [(3, 1)] } xVadd = true ∧ waitMet slotReset xVadd = false := by decide

/-- Chapter 04: the words of the sixteen-sequence step, and its T of 1,120 cycles. -/
def xLayout : List Byte := [
  0x20, 0, 0, 0, 0, 0, 0, 0, 0x02, 0x00, 0x01, 0x00, 0x20, 0x00, 0x40, 0x00, 0, 0, 0, 0, 0, 0, 0, 0, 0, 0, 0, 0, 0x00, 0x00, 0x0C, 0x00]
def xMm : List Byte := [
  0x21, 0x02, 0x00, 0x05, 0, 0, 0, 0, 0x2A, 0x18, 0x11, 0x00, 0x00, 0x40, 0x00, 0x00,
  0x00, 0x04, 0x00, 0x00, 0x08, 0x00, 0x0F, 0x00, 0xFF, 0x03, 0xFF, 0x00, 0, 0, 0, 0]
theorem test_mm_word :
    mmReserved xMm = false ∧ layoutReserved xLayout = false ∧ wArr xMm = 2 ∧ (layoutOf xLayout).stats * 64 = 0x03000000 ∧
    mmFields xMm =
      { mode := 2, shape := 2, trans := false, acc := false, sat := false, reuse := false, statsEn := true, passes := 1, fa := 1, fb := 1
        fy := 0, aAddr := 0x4000, bAddr := 0x40000, yAddr := 0x80000, m := 16, n := 1024, k := 256 } := by decide

/-- Chapter 05: the two groups of the reduction example, and what truncation keeps. -/
def xB (b : Nat) : FVal := fpValue fpBF16 b
def xPairs (l : List (Nat × Nat)) : List (FVal × FVal) := (l ++ List.replicate (32 - l.length) (0, 0)).map fun (p : Nat × Nat) => (xB p.1, xB p.2)
def xGroup0 : List (FVal × FVal) := xPairs [(0x3F80, 0x3F80), (0x3F80, 0xBF80), (0x3580, 0x3580)]
def xGroup1 : List (FVal × FVal) := xPairs [(0x3F80, 0x3F80), (0x3980, 0x3980), (0x3800, 0x3800)]
theorem test_group_sums :
    f32Bits (groupSum false false 1 0 xGroup0).1 = 0 ∧ f32Bits (groupSum false false 1 0 xGroup1).1 = 0x3F800001 ∧
    f32Bits (groupSum false false 1 0 (xPairs [(0x3F80, 0x3F80), (0x3980, 0x3980)])).1 = 0x3F800000 ∧
    f32Bits (dot false false 1 none [0, 0] (xGroup0 ++ xGroup1)).1 = 0x3F800001 ∧
    (outElem 1 false (dot false false 1 none [0, 0] (xGroup0 ++ xGroup1)).1).1 = 0x3F80 := by decide +kernel

theorem test_split :
    (let (hi, lo, lo2) := split3 (fpValue fpFP32 0x3FAAAAAB)
     (f32Bits hi, f32Bits lo, f32Bits lo2)) = (0x3FAA0000, 0x3BAA0000, 0x37AB0000) := by decide +kernel

/-- Chapter 05: a NaN group with an overflowed product, and its three variants. -/
def xNan (k1 : Nat × Nat) : FVal × NumFlags :=
  dot false false 1 none [0] (xPairs [(0x7F00, 0x4200), k1, (0x4040, 0x4000), (0xBF80, 0x4080)])
theorem test_nan_group :
    (f32Bits (xNan (0x7FC1, 0x3F80)).1 = 0x7FC00000 ∧ (xNan (0x7FC1, 0x3F80)).2 = { nanSeen := true, nv := false, of := true }) ∧
    (f32Bits (xNan (0x7F81, 0x3F80)).1 = 0x7FC00000 ∧ (xNan (0x7F81, 0x3F80)).2 = { nanSeen := true, nv := true, of := true }) ∧
    (f32Bits (xNan (0xFF00, 0x4200)).1 = 0x7FC00000 ∧ (xNan (0xFF00, 0x4200)).2 = { nanSeen := false, nv := true, of := true }) ∧
    (f32Bits (xNan (0, 0x3F80)).1 = 0x7F800000 ∧ (xNan (0, 0x3F80)).2 = { nanSeen := false, nv := false, of := true }) := by decide +kernel
theorem test_nan_outputs :
    (let v := (xNan (0x7FC1, 0x3F80)).1
     (List.range 5).map (fun c => (outElem c false v).1)) = [0x7FC00000, 0x7FC0, 0x7E00, 0x7F, 0x7F] ∧
    (let v := (xNan (0, 0x3F80)).1
     ((List.range 5).map fun c => (outElem c true v).1)) = [0x7F7FFFFF, 0x7F7F, 0x7BFF, 0x7E, 0x7B] ∧
    (let v := (xNan (0, 0x3F80)).1
     ((outElem 1 false v).1, (outElem 3 false v).1) = (0x7F80, 0x7F)) := by decide +kernel

/-- Chapter 06: 32 values to MXFP4, with and without NOCLIP. -/
def xCvt (noClip : Nat) : List Byte := [
  0x72, 0, 0, 0, 0, 0, 0, 0, 0x00, 0x00, 0x40, 0x00, 0x00, 0x00, 0x50, 0x00,
  0x00, 0x00, 0x60, 0x00, 0x20, 0x00, 0x00, 0x00, 0xB0, 0x00, 0x1F, 0x00, BitVec.ofNat 8 noClip, 0, 0, 0]
def xCvtIn : List FVal := ([0x40A00000, 0xBFA00000, 0x3E99999A, 0x41E00000] ++ List.replicate 28 0).map (fpValue fpFP32)
theorem test_mxfp4 :
    (let o := cvtMx 0 (xCvt 0) xCvtIn
     (o.scales, (packElems 4 o.elems).take 2, o.clipped, o.flushed) = ([0x81], [0x92, 0x70], 1, 1)) ∧
    (let o := cvtMx 0 (xCvt 8) xCvtIn
     (o.scales, (packElems 4 o.elems).take 2, o.clipped, o.flushed, o.raised) = ([0x82], [0x81, 0x60], 0, 2, 1)) := by decide +kernel

/-- Chapter 06: stochastic rounding of 1 + 2^-9 with the two words. -/
theorem test_stochastic :
    (cvtElem 1 false (some 0x2C410B7E) (fpValue fpFP32 0x3F804000)).1 = 0x3F81 ∧ (cvtElem 1 false (some 0x9A3E0011) (fpValue fpFP32 0x3F804000)).1 = 0x3F80 ∧
    (cvtElem 1 false (some 0x2C410B7E) (fpValue fpFP32 0xBF804000)).1 = 0xBF81 ∧ (cvtElem 1 false (some 0x9A3E0011) (fpValue fpFP32 0xBF804000)).1 = 0xBF80 := by
  decide +kernel

/-- Chapter 07: half the width of the permutation's domain for 1,000,000 samples. -/
theorem test_permutation_width : permHalf 1000000 = 10 ∧ permHalf 1 = 1 := by decide +kernel

/-- Chapter 09: the row codes and payloads of the activations example, and the table of 810,623,232 chunks. -/
theorem test_row_codes :
    (let row : List Byte := List.replicate 20 7 ++ zeros 44
     let row' : List Byte := List.replicate 20 8 ++ zeros 44
     (encodeRows none [row, row', row', zeros 64]).map (fun x => (x.1, x.2.length))) = [(2, 28), (2, 28), (1, 0), (0, 0)] ∧
    tableBlocks 810623232 = 1583252 := by decide +kernel

/-- Chapter 10: the bicubic taps of output 0, and the grey and the white. -/
theorem test_bicubic : tapsAt 2 1920 224 1 32768 0 = [(2, -77), (3, 776), (4, 3670), (5, -273)] := by decide +kernel
theorem test_colour :
    (colourK 1 false).cY = 1225714 ∧ toRgb (colourK 1 false) 2008 2048 2048 = (32768, 32768, 32768) ∧
    toRgb (colourK 1 false) 3760 2048 2048 = (65535, 65535, 65535) ∧ dtypeElem (zeros 256) 0 32768 = 128 ∧ dtypeElem (zeros 256) 0 65535 = 255 := by
  decide +kernel

/-- Chapter 11: the program of three terms, and the two records. -/
def xProgram : List Byte :=
  [0x5A, 0x49, 0x52, 0x53, 0x01, 0x03, 0x02, 0x00, 0x03, 0x00, 0x04, 0x00, 0, 0, 0, 0] ++ zeros 48 ++
  [0x6C, 0x00, 0x02, 0x00, 0x06, 0, 0, 0, 0x03, 0, 0, 0, 0, 0, 0, 0, 0x07, 0, 0, 0, 0, 0, 0, 0, 0, 0, 0, 0, 0, 0, 0, 0] ++
  [0x70, 0x00, 0x02, 0x03, 0x05, 0, 0, 0, 0x00, 0x3F, 0, 0, 0, 0, 0, 0] ++ zeros 16 ++
  [0x6E, 0x00, 0x02, 0x04, 0x00, 0, 0, 0, 0x66, 0x72, 0, 0, 0, 0, 0, 0] ++ zeros 16
theorem test_program :
    badProgram xProgram 128 = none ∧ passes xProgram (wSet (zeros 128) [(108, 2, 5), (112, 2, 0x3EE6), (110, 2, 0x7266)]) = true ∧
    passes xProgram (wSet (zeros 128) [(108, 2, 5), (112, 2, 0x7FC0), (110, 2, 0x6E65)]) = false := by decide +kernel

/-- Chapter 13: the page's address on G05, and the fragment's. -/
theorem test_flash_addresses :
    2 ^ 38 + slotAddr 5 812 (1500 * 216 + 3 * 36 + 17) = 0x4A8B32C5DC ∧ fragAddr (slotAddr 5 1121 (33 * 216 + 2)) 1 = 0x8A10461421 := by decide +kernel

/-- Chapter 14: L17 of position 2 faces position 4 at L65, and back. -/
theorem test_facing :
    facing { wUp with rst := { wUp.rst with groupPos := 2 } } 17 = some (4, 65) ∧ facing { wUp with rst := { wUp.rst with groupPos := 4 } } 65 = some (2, 17) := by decide +kernel

/-- Chapter 17: the line stored for 0x0050_0012_3440 read at 0x0050_0012_3400. -/
theorem test_line_code :
    lineOutcome 0x005000123440 (zeros 64) 0x63d67c11 = .clean ∧ lineOutcome 0x005000123400 (zeros 64) 0x63d67c11 = .address 64 := by decide +kernel

/-! ### Single steps -/

theorem test_idle_tick_under_por : (tick State.reset).ts = 0 := by decide

theorem test_idle_tick : (tick { wUp with rst := { wUp.rst with por := false } }).ts = 10 := by decide +kernel

/-- Chapter 01: HELLO with versions 2.0 to 3.1 gives RESULT 0x0020_2020. -/
theorem test_hello :
    (match exec (.hello wR) (wReqOn wUp (wExec 1 1 [(0x20, 1, 0x20), (0x21, 1, 0x31)])) with
     | .next t => (mbox t 0).waiting.map fun w => (w.cpl.status, w.cpl.result)
     | _ => []) = [(0, 0x202020)] := by decide +kernel

/-- A front command that does not apply leaves the rest of the queue (R455). -/
theorem test_front_command :
    step { wUp with pending := [.blockIdle, .trstN] } = .next { wUp with pending := [.trstN] } := rfl

end Sys2Proof.Machine
end

