-- ==== Sys2Proof/Tests/WitnessKlova.lean ====
section
/-! SUPPORT. States and operands that meet the hypotheses of the statements about mailboxes, requests and partitions, one theorem for each
statement, its clauses in order. -/

namespace Sys2Proof.Machine

set_option Elab.async false

theorem witness_Doorbells :
    Writable wUp 0 0 ∧ Writable (wMb fun m => { m with enabled := true }) 0 255 ∧
    ((mbox (wMb fun m => { m with enabled := true }) 0).enabled = true ∧ (63 : Word).toNat % 4096 < 2 ^ (mbox wUp 0).reqLog2.toNat) ∧
    ¬((64 : Word).toNat % 4096 < 2 ^ (mbox wUp 0).reqLog2.toNat) ∧ (mbox wUp 0).enabled ≠ true := by
  decide +kernel

/-- A mailbox that is not the function's, and an offset at which it has no window: the physical function has all, VF1 has none. -/
theorem witness_NotOwned : ownerOf wUp 0 ≠ (1 : Fn).val ∧ windowOf wUp 1 0 = none ∧ windowOf wUp 0 0xFF1000 = some (255, 0x1000) := by
  decide +kernel

/-- A write of KLV_CTRL carries the guarded fields as they stand. -/
abbrev wGuarded (s : State) (v : Word) : Prop :=
  v.toNat / 256 % 16 = (mbox s 0).reqLog2.toNat ∧ v.toNat / 4096 % 16 = (mbox s 0).cplLog2.toNat ∧
    v.toNat / 65536 % 2048 = (mbox s 0).msixVec.toNat

/-- An enabled mailbox. -/
def wMbOn : State := wMb fun m => { m with en := true, enabled := true }

/-- A mailbox with EN 0, ENABLED as given, and a committed request. -/
def wOff (b : Bool) : State := wMb fun m => { m with enabled := b, execs := [{ wExec 1 6 [] with committed := true }] }

/-- EN written to a disabled mailbox with bases; the same on an enabled one; and MRESET. -/
theorem witness_ControlWrites :
    (Writable wUp 0 0 ∧ (0x6601 : Word).getLsbD 0 = true ∧ (0x6601 : Word).getLsbD 3 = false ∧ (mbox wUp 0).en = false ∧
      (mbox wUp 0).enabled = false) ∧
    (Writable wMbOn 0 0 ∧ (mbox wMbOn 0).enabled = true ∧ (mbox wMbOn 0).en = true ∧ wGuarded wMbOn 0x6600 ∧ wGuarded wMbOn 0x6603 ∧
     (0x6600 : Word).getLsbD 3 = false ∧ (0x6603 : Word).getLsbD 3 = false ∧
     (0x6600 : Word).getLsbD 0 = false ∧ (0x6603 : Word).getLsbD 0 = true ∧ (0x6603 : Word).getLsbD 1 = true) ∧
    (Writable (wOff true) 0 0 ∧ (mbox (wOff true) 0).en = false ∧ (mbox (wOff true) 0).enabled = true ∧ wGuarded (wOff true) 0x6608) ∧
    (Writable (wOff false) 0 0 ∧ (mbox (wOff false) 0).enabled = false ∧ (∀ x ∈ (mbox (wOff false) 0).execs, x.committed = true) ∧
      wGuarded (wOff false) 0x6608) ∧
    (0x6608 : Word).getLsbD 0 = false ∧ (0x6608 : Word).getLsbD 3 = true := by
  decide +kernel

theorem witness_MailboxEvents :
    (let s := wMb fun m => { m with en := true, rising := true }
     (mbox s 0).en = true ∧ (mbox s 0).rising = true ∧ s.rst.ready = true ∧ (s.fw.running = 2 → s.fw.recovered = true ∨ (0 : Mb) = 0)) ∧
    (let s := wMb fun m => { m with enabled := true }
     (mbox s 0).en = false ∧ (mbox s 0).enabled = true) ∧
    (mbox (wMb fun m => { m with active := true }) 0).active = true ∧
    (let s := wMb fun m => { m with resetting := true, execs := [wExec 1 6 []] }
     (mbox s 0).resetting = true ∧ (∀ x ∈ (mbox s 0).execs, x.committed = false)) ∧
    (let s := wMb fun m => { m with en := true, rising := true, enabled := true, reqTail := 1 }
     (mbox s 0).rising = true ∧ isEvselMb s 0 = false) := by
  decide +kernel

/-- A mailbox with one entry of HSEQ `h` in its ring and KLV_NEXT_HSEQ 5. -/
def wRing (h cls : Nat) (recs : Tbl Rec) : State :=
  { wMb (fun m => { m with en := true, enabled := true, ver := 0x20, reqBase := 0x10000, cplBase := 0x20000, nextHseq := 5, reqTail := 1
                           recs }) with hmem := mwrite [] 0x10000 (setFld (wEntry cls 6 []) 4 4 h) }

/-- The record of request 4, completed or not. -/
def wRec (c : Option Cpl) : Tbl Rec := [(4, { hseq := 4, cls := 1, op := 6, tag := 0, cpl := c, dseq := 0 })]

/-- The head of the ring is an entry of HSEQ `h` with OOW clear, and it is the mailbox's turn. -/
abbrev wHead (h cls : Nat) (recs : Tbl Rec) : Prop :=
  turnOf (wRing h cls recs) 0 = some 0 ∧ entOow (headEntry (wRing h cls recs) (mbox (wRing h cls recs) 0)) = false ∧
    fld (headEntry (wRing h cls recs) (mbox (wRing h cls recs) 0)) 4 4 = h

/-- The check of an accepted entry of class `cls` at the head. -/
def wCheck (cls : Nat) : Option (Nat × Nat) :=
  let s := wRing 5 cls []
  let e := headEntry s (mbox s 0)
  let x := newExec (takeHead s 0) (mbox (takeHead s 0) 0) e none
  checkEntry (updMb (updMb (nextTaken (takeHead s 0)) 0 (acceptEntry x)) 0 (onReceive e)) 0 e none

/-- The turn: an entry with back 0 that passes the checks and one that does not; back 1 with a record pending and completed; back 4,096 and
4,097 without a record; back -1. -/
theorem witness_ConsumeClassifies :
    wHead 5 1 [] ∧ wCheck 1 = none ∧ wHead 5 0x0C [] ∧ wCheck 0x0C = some (0x0016, 0) ∧
    wHead 4 1 (wRec none) ∧ ((5 : Word) - BitVec.ofNat 32 4).toNat = 1 ∧ (tfind? (wRec none) 4).isSome = true ∧
    wHead 4 1 (wRec (some (cplOf 0 (wExec 1 6 []) (ansOk 0)))) ∧ wHead 4294963205 1 [] ∧
    ((5 : Word) - BitVec.ofNat 32 4294963205).toNat = 4096 ∧ wHead 4294963204 1 [] ∧
    ((5 : Word) - BitVec.ofNat 32 4294963204).toNat = 4097 ∧ wHead 6 1 [] ∧ ((5 : Word) - BitVec.ofNat 32 6).toNat = 0xFFFFFFFF := by
  decide +kernel

/-- A mailbox of a virtual function, with a negotiated version. -/
def wVf : State :=
  { wMb (fun m => { m with ver := 0x20 }) with prt :=
    { wUp.prt with vfEnable := true, numVFs := 1, cfg := { wUp.prt.cfg with parts := [(0, { prec wUp 0 with vf := 1 })] } } }

/-- R57 in order: no version, another version, classes 0 and 0x0C, opcode 0xFF, a reserved byte, and a class not permitted on the mailbox. -/
theorem witness_CheckOrder :
    ¬(entCls (wEntry 1 6 []) = 1 ∧ entOp (wEntry 1 6 []) = 1) ∧ (mbox wUp 0).ver = 0 ∧ (mbox wVf 0).ver ≠ 0 ∧
    fld (wEntry 1 6 [(2, 1, 0x21)]) 2 1 ≠ (mbox wVf 0).ver.toNat ∧ fld (wEntry 1 6 []) 2 1 = (mbox wVf 0).ver.toNat ∧
    entCls (wEntry 0x0C 6 []) = 0x0C ∧ entCls (wEntry 0 6 []) = 0 ∧ findOp 1 0xFF = none ∧
    (findOp 1 6).bind (firstReserved · (wEntry 1 6 [(0x20, 1, 1)])) = some 0x20 ∧
    (findOp 2 2).isSome = true ∧ (findOp 2 2).bind (firstReserved · (wEntry 2 2 (wIn 5184))) = none ∧
    (findOp 2 2).map (permitted wVf 0 · (wEntry 2 2 (wIn 5184))) = some false := by
  decide +kernel

/-- A completion waiting to be posted. -/
def wWaitingCpl : Waiting := { cpl := cplOf 0 (wExec 1 6 []) (ansOk 0), replay := false, oow := false, evsel := none, outPayload := [] }

/-- A completion waits at tail 63 of a ring of 64, with MSI-X armed or not, and the host's head at 1. -/
def wPost (armed : Bool) : State :=
  wMb fun m => { m with en := true, enabled := true, waiting := [wWaitingCpl], cplBase := 0x20000, cplTail := 63, cplHead := 1
                        msixEn := true, msixArmed := armed }

abbrev wCanPost (s : State) : Prop :=
  s.memOk ∧ (mbox s 0).waiting = [wWaitingCpl] ∧ isEvselMb s 0 = false ∧ (mbox s 0).en = true ∧ (mbox s 0).enabled = true ∧
    (mbox s 0).rising = false ∧ ((mbox s 0).cplTail.toNat + 1) % 2 ^ (mbox s 0).cplLog2.toNat ≠ (mbox s 0).cplHead

theorem witness_PostingWrites :
    wCanPost (wPost true) ∧ wCanPost (wPost false) ∧ (mbox (wPost true) 0).msixArmed = true ∧ (mbox (wPost true) 0).msixEn = true ∧
    (mbox (wPost false) 0).msixArmed = false := by
  decide +kernel

/-- A request of a class, its commit point passed or not, alone on its mailbox. -/
def wOne (x : Exec) : State := wReqOn wUp x

/-- An ABORT out of window that names request 2, beside a request 2 of its own form. -/
def wAbort (h : Nat) (l : List Exec) (recs : Tbl Rec) : State :=
  updMb (wOne (wExec 1 3 [(0x20, 4, h)])) 0 fun m => { m with execs := m.execs ++ l, recs }

def wReqTarget (committed : Bool) : Exec := { wExec 1 6 [] with hseq := 2, begun := true, committed }

abbrev wAbortReq (h : Nat) (l : List Exec) (recs : Tbl Rec) : Prop :=
  Outlet (wAbort h l recs) wR (wExec 1 3 [(0x20, 4, h)]) ∧ AtTurn (wAbort h l recs) wR (wExec 1 3 [(0x20, 4, h)]) 1 3

theorem witness_RequestEnds :
    (findExec (wOne { wExec 1 6 [] with committed := true }) wR = some { wExec 1 6 [] with committed := true }) ∧
    (findExec (wOne (wExec 2 1 [])) wR = some (wExec 2 1 []) ∧ (wExec 2 1 []).timeoutUs = some 2000 ∧ (wExec 2 1 []).committed = false ∧
      Outlet (wOne (wExec 2 1 [])) wR (wExec 2 1 []) ∧ entCls (wExec 2 1 []).entry = 2) ∧
    wAbortReq 1 [] [] ∧ BitVec.ofNat 32 (prm (wExec 1 3 [(0x20, 4, 1)]) 0x20 4) = (wExec 1 3 []).hseq ∧
    (wAbortReq 2 [wReqTarget true] [] ∧ findExec (wAbort 2 [wReqTarget true] []) ⟨0, false, 2⟩ = some (wReqTarget true)) ∧
    (wAbortReq 2 [] [] ∧ findExec (wAbort 2 [] []) ⟨0, false, 2⟩ = none) ∧
    (wAbortReq 4 [] (wRec none) ∧ (tfind? (mbox (wAbort 4 [] (wRec none)) 0).recs 4).isSome = true) ∧
    (wAbortReq 2 [wReqTarget false] [] ∧ findExec (wAbort 2 [wReqTarget false] []) ⟨0, false, 2⟩ = some (wReqTarget false) ∧
      (wReqTarget false).committed = false ∧ (wReqTarget false).evsel = none ∧ (wReqTarget false).replays = [] ∧ entCls (wReqTarget false).entry = 1) := by
  and_intros <;> decide +kernel

/-- An EVENT_WAIT at its turn, with `n` others waiting and queued events. -/
def wWait (n : Nat) (l : List Event) : State :=
  updMb wUp 0 fun m => { m with
    en := true, enabled := true, ver := 0x20, events := l, execs := wExec 1 5 [] :: (List.range n).map fun i =>
      { wExec 1 5 [] with hseq := BitVec.ofNat 32 (i + 10), begun := true } }

abbrev wEvWaits (n : Nat) (l : List Event) : Prop :=
  Outlet (wWait n l) wR (wExec 1 5 []) ∧ AtTurn (wWait n l) wR (wExec 1 5 []) 1 5 ∧ (wExec 1 5 []).begun = false ∧ wR.oow = false ∧
    (eventWaiters (mbox (wWait n l) 0)).length = n ∧ (mbox (wWait n l) 0).events = l

theorem witness_SysAnswers :
    wTurn wUp 1 1 [(0x20, 1, 0x20), (0x21, 1, 0x20)] ∧ wTurn wUp 1 1 [(0x20, 1, 0x21), (0x21, 1, 0x22)] ∧ wTurn wUp 1 6 [] ∧
    wTurn wUp 1 4 [(0x24, 4, 1)] ∧ wTurn wUp 1 2 [] ∧ wUp.ident.workingArrays < 256 ∧ wUp.ident.flashChannels < 256 ∧
    wEvWaits 0 [.ev 6 0] ∧ wEvWaits 4 [] ∧ wEvWaits 3 [] ∧ wEvWaits 0 [] := by
  and_intros <;> decide +kernel

/-- VF1 exists, P0 belongs to it, and a committed request executes on MB000. -/
def wVfOn (e : Bool) : State :=
  { wReqOn wUp { wExec 1 6 [] with committed := true } with prt :=
    { wUp.prt with vfEnable := e, numVFs := 1, cfg := { wUp.prt.cfg with parts := [(0, { prec wUp 0 with vf := 1 })] } } }

theorem witness_FunctionResets :
    ctrlExists wUp 0 = true ∧ wUp.rst.active = false ∧ ctrlExists (wVfOn true) (1 : Fn).val = true ∧ (wVfOn true).rst.active = false ∧
    (∀ n : Mb, ∀ x ∈ (mbox (wVfOn true) n.val).execs, x.committed = true) ∧ (∀ n : Mb, ∀ x ∈ (mbox (wVfOn false) n.val).execs, x.committed = true) ∧
    ownerOf (wVfOn true) 0 = 1 ∧ ownerOf (wVfOn false) 0 = 0 ∧ vfsChange (wVfOn false) true 1 true = true ∧
    vfsChange (wVfOn true) false 0 false = true := by
  decide +kernel

theorem witness_PartitionRequests :
    wTurn wUp 2 1 [] ∧ wTurn wUp 2 5 [(0x20, 1, 4)] ∧ wTurn wUp 2 4 [] ∧ wTurn wUp 2 3 [] ∧ prm (wExec 2 3 []) 0x20 1 = reqPart wR ∧
    wTurn wUp 2 3 [(0x20, 1, 15)] ∧ prm (wExec 2 3 [(0x20, 1, 15)]) 0x20 1 = 15 ∧ 15 ≠ reqPart wR ∧ (∀ j ∈ wUp.sch.jobs, j.2.part ≠ 15) ∧
    (prec wUp 15).vf = 0 ∧ (∀ n : Mb, n.val / 16 = 15 → ∀ y ∈ (mbox (wOne (wExec 2 3 [(0x20, 1, 15)])) n.val).execs, y.committed = true) ∧
    (∀ c < 32, (prec wUp 15).clusters.getLsbD c = true → clusterOwner wUp c = some 15) ∧
    (∀ c < 32, ∀ y ∈ tget [] wUp.coh.caches c, inDram (lineAddr y.1) 64 = true) ∧ wUp.memOk ∧ ownedBlocks wUp 15 = [] := by
  and_intros <;> decide +kernel

/-- A PART_RESET of P1, active, which owns cluster 3; its line in the cluster's cache lies in DRAM. -/
def wPart1 : State :=
  { wUp with
    prt := { wUp.prt with cfg := { wUp.prt.cfg with parts := [(1, { prec wUp 0 with active := true, vf := 0, clusters := 8 })] } }
    coh := { wUp.coh with caches := [(3, [(0x005000000000 / 64, { st := .m, data := zeros 64 })])] } }

theorem witness_PartitionRequests_clusters :
    (let x : Exec := { wExec 2 3 [(0x20, 1, 1)] with cfg := wPart1.prt.cfg }
     let s := wReqOn wPart1 x
     Outlet s wR x ∧ AtTurn s wR x 2 3 ∧ prm x 0x20 1 = 1 ∧ 1 ≠ reqPart wR ∧ (∀ j ∈ s.sch.jobs, j.2.part ≠ 1) ∧ (prec s 1).vf = 0 ∧
     (∀ n : Mb, n.val / 16 = 1 → ∀ y ∈ (mbox s n.val).execs, y.committed = true) ∧ s.memOk ∧ (prec s 1).active = true ∧
     (prec s 1).clusters.getLsbD 3 = true ∧ (∀ c < 32, (prec s 1).clusters.getLsbD c = true → clusterOwner s c = some 1) ∧
     (∀ c < 32, ∀ y ∈ tget [] s.coh.caches c, inDram (lineAddr y.1) 64 = true)) := by
  decide +kernel

/-- The application in progress that another request, or the same, asked for. -/
def wApplying (written : Bool) (affected : Half) : Applying :=
  { req := some ⟨0, false, 9⟩, img := factoryCfg Ident.reset 0, newKeys := 0, affected, force := false, written }

theorem witness_Activation :
    wUp.prt.applying = none ∧ ({ wUp with prt := { wUp.prt with applying := some (wApplying false 1) } } : State).prt.applying = some (wApplying false 1) ∧
    (wApplying false 1).written = false ∧
    (let s := { wUp with prt := { wUp.prt with applying := some (wApplying true 0x8001) } }
     s.prt.applying = some (wApplying true 0x8001) ∧ (wApplying true 0x8001).written = true ∧
     (regOf s 1).pos = 0 ∧ waitsWrites s (wApplying true 0x8001) = false ∧
     (∀ n : Mb, ∀ x ∈ (mbox s n.val).execs, x.committed = true) ∧ (wApplying true 0x8001).affected.getLsbD 15 = true) := by
  decide +kernel

/-- An ARRAY_STATUS of P0 for cluster 0, accepted under the configuration `old`, in a machine whose configuration is `new`. -/
def wOlder (old new : Nat) : Exec × State :=
  let cfg (n : Nat) : Cfg := { wUp.prt.cfg with parts := [(0, { prec wUp 0 with active := true, clusters := BitVec.ofNat 32 n })] }
  let x : Exec := { wExec 9 0x41 [] with cfg := cfg old }
  (x, wReqOn { wUp with prt := { wUp.prt with cfg := cfg new } } x)

/-- The cluster was not yet the partition's at the acceptance, or is no more. -/
theorem witness_Activation_older :
    (∀ y ∈ [wOlder 0 1, wOlder 1 0], findExec y.2 wR = some y.1 ∧ canBegin wR (mbox y.2 0).execs y.1 = true ∧ y.1.cfg ≠ y.2.prt.cfg ∧
      entCls y.1.entry = 9 ∧ entOp y.1.entry = 0x41 ∧ prm y.1 0x20 1 = 0 ∧ Outlet y.2 wR y.1) ∧
    (let y := wOlder 0 1
     clusterOwner y.2 0 = some (reqPart wR) ∧ clusterOwner (underCfg y.2 y.1.cfg) 0 ≠ some (reqPart wR)) ∧
    (let y := wOlder 1 0
     clusterOwner (underCfg y.2 y.1.cfg) 0 = some (reqPart wR)) := by
  decide +kernel

/-- A frame that is not withheld with a slot owned by the sealed P1, and one that is withheld. -/
def wReg (held : Bool) : State :=
  { wUp with prt := { wUp.prt with
      cfg := { wUp.prt.cfg with parts := [(1, { prec wUp 0 with sealedP := true, vf := 1 })] }
      regs := [(1, { regulatorReset with table := List.replicate 256 1, pos := 255, withheld := held })] } }

theorem witness_Regulators :
    isSealed (wReg false) 1 = true ∧ (regOf (wReg false) 1).pos = 255 ∧ (regOf (wReg false) 1).withheld = false ∧
    (regOf (wReg false) 1).table[255]? = some 1 ∧ (regOf (wReg true) 1).withheld = true ∧ (regOf (wReg true) 1).pos = 255 ∧
    isActive (wReg false) 2 = false ∧ 16 ≤ ((regOf wUp 1).table[0]?).getD 16 := by
  decide +kernel

end Sys2Proof.Machine
end

