-- ==== Sys2Proof/Tests/WitnessApply.lean ====
section
/-! SUPPORT. States that meet the hypotheses of the statement about CONFIG_APPLY: an image of 5,184 bytes that passes every check. -/

namespace Sys2Proof.Machine

set_option Elab.async false

/-- A CONFIG_APPLY with a payload of `n` bytes, accepted under the configuration of the epoch. -/
def wApplyExec (epoch : Word) (n : Nat) : Exec := { wExec 2 2 (wIn n) with cfg := { wUp.prt.cfg with epoch } }

/-- A CONFIG_APPLY with a payload of `n` bytes at 0x10000 of host memory `hm`. -/
def wApply (a : Option Applying) (epoch : Word) (hm : Memory) (n : Nat) (other : List Exec) : State :=
  let s := { wUp with hmem := hm, prt := { wUp.prt with applying := a, cfg := { wUp.prt.cfg with epoch } } }
  updMb (wReqOn s (wApplyExec epoch n)) 0 fun m => { m with execs := m.execs ++ other }

abbrev wApplies (a : Option Applying) (epoch : Word) (hm : Memory) (n : Nat) (other : List Exec) : Prop :=
  Outlet (wApply a epoch hm n other) wR (wApplyExec epoch n) ∧ AtTurn (wApply a epoch hm n other) wR (wApplyExec epoch n) 2 2 ∧
    (wApplyExec epoch n).cfg.epoch = (wApply a epoch hm n other).prt.cfg.epoch ∧ (wApplyExec epoch n).applying = false

/-- An image in which P0 has everything but all of the root segments but one. -/
def wImage : Memory :=
  [(0x10000, 0x50), (0x10001, 0x43), (0x10002, 0x46), (0x10003, 0x47), (0x10004, 0x01), (0x10008, 0x40), (0x10009, 0x14), (0x10040,
   0x01), (0x10044, 0xFF), (0x10045, 0xFF), (0x10046, 0xFF), (0x10047, 0xFF), (0x10048, 0xFF), (0x10049, 0xFF), (0x1004A, 0xFF),
   (0x1004B, 0xFF), (0x1004C, 0xFF), (0x1004D, 0xFF), (0x1004E, 0xFF), (0x10050, 0xFF), (0x10051, 0xFF), (0x10052, 0xFF), (0x10053,
   0xFF), (0x10054, 0xFF), (0x10055, 0xFF), (0x10056, 0xFF), (0x10057, 0xFF), (0x10058, 0xF0), (0x10059, 0xF0), (0x1005A, 0xF0),
   (0x1005B, 0xF0), (0x1005C, 0xF0), (0x10060, 0x01), (0x11040, 0x4C), (0x11041, 0x49), (0x11042, 0x4E), (0x11043, 0x4B), (0x11044,
   0x01), (0x11048, 0x01), (0x11058, 0xF0)]

/-- A field of the image is read from its cells. -/
theorem wImage_fld (o k : Nat) : fld (mread wImage 0x10000 5184) o k = leNat (mread wImage (0x10000 + o) k) :=
  fld_mread _ _ _ _ _ (mget_past _ _ (by decide +kernel))


/-- A list of checks none of which fails. -/
theorem imageFail_none (st : Nat) (l : List (Nat × Bool)) (h : ∀ x ∈ l, x.2 = false) : imageFail st l = none := by
  simp only [imageFail, Option.map_eq_none_iff, List.find?_eq_none]
  intro x hx; simp [h x hx]

/-- Reserved bytes among which no byte of memory is listed. -/
theorem resBytes_clear (m : Memory) (b : List Byte) (a off n : Nat) (f : ∀ o k, fld b o k = leNat (mread m (a + o) k))
    (h : (m.all fun c => decide (c.1 < a + off) || decide (a + off + n ≤ c.1)) = true) : ∀ x ∈ resBytes b off n, x.2 = false := by
  intro x hx
  simp only [resBytes, List.mem_map, List.mem_range] at hx
  obtain ⟨i, hi, rfl⟩ := hx
  have : mget m (a + (off + i)) = 0 := by
    clear f
    induction m with
    | nil => rfl
    | cons c t ih =>
      obtain ⟨k, v⟩ := c
      simp only [List.all_cons, Bool.and_eq_true, Bool.or_eq_true, decide_eq_true_eq] at h
      simp only [mget]
      split
      · rfl
      · split
        · omega
        · exact ih h.2
  simp [f, mread, leNat, this]

theorem wImage_h1 (b : List Byte) (f : ∀ o k, fld b o k = leNat (mread wImage (0x10000 + o) k)) (hl : b.length = 5184) :
    checkImage b = none := by
  have c : ∀ off n, (wImage.all fun c => decide (c.1 < 0x10000 + off) || decide (0x10000 + off + n ≤ c.1)) = true →
      ∀ x ∈ resBytes b off n, x.2 = false := fun off n h => resBytes_clear wImage b 0x10000 off n f h
  unfold checkImage
  rw [hl, if_neg (by decide)]
  apply imageFail_none
  intro x hx
  simp only [List.mem_append, List.mem_flatMap, List.mem_range, List.mem_cons, List.not_mem_nil, or_false, f] at hx
  rcases hx with (((((rfl | rfl) | hx) | rfl) | hx) | ⟨p, hp, hx⟩)
  · decide +kernel
  · decide +kernel
  · exact c 5 3 (by decide +kernel) x hx
  · decide +kernel
  · exact c 0x10 48 (by decide +kernel) x hx
  · have h : ∀ p < 16, (bits (leNat (mread wImage (0x10000 + partOff p) 1)) 7 4 != 0) = false ∧
        (bits (leNat (mread wImage (0x10000 + (partOff p + 0xC)) 4)) 31 30 != 0) = false := by decide +kernel
    rcases hx with ((((rfl | rfl) | hx) | hx) | hx)
    · exact (h p hp).1
    · exact (h p hp).2
    · exact c _ _ (by clear hx; revert p; decide +kernel) x hx
    · exact c _ _ (by clear hx; revert p; decide +kernel) x hx
    · exact c _ _ (by clear hx; revert p; decide +kernel) x hx

/-- The image's fields: the records of P1 to P15 are zero. -/
def wFld (o k : Nat) : Nat :=
  cond (Nat.ble 0x140 o && Nat.ble (o + k) 0x1040) 0 (leNat (mread wImage (0x10000 + o) k))

theorem mget_clear (m : Memory) (a n x : Nat) (h : (m.all fun c => decide (c.1 < a) || decide (a + n ≤ c.1)) = true) (h1 : a ≤ x) (h2 : x < a + n) :
    mget m x = 0 := by
  induction m with
  | nil => rfl
  | cons c t ih =>
    obtain ⟨k, v⟩ := c
    simp only [List.all_cons, Bool.and_eq_true, Bool.or_eq_true, decide_eq_true_eq] at h
    simp only [mget]
    split
    · rfl
    · split
      · omega
      · exact ih h.2

theorem leNat_mread_clear (m : Memory) (x k : Nat) (h : ∀ y, x ≤ y → y < x + k → mget m y = 0) : leNat (mread m x k) = 0 := by
  induction k generalizing x with
  | zero => rfl
  | succ k ih => simp [mread, leNat, h x (Nat.le_refl x) (by omega), ih (x + 1) (fun y h1 h2 => h y (by omega) (by omega))]

theorem wImage_wFld (o k : Nat) : fld (mread wImage 0x10000 5184) o k = wFld o k := by
  rw [wImage_fld, wFld]
  cases hc : (Nat.ble 0x140 o && Nat.ble (o + k) 0x1040) with
  | false => rfl
  | true =>
    simp only [Bool.and_eq_true, Nat.ble_eq] at hc
    exact leNat_mread_clear _ _ _ fun y h1 h2 => mget_clear wImage 0x10140 0xF00 y (by decide +kernel) (by omega) (by omega)

theorem orFail_none (a b c d e f g : Fail) (h1 : a = none) (h2 : b = none) (h3 : c = none) (h4 : d = none) (h5 : e = none) (h6 : f = none)
    (h7 : g = none) : orFail [a, b, c, d, e, f, g] = none := by
  subst_vars; rfl

theorem wImage_passes (other : List Exec) :
    checkCfg (begunExec (wApply none 1 wImage 5184 other) wR) 0 (mread wImage 0x10000 5184) = none := by
  have h1 := wImage_h1 _ wImage_fld (mread_length _ _ _)
  have h2 : checkInactive (mread wImage 0x10000 5184) = none := by simp only [checkInactive, wImage_wFld]; decide +kernel
  have h3 : checkClaims (mread wImage 0x10000 5184) = none := by simp only [checkClaims, wImage_wFld]; decide +kernel
  have h4 : checkRanges Ident.reset (mread wImage 0x10000 5184) = none := by simp only [checkRanges, wImage_wFld]; decide +kernel
  have h5 : checkShares (mread wImage 0x10000 5184) = none := by simp only [checkShares, wImage_wFld]; decide +kernel
  have h6 : checkLinks (mread wImage 0x10000 5184) 0 (fun l => match facing wUp l with
      | some (q, _) => !bitAt (fld (mread wImage 0x10000 5184) 0x1044 1) q
      | none => decide (l < 96)) = none := by
    delta checkLinks checkPort resBytes
    simp only [wImage_wFld]; decide +kernel
  have h7 : ownerIn (vfExists (wApply none 1 wImage 5184 other)) (decodePart (slice (mread wImage 0x10000 5184) (partOff 0) 256)) 0 = 0 := by
    have : (decodePart (slice (mread wImage 0x10000 5184) (partOff 0) 256)).vf = 0 := by decide +kernel
    simp [ownerIn, this]
  have e : ownerOf (begunExec (wApply none 1 wImage 5184 other) wR) 0 = 0 := by
    have : (prec (begunExec (wApply none 1 wImage 5184 other) wR) 0).vf = 0 := rfl
    simp only [ownerOf, ownerIn, Nat.zero_div, this]; simp
  have h7' : (if ownerIn (vfExists (begunExec (wApply none 1 wImage 5184 other) wR)) (decodePart (slice (mread wImage 0x10000 5184) (partOff 0) 256)) 0 ==
      ownerOf (begunExec (wApply none 1 wImage 5184 other) wR) 0 then none else some (0x0105, 0)) = (none : Fail) := if_pos (by rw [e]; exact beq_iff_eq.2 h7)
  clear e h7
  generalize mread wImage 0x10000 5184 = b at *
  exact orFail_none _ _ _ _ _ _ _ h1 h2 h3 h4 h5 h6 h7'

/-- The bitmap of affected partitions with work, under the image, with these other requests executing. -/
def wBusy (other : List Exec) : Nat :=
  let s := wApply none 1 wImage 5184 other
  let b := inPayload s (wApplyExec 1 5184)
  let c := decodeCfg b 2
  natSum ((List.range 16).map fun p =>
    bnat ((affectedBits s c (newKeysOf b)).getLsbD p && hasWork (begunExec s wR) wR p (tget partRecNone c.parts p) ((newKeysOf b).getLsbD p)) * 2 ^ p)


theorem wApply_in (other : List Exec) : inPayload (wApply none 1 wImage 5184 other) (wApplyExec 1 5184) = mread wImage 0x10000 5184 := by
  have h : regions wImage (wExec 2 2 (wIn 5184)).entry = [{ addr := 0x10000, len := 5184, out := false, ix := 0 }] := by decide +kernel
  show gather wImage (regions wImage (wExec 2 2 (wIn 5184)).entry) = _
  rw [h]
  generalize 5184 = n
  simp [gather]

/-- The configuration the image holds, as the fields of the image. -/
theorem wDecoded (e : Nat) : (decodeCfg (mread wImage 0x10000 5184) e).parts = (List.range 16).map fun p =>
    (p, { active := bitAt (wFld (partOff p) 1) 0, sealedP := bitAt (wFld (partOff p) 1) 1, vf := BitVec.ofNat 8 (wFld (partOff p + 1) 1)
          pfMailboxes := BitVec.ofNat 16 (wFld (partOff p + 2) 2), clusters := BitVec.ofNat 32 (wFld (partOff p + 4) 4)
          dieGroups := BitVec.ofNat 32 (wFld (partOff p + 8) 4), dramSlices := BitVec.ofNat 32 (wFld (partOff p + 0xC) 4)
          engines := BitVec.ofNat 64 (wFld (partOff p + 0x10) 8), shDram := BitVec.ofNat 8 (wFld (partOff p + 0x18) 1)
          shFabric := BitVec.ofNat 8 (wFld (partOff p + 0x19) 1), shPcieOut := BitVec.ofNat 8 (wFld (partOff p + 0x1A) 1)
          shPcieIn := BitVec.ofNat 8 (wFld (partOff p + 0x1B) 1), shSage := BitVec.ofNat 8 (wFld (partOff p + 0x1C) 1)
          rootSegs := BitVec.ofNat 32 (wFld (partOff p + 0x20) 4)
          label := slice (slice (mread wImage 0x10000 5184) (partOff p) 256) 0x40 32 }) := by
  simp (disch := decide) only [decodeCfg, decodePart, fld_slice, wImage_wFld, Nat.add_zero]


theorem wNewKeys : newKeysOf (mread wImage 0x10000 5184) = 0 := by simp only [newKeysOf, wImage_wFld]; decide +kernel

theorem wAffected (s : State) (h : s.prt.cfg = wUp.prt.cfg) : affectedBits s (decodeCfg (mread wImage 0x10000 5184) 2) 0 = 1 := by
  simp only [affectedBits, wDecoded, prec, h]; decide +kernel

theorem wBusy_one : wBusy [wReqTarget false] = 1 := by
  have h := wAffected (wApply none 1 wImage 5184 [wReqTarget false]) rfl
  simp only [wBusy, wApply_in, wNewKeys, h, wDecoded]
  decide +kernel

theorem wBusy_none : wBusy [] = 0 := by
  have h := wAffected (wApply none 1 wImage 5184 []) rfl
  simp only [wBusy, wApply_in, wNewKeys, h, wDecoded]
  decide +kernel

/-- CONFIG_APPLY while another is in progress; at the last epoch; with an image of one byte; with a good image and another request of the
affected P0 executing; and with a good image and no work. -/
theorem witness_ApplyChecks :
    (wApplies (some (wApplying false 0)) 1 [] 0 [] ∧ (wApplying false 0).req ≠ some wR) ∧ wApplies none 0xFFFFFFFF [] 0 [] ∧
    (wApplies none 1 [] 1 [] ∧ checkCfg (begunExec (wApply none 1 [] 1 []) wR) 0 (inPayload (wApply none 1 [] 1 []) (wApplyExec 1 1)) =
      some (0x0100, 0)) ∧
    (wApplies none 1 wImage 5184 [wReqTarget false] ∧ checkCfg (begunExec (wApply none 1 wImage 5184 [wReqTarget false]) wR) 0
        (inPayload (wApply none 1 wImage 5184 [wReqTarget false]) (wApplyExec 1 5184)) = none ∧
      bitAt (prm (wApplyExec 1 5184) 0x20 4) 0 = false ∧ wBusy [wReqTarget false] = 1) ∧
    (wApplies none 1 wImage 5184 [] ∧ checkCfg (begunExec (wApply none 1 wImage 5184 []) wR) 0
        (inPayload (wApply none 1 wImage 5184 []) (wApplyExec 1 5184)) = none ∧ wBusy [] = 0 ∧
      waitsCtrls (wApply none 1 wImage 5184 [])
        (affectedBits (wApply none 1 wImage 5184 []) (decodeCfg (inPayload (wApply none 1 wImage 5184 []) (wApplyExec 1 5184)) 2) 0) = false ∧
      recordQueued (wApply none 1 wImage 5184 []) = false ∧
      waitsCommitted (begunExec (wApply none 1 wImage 5184 []) wR) wR
        (affectedBits (wApply none 1 wImage 5184 []) (decodeCfg (inPayload (wApply none 1 wImage 5184 []) (wApplyExec 1 5184)) 2) 0) = false) ∧
    (let s := wApply none 1 [] 0 []
     let x := wApplyExec 0 0
     Outlet s wR x ∧ s.prt.applying = none ∧ x.cfg.epoch ≠ s.prt.cfg.epoch) := by
  refine ⟨by decide +kernel, by decide +kernel, by decide +kernel, ⟨by decide +kernel, ?_, by decide +kernel, wBusy_one⟩,
    ⟨by decide +kernel, ?_, wBusy_none, ?_, by decide +kernel, ?_⟩, by decide +kernel⟩
  · rw [wApply_in]; exact wImage_passes _
  · rw [wApply_in]; exact wImage_passes _
  · rw [wApply_in, wAffected (wApply none 1 wImage 5184 []) rfl]; decide +kernel
  · rw [wApply_in, wAffected (wApply none 1 wImage 5184 []) rfl]; decide +kernel

end Sys2Proof.Machine
end

