-- ==== Sys2Proof/Tests/WitnessSystem.lean ====
section
/-! SUPPORT. States and operands that meet the hypotheses of the statements about resets, power, temperature, event inputs and the management
endpoint, one theorem for each statement, its clauses in order. -/

namespace Sys2Proof.Machine

set_option Elab.async false

/-- The module after a reset, its reset block changed. -/
def wRst (f : Rst → Rst) : State := { wUp with rst := f wUp.rst }

/-- Inputs high and low, a thermal halt, a requested WARM, Sage running with no core halted, in trial and not. -/
theorem witness_ResetSources :
    wUp.memOk ∧ (wUp.rst.sbLevel.getLsbD 0 = true ∧ wUp.rst.sbLevel.getLsbD 1 = true ∧ wUp.rst.halt = .no) ∧
    ((wRst fun r => { r with sbLevel := 0 }).rst.sbLevel.getLsbD 0 = false ∧ (wRst fun r => { r with sbLevel := 0 }).rst.sbLevel.getLsbD 1 = false) ∧
    ((wRst fun r => { r with halt := .thermal }).rst.sbLevel.getLsbD 1 = true ∧ (wRst fun r => { r with halt := .thermal }).rst.halt = .thermal) ∧
    ({ wUp with fw := { wUp.fw with warmAsked := true } }.fw.warmAsked = true) ∧
    ((0 : Fn).val = 0 ∧ wUp.rst.active = false ∧ (wRst fun r => { r with halt := .thermal }).rst.active = false) ∧ (1 : Fn).val ≠ 0 ∧
    ((wRst fun r => { r with sage := true }).rst.sage = true ∧ (wRst fun r => { r with sage := true }).rst.active = false ∧
      (wRst fun r => { r with sage := true }).dbg.halted = 0 ∧ (wRst fun r => { r with sage := true }).rst.halt = .no) ∧
    wUp.rst.sage = false ∧ ((1 : Word).getLsbD 0 = true ∧ (2 : Word).getLsbD 0 = false) := by
  and_intros <;> decide +kernel

/-- A reset of rank `w` whose sources are gone. -/
def wExit (w : Nat) (f : Rst → Rst) : State := wRst fun r => f { r with active := true, por := false, w }

theorem witness_ResetExit :
    wUp.rst.active = false ∧
    ((wExit 4 id).rst.active = true ∧ (wExit 4 id).rst.por = false ∧ (wExit 4 id).rst.modRst = false ∧ (wExit 4 id).rst.perst = false ∧
      (wExit 4 id).rst.halt = .no ∧ (wExit 4 id).rst.sbLevel.getLsbD 1 = true ∧ (wExit 2 id).rst.w ≤ 2) ∧
    (let s := wExit 2 fun r => { r with halt := .thermal }
     s.rst.active = true ∧ s.rst.por = false ∧ s.rst.modRst = false ∧ s.rst.perst = false ∧ s.rst.halt = .thermal ∧
       (∀ x ∈ s.pwr.tj, x.2 < 950) ∧ ∃ x ∈ { s with pwr := { s.pwr with tj := [(0, 950)] } }.pwr.tj, 950 ≤ x.2) ∧
    (wExit 4 fun r => { r with sbLevel := 0 }).rst.sbLevel.getLsbD 1 = false := by
  and_intros <;> decide +kernel

/-- Every loop locked. -/
def wLocked : State := { wUp with clk := { wUp.clk with locked := 0x3FFFF } }

theorem witness_ClockAndBlockResets :
    ((0 : Fin 18).val = 0 ∧ wUp.clk.locked.getLsbD 5 = false ∧ wLocked.rst.active = false ∧ wLocked.clk.locked.getLsbD 1 = true ∧
      wLocked.clk.locked.getLsbD 2 = true ∧ wLocked.clk.locked.getLsbD 17 = true ∧ wLocked.rst.halt = .no ∧ domainBlocks 1 = [] ∧
      domainBlocks 17 = [] ∧ (0, 0) ∈ domainBlocks 2) ∧
    ((wRst fun r => { r with clkMode := false }).rst.clkMode = false ∧ wUp.clk.source = false ∧
      (wRst fun r => { r with clkMode := true }).rst.clkMode = true) ∧
    (let busy (ty : BitVec 3) (ix : Byte) : State := wRst fun r => { r with blkBusy := true, blkType := ty, blkIndex := ix }
     (busy 0 31).rst.blkBusy = true ∧ (busy 0 31).rst.blkIndex.toNat < 32 ∧ (busy 1 0).rst.blkType = 1 ∧ (busy 2 0).rst.blkType = 2 ∧
       (busy 3 0).rst.blkType = 3 ∧ (busy 4 0).rst.blkType = 4) ∧
    (wUp.rst.blkBusy = false ∧ (0 : Word).getLsbD 11 = false ∧ blockExists 0 32 = false) ∧
    ((0x800 : Word).getLsbD 11 = true ∧ blockExists 0 0 = true ∧ blockExists 1 0 = true) ∧
    (tfind? (wRun wPeered id).sch.jobs 0 = some wPeered ∧ wPeered.clusters.contains 0 = true ∧ wPeered.ending = none) := by
  and_intros <;> decide +kernel

/-! ### Power -/

/-- An effective value lies in its item's range (R486). -/
theorem calEffective_range (s : State) (id ix n : Nat) (elo ehi clo chi : Int) (h : calItem id = some (id, n, elo, ehi, clo, chi)) (hx : elo ≤ ehi) :
    elo ≤ calEffective s id ix ∧ calEffective s id ix ≤ ehi := by
  simp only [calEffective, h, clampI]
  omega

/-- The power state of the module, changed, 20 ms after POR was released. -/
def wPwr (f : Pwr → Pwr) : State := { wUp with ts := 20000000, rst := { wUp.rst with por := false }, pwr := f wUp.pwr }

/-- A sample of 50.00 V is within the range whatever the calibration: the first in a row, and the last; a die to slew; a loss of power with and
without a sample below 38.0 V; a mean above the cap with a step due and not, well under it for 10 ms and less, and in between; the brake
with means below and above its cap. -/
theorem witness_PowerControl :
    (let s := { wRst fun r => { r with por := true, inRange := 9999 } with ts := 1 }
     s.rst.por = true ∧ 10000 ≤ (if 4200 ≤ withGain 5000 (calEffective s 2 0) ∧ withGain 5000 (calEffective s 2 0) ≤ 6000 then s.rst.inRange + 1 else 0)) ∧
    (let s := wRst fun r => { r with por := true }
     s.rst.por = true ∧ (if 4200 ≤ withGain 5000 (calEffective s 2 0) ∧ withGain 5000 (calEffective s 2 0) ≤ 6000 then s.rst.inRange + 1 else 0) < 10000) ∧
    ((wPwr id).rst.por = false ∧ (wPwr id).pwr.low = 0 ∧ (wPwr fun p => { p with low := 1 }).pwr.low ≠ 0) ∧
    (let s := wPwr fun p => { p with mean1s := 1801, pPoint := 4 }
     s.rst.por = false ∧ capInForce s < s.pwr.mean1s.toNat ∧ s.pwr.pStepAt = 0 ∧ s.pwr.throttling = false ∧ s.pwr.pPoint = 4) ∧
    (let s := wPwr fun p => { p with mean10 := 1981, pStepAt := 19500000 }
     11 * capInForce s < 10 * s.pwr.mean10.toNat ∧ ¬(s.pwr.pStepAt + 1000000 ≤ now s ∨ s.pwr.pStepAt = 0) ∧ s.pwr.pPoint < 4) ∧
    (let s := wPwr fun p => { p with mean1s := 1750 }
     ¬(capInForce s < s.pwr.mean1s.toNat) ∧ ¬(11 * capInForce s < 10 * s.pwr.mean10.toNat) ∧ ¬(100 * s.pwr.mean1s.toNat ≤ 95 * capInForce s)) ∧
    (let s := wPwr fun p => { p with pCalm := some 1, pLevel := 1, throttling := true }
     100 * s.pwr.mean1s.toNat ≤ 95 * capInForce s ∧ 1000 * s.pwr.mean10.toNat ≤ 95 * 11 * capInForce s ∧ s.pwr.pStepAt = 0 ∧
       1 + 10000000 ≤ now s ∧ s.pwr.pLevel ≠ 0 ∧ (wPwr id).pwr.pCalm = none ∧ (wPwr fun p => { p with pPoint := 1 }).pwr.pPoint ≠ 0) ∧
    ((wPwr id).rst.sbLevel.getLsbD 2 = true ∧ (wPwr id).pwr.mean1s.toNat ≤ 800 ∧ 10 * (wPwr id).pwr.mean10.toNat ≤ 11 * 800 ∧
      min (psWatts (wPwr id) (wPwr id).nvm.ps.val) 800 < (wPwr fun p => { p with mean1s := 801 }).pwr.mean1s.toNat) ∧
    (wRst fun r => { r with sbLevel := 0 }).rst.sbLevel.getLsbD 2 = false := by
  have g (s : State) : 4200 ≤ withGain 5000 (calEffective s 2 0) ∧ withGain 5000 (calEffective s 2 0) ≤ 6000 := by
    have := calEffective_range s 2 0 1 (-20000) 20000 (-5000) 5000 rfl (by decide)
    simp only [withGain] at *
    omega
  refine ⟨?_, ?_, ?_, ?_, ?_, ?_, ?_, ?_, ?_⟩
  · simp only [g, and_self, if_true]; decide +kernel
  · simp only [g, and_self, if_true]; decide +kernel
  all_goals decide +kernel

/-- Readings that the calibration brings to `x` hundredths of a degree at every sensor of a die. -/
def wTemps (s : State) (x : Int) : List Int := (List.range 40).map fun k => x - calEffective s 1 k

theorem wTemps_hottest (s : State) (x : Int) (d : Nat) (hd : d < 5) : hottest s (wTemps s x) d = x / 10 := by
  have e (k : Nat) (hk : k < 40) : ((wTemps s x)[k]?.getD 0) + calEffective s 1 k = x := by
    simp [wTemps, hk]
  have l : ((List.range 8).map fun k => ((wTemps s x)[8 * d + k]?.getD 0) + calEffective s 1 (8 * d + k)) = List.replicate 8 x :=
    List.map_eq_replicate_iff.2 fun k hk => e _ (by have := List.mem_range.1 hk; omega)
  simp only [hottest, l]
  simp [List.replicate, List.foldl]

/-- Readings of 120.0, 105.0, 97.0 and 20.0 degrees in each band, with the times the bands ask for; and a quantity inside and outside the
envelope. -/
theorem witness_ThermalControl :
    ((∃ d, d < 5 ∧ 1150 ≤ hottest wUp (wTemps wUp 12000) d) ∧ wUp.rst.halt = .no) ∧
    (let s := wPwr id
     (¬∃ d, d < 5 ∧ 1150 ≤ hottest s (wTemps s 10500) d) ∧ (∃ d, d < 5 ∧ 1000 ≤ hottest s (wTemps s 10500) d) ∧
       s.pwr.pPoint + tget 0 s.pwr.tPoint 0 < 4 ∧ s.pwr.tStepAt = 0) ∧
    (let s := wPwr fun p => { p with tStepAt := 19500000, pPoint := 4 }
     (∃ d, d < 4 ∧ 1000 ≤ hottest s (wTemps s 10500) d ∧ 4 ≤ s.pwr.pPoint + tget 0 s.pwr.tPoint d) ∧
       ¬(s.pwr.tStepAt + 1000000 ≤ now s ∨ s.pwr.tStepAt = 0)) ∧
    (let s := wPwr id
     (¬∃ d, d < 5 ∧ 1000 ≤ hottest s (wTemps s 9700) d) ∧ ∃ d, d < 5 ∧ 950 ≤ hottest s (wTemps s 9700) d) ∧
    (let s := wPwr fun p => { p with thermal := true, tCalm := some 5, tLevel := 1 }
     (¬∃ d, d < 5 ∧ 950 ≤ hottest s (wTemps s 2000) d) ∧ s.pwr.tStepAt = 0 ∧ s.pwr.thermal = true ∧ 5 + 10000000 ≤ now s ∧ 0 < s.pwr.tLevel ∧
       (wPwr id).pwr.tCalm = none ∧ (wPwr id).pwr.tLevel = 0) ∧
    (let s := { wLocked with pwr := { wUp.pwr with volts := 5000 } }
     insideEnvelope { s with pwr := { s.pwr with inlet := 250 } } = true ∧ insideEnvelope { s with pwr := { s.pwr with inlet := 460 } } = false ∧
       s.pwr.envSince = none ∧ { s.pwr with envSince := some 7 }.envSince = some 7) := by
  refine ⟨⟨⟨0, by decide, ?_⟩, rfl⟩, ⟨?_, ⟨0, by decide, ?_⟩, by decide +kernel, rfl⟩, ⟨⟨0, by decide, ?_, by decide +kernel⟩, by decide +kernel⟩,
    ⟨?_, ⟨0, by decide, ?_⟩⟩, ⟨?_, ?_⟩, ?_⟩
  · rw [wTemps_hottest _ _ _ (by decide)]; decide
  · rintro ⟨d, hd, h⟩; rw [wTemps_hottest _ _ _ hd] at h; exact absurd h (by decide)
  · rw [wTemps_hottest _ _ _ (by decide)]; decide
  · rw [wTemps_hottest _ _ _ (by decide)]; decide
  · rintro ⟨d, hd, h⟩; rw [wTemps_hottest _ _ _ hd] at h; exact absurd h (by decide)
  · rw [wTemps_hottest _ _ _ (by decide)]; decide
  · rintro ⟨d, hd, h⟩; rw [wTemps_hottest _ _ _ hd] at h; exact absurd h (by decide)
  · decide +kernel
  · decide +kernel

/-! ### Inputs and the endpoint -/

/-- An input low and high; masked, too soon after the last, accepted, and the thousandth within 1 s. -/
theorem witness_EventInputs :
    ((wRst fun r => { r with sbLevel := 0 }).rst.sbLevel.getLsbD 3 = false ∧ wUp.rst.sbLevel.getLsbD 3 = true ∧ wUp.rst.sbLevel.getLsbD 4 = true) ∧
    ((wRst fun r => { r with sbMask := 3 }).rst.sbMask.getLsbD 0 = true ∧ wUp.rst.sbMask.getLsbD 1 = false) ∧
    (let s := wRst fun r => { r with sbLast := [(3, 0)] }
     s.rst.sbMask.getLsbD (3 - 3) = false ∧ tfind? s.rst.sbLast 3 = some 0 ∧ now s < 0 + 100000) ∧
    ((∀ i, tfind? wUp.rst.sbLast i = none) ∧ ((tget [] wUp.rst.sbRecent 3).filter fun u => decide (now wUp < u + 1000000000)).length < 999) ∧
    (let s := wRst fun r => { r with sbRecent := [(4, List.replicate 999 5)] }
     999 ≤ ((tget [] s.rst.sbRecent 4).filter fun u => decide (now s < u + 1000000000)).length) := by
  refine ⟨?_, ?_, ?_, ⟨fun _ => rfl, ?_⟩, ?_⟩ <;> decide +kernel

theorem witness_Management :
    miAnswers (wRst fun r => { r with ready := false }) = false ∧ miAnswers wUp = true ∧
    (1 ≤ (0x100 : Word).toNat / 256 % 16 ∧ (0x100 : Word).toNat / 256 % 16 ≤ 3 ∧ ¬1 ≤ (0x000 : Word).toNat / 256 % 16) ∧
    ((0x02 : Byte) ∉ ([0x01, 0x03, 0xC0, 0xC1] : List Byte)) ∧ 4 < (5 : Byte).toNat ∧
    (sqOpc (leBytes 1 6) = 0x06 ∧ sqOpc (leBytes 1 10) = 0x0A ∧ sqOpc (leBytes 1 0x11) ∉ [0x02, 0x06, 0x0A]) := by
  and_intros <;> decide +kernel

end Sys2Proof.Machine
end

