-- ==== Sys2Proof/Tests/WitnessModule.lean ====
section
/-! SUPPORT. States and operands that meet the hypotheses of the statements about calibration, the firmware store, scrubbing, debug, registers,
steps and codecs, one theorem for each statement, its clauses in order. -/

namespace Sys2Proof.Machine

set_option Elab.async false

/-! ### Calibration and the store -/

/-- The firmware block of the module changed. -/
def wFw (f : Fw → Fw) : State := { wUp with fw := f wUp.fw }

/-- A request of class CAL with an in-payload. -/
abbrev wCalIn (s : State) (op : Nat) (fs : List (Nat × Nat × Nat)) (b : List Byte) : Prop :=
  let t := wReqOn (wHost s b) (wExec 0x0B op (wIn b.length ++ fs))
  Outlet t wR (wExec 0x0B op (wIn b.length ++ fs)) ∧ AtTurn t wR (wExec 0x0B op (wIn b.length ++ fs)) 0x0B op ∧
    inPayload t (wExec 0x0B op (wIn b.length ++ fs)) = b ∧ t.fw.waits = []

/-- Recovery boot with nothing started yet, and with debug unlocked. -/
def wRecovery : State := wFw fun f => { f with running := 2, recovered := false }

/-- An image of 0x260 bytes, well formed but for what a signature says. -/
def wFwImage : List Byte := wSet (zeros 0x260) [(0, 4, 0x4C49545A), (4, 1, 1), (8, 4, 0x260), (0xC, 4, 0xFFFFFFFF)]

/-- A payload with entry 0 sound, one of no item, and one with a reserved byte; without the factory record; an image outside recovery, one that
fails its check, and one that holds if its key and signature do, with no block, both blocks. -/
theorem witness_CalRequests :
    wTurn wUp 0x0B 1 [(3, 1, 2), (0x20, 8, 0x20000), (0x28, 4, 3776)] ∧
    (wCalIn wUp 2 [] (wSet (zeros 8) [(0, 1, 1)]) ∧ wUp.fw.factoryOk = true ∧ badCalEntry (wSet (zeros 8) [(0, 1, 1)]) = none ∧
      fld (wSet (zeros 8) [(0, 1, 1)]) 2 2 = 0) ∧
    (wCalIn wUp 2 [] (zeros 8) ∧ badCalEntry (zeros 8) = some 0) ∧
    (wCalIn wUp 2 [] (wSet (zeros 8) [(0, 1, 1), (2, 1, 1)]) ∧ badCalEntry (wSet (zeros 8) [(0, 1, 1), (2, 1, 1)]) = none ∧
      fld (wSet (zeros 8) [(0, 1, 1), (2, 1, 1)]) 2 2 ≠ 0) ∧
    (wCalIn (wFw fun f => { f with factoryOk := false }) 2 [] (zeros 8) ∧ (wFw fun f => { f with factoryOk := false }).fw.factoryOk = false) ∧
    wTurn wUp 0x0B 3 [] ∧ wTurn wUp 0x0B 4 [] ∧ wTurn wUp 0x0B 5 [(3, 1, 2), (0x20, 8, 0x20000), (0x28, 4, 64)] ∧
    (wCalIn wUp 6 [] wFwImage ∧ inRecovery wUp = false) ∧
    (wCalIn wRecovery 6 [] (zeros 8) ∧ inRecovery wRecovery = true ∧ wRecovery.fw.loadSigned = none ∧ wRecovery.fw.job = none ∧
      verifyImage wRecovery (zeros 8) = 1) ∧
    (wCalIn wRecovery 6 [] wFwImage ∧ wCalIn wRecovery 6 [(0x20, 1, 3)] wFwImage ∧
      (Config.keyTrusted 0 = true → Config.imageSigned wFwImage = true → verifyImage wRecovery wFwImage = 0)) := by
  refine ⟨?_, ?_, ?_, ?_, ?_, ?_, ?_, ?_, ?_, ?_, ?_, ?_, ?_⟩
  case refine_13 => 
    intro h1 h2
    have e : fld wFwImage 5 1 = 0 := by decide +kernel
    have t : wFwImage.take (fld wFwImage 8 4) = wFwImage := by decide +kernel
    simp only [verifyImage, e, h1, t, h2]
    decide +kernel
  all_goals decide +kernel

/-- The store in each state: an operation in progress. -/
def wOpNow (o : FwOp) : State := wFw fun f => { f with cur := some (.op o) }

/-- A block of the store whose header gives one section, used and XO, of its first 0x1000 bytes. -/
def wXo : State :=
  let b := blockBase 0
  let field (m : Memory) (o v : Nat) : Memory := mwrite m (b + o) ((leBytes 4 v).map fun x => ~~~ x)
  wFw fun f => { f with
    blocks := [(0, blockEmpty)], cur := some (.op (.erase 0))
    nor := field (field (field (field [] 0 0x4C49545A) 0x40 0) 0x44 0x1000) 0x48 6 }

/-- Sage released with no boot done, from each selection and after a watchdog's start; a trial; each operation; a full log with a free sector
and with none, a compaction under way and its last copy; a busy sector, an XO section and another sector. -/
theorem witness_BootAndStore :
    (let s (f : Rst → Rst) : State := wRst fun r => f { r with sage := true, ready := false }
     (s id).rst.sage = true ∧ (s id).rst.ready = false ∧ (s id).rst.active = false ∧ (s id).rst.halt = .no ∧
       (s fun r => { r with w := 5 }).rst.w = 5 ∧ (s fun r => { r with bootSel := 3 }).rst.bootSel = 3) ∧
    (wUp.rst.sage = false ∧ wUp.fw.trial = false) ∧
    ({ wUp with fw := { wUp.fw with trial := true } }.rst.ready = true ∧ wUp.fw.running ≠ 2) ∧
    (wUp.fw.cur = none ∧ wUp.fw.loadSigned = none ∧ (wOpNow (.erase 3)).fw.cur = some (.op (.erase 3)) ∧ (wOpNow (.erase 3)).fw.loadSigned = none ∧
      Memory.wf (wOpNow (.erase 3)).fw.nor = true ∧ (wOpNow (.mark 3)).fw.cur = some (.op (.mark 3)) ∧
      ({ (wOpNow (.erase 3)).fw with brownOut := true } : Fw).brownOut = true) ∧
    ((wOpNow (.append 3 [])).fw.cur = some (.op (.append 3 [])) ∧
      (sectorFor (wOpNow (.append 3 [])) (recBytes 3 ((wOpNow (.append 3 [])).fw.seq + 1) []).length).isSome = true) ∧
    (let x := wExec 0x0B 3 []
     let s := wReqOn (wFw fun f => { f with cur := some (.op (.append 3 [])), waits := [(wR, 3, 0)] }) x
     s.fw.waits.find? (fun w => w.2.1 == 3) = some (wR, 3, 0) ∧ findExec s wR = some x ∧ Outlet s wR x) ∧
    (let j : FwJob := { block := 1, image := wFwImage, select := none, erased := 0, paged := 0, cmd := none, req := none, also := none }
     let s := wFw fun f => { f with cur := some .image, job := some j }
     s.fw.cur = some .image ∧ s.fw.job = some j ∧ s.fw.loadSigned = none ∧ j.erased < 1920) ∧
    8 ≤ logFree wUp ∧
    (let s := wFw fun f => { f with recs := [], sectors := (List.range 60).map fun i => (i, { sectorReset with used := 64 }) }
     logFree s < 8 ∧ (sectorOf s 5).used ≠ 0 ∧ (∀ k ∈ [1, 2, 3, 4], governing s k = none) ∧ compacting s = false ∧ freeSector s = some 60) ∧
    (let s := wFw fun f => { f with recs := [], sectors := (List.range 64).map fun i => (i, { sectorReset with used := 64 }) }
     logFree s < 8 ∧ compacting s = false ∧ freeSector s = none ∧ (sectorOf s 5).used ≠ 0 ∧ (∀ k ∈ [1, 2, 3, 4], governing s k = none)) ∧
    (let s := wFw fun f => { f with ops := [.erase 3] }
     compacting s = true) ∧
    (let y : FwRec := { kind := 3, seq := 1, body := [], sector := 0 }
     let s := wFw fun f => { f with recs := [y], seq := 1, cur := some (.op (.copy 3 60)), sectors := (List.range 60).map fun i => (i, { sectorReset with used := 64 }) }
     s.fw.cur = some (.op (.copy 3 60)) ∧ s.fw.loadSigned = none ∧ governing s 3 = some y ∧ sectorFits s (recSize y.body) 60 = true ∧
      (∀ z ∈ s.fw.recs, z.seq ≤ s.fw.seq) ∧ s.fw.ops = [] ∧ (sectorOf s 5).used ≠ 0 ∧ (∀ k ∈ [1, 2, 4], governing s k = none)) ∧
    busySector wUp = none ∧
    (busySector wXo = some 16 ∧ 0x00100000 / 65536 = 16 ∧ isXo wXo 0x01000000 = true ∧ isXo wXo 0x01001000 = false ∧ 0x01000000 / 65536 ≠ 16 ∧
      0x01001000 < 0x10000000) := by
  refine ⟨?_, ?_, ?_, ?_, ?_, ?_, ?_, ?_, ?_, ?_, ?_, ?_, ?_, ?_⟩ <;> decide +kernel

/-! ### Scrubbing and repair -/

/-- A log with one entry of a source, a unit and an address. -/
def wLog (source unit : Nat) : State :=
  { wUp with ras := { wUp.ras with seq := 1, log := [(0, wSet (zeros 64) [(4, 1, source), (6, 1, 0xFF), (0x10, 4, unit)])] } }

def wRepair (kind unit : Nat) (inEffect : Bool) : Repair := { kind, unit, inEffect }
abbrev wRetire (s : State) (scope : Nat) : Prop := wTurn s 9 2 [(0x20, 4, 0), (0x24, 1, scope)]

/-- Lines of zeros, of which check symbols, the address or META differ; a row with another write under way; entries of each source, with
a repair of the unit, without a spare, and with one, of a row of a cluster that no partition holds. -/
theorem witness_ScrubsAndRepairs :
    wUp.memOk ∧
    (let busy := wLine 0 { dirReset with queue := [{ kind := .rdNc, r := 33, mask := 0, data := [] }] } [] []
     (dirOf busy 0).queue ≠ [] ∧ (dirOf wUp 0).txn.isSome = false ∧ (dirOf wUp 0).queue = [] ∧
      (cluster (updClu wUp 0 fun k => { k with clearing := [(2, 0)] }) 0).clearing.any (fun y => y.1 == 2) = true ∧
      (cluster wUp 0).clearing = []) ∧
    (lineOutcome 0 (zeros 64) 0 = .clean ∧ lineOutcome 0 (zeros 64) 0x100 = .corrected 71 ∧ lineOutcome 64 (zeros 64) 0 = .address 64 ∧
      lineOutcome 0 (zeros 64) 1 = .uncorrectable) ∧
    (lineOutcome (storeBase 0) (zeros 64) 0x11829700 = .clean ∧ lineOutcome (storeBase 0) (zeros 64) 0x11829600 = .corrected 71 ∧
      lineOutcome (storeBase 0) (zeros 64) 0 = .address 68 ∧ lineOutcome (storeBase 0) (zeros 64) 1 = .uncorrectable ∧
      rowWritePending wUp 0 (storeBase 0) = false) ∧
    (lineOutcome rootBase (zeros 64) 0x77b74400 = .clean ∧ lineOutcome rootBase (zeros 64) 0x77b74500 = .corrected 71 ∧
      lineOutcome rootBase (zeros 64) 1 = .uncorrectable) ∧
    wTurn (wLog 1 5) 9 1 [(3, 1, 2), (0x20, 4, 0), (0x24, 2, 16)] ∧ wTurn wUp 9 3 [(3, 1, 2)] ∧
    (wRetire wUp 0 ∧ logEntry wUp 0 = none ∧ wRetire (wLog 4 5) 0 ∧ (logEntry (wLog 4 5) 0).map (fun e => fld e 4 1) = some 4) ∧
    (wRetire (wLog 1 5) 1 ∧ (logEntry (wLog 1 5) 0).map (fun e => fld e 4 1) = some 1) ∧
    (let s := { wLog 3 5 with ras := { (wLog 3 5).ras with repairs := [wRepair 2 5 false] } }
     wRetire s 0 ∧ (logEntry s 0).map (fun e => fld e 4 1) = some 3 ∧ repairOf s 3 5 = some (wRepair 2 5 false)) ∧
    (let s := { wLog 1 5 with ras := { (wLog 1 5).ras with dxFree := 0 } }
     wRetire s 0 ∧ repairOf s 1 5 = none ∧ spareLeft s 1 0 5 = false) ∧
    (wRetire (wLog 2 31) 0 ∧ (logEntry (wLog 2 31) 0).map (fun e => (fld e 4 1, fld e 0x10 4)) = some (2, 31) ∧ repairOf (wLog 2 31) 2 31 = none ∧
      spareLeft (wLog 2 31) 2 0 31 = true) := by
  refine ⟨?_, ?_, ?_, ?_, ?_, ?_, ?_, ?_, ?_, ?_, ?_, ?_⟩ <;> decide +kernel

/-! ### Debug -/

def wDbg (f : Dbg → Dbg) : State := { wUp with dbg := f { wUp.dbg with locked := false } }

/-- An access word: address, write, effect. -/
def wAcc (a w e : Nat) : BitVec 128 := BitVec.ofNat 128 (a + w * 2 ^ 96 + e * 2 ^ 97)

/-- A configuration whose partition 0 is active and sealed and has C00. -/
def wSealed : State :=
  { wDbg id with prt := { wUp.prt with loaded := true, cfg := { wUp.prt.cfg with parts := [(0, { partRecNone with active := true, sealedP := true, clusters := 1 })] } } }

/-- Debug locked and not; accesses with a reserved bit, misaligned, hidden, of a register that reads and of none, of a hole and of a store; cores
halted and to be halted. -/
theorem witness_DebugTransport :
    (wUp.dbg.locked = true ∧ (wDbg id).dbg.locked = false) ∧
    (¬(wAcc 2 0 0).toNat % 2 ^ 48 % 4 = 0 ∧ (let n := (wAcc (storeBase 0) 0 0).toNat
      n / 2 ^ 48 % 2 ^ 16 = 0 ∧ n / 2 ^ 98 = 0 ∧ n % 2 ^ 48 % 4 = 0)) ∧
    (debugDenied wSealed (storeBase 0) = true ∧ debugDenied (wDbg id) (storeBase 0) = false) ∧
    (debugDenied (wDbg id) (regBase + 0xD00000) = false ∧ (modRead (wDbg id) (regBase + 0xD00000)).isSome = true ∧
      (wAcc (regBase + 0xD00000) 0 0).getLsbD 96 = false ∧ (wAcc (regBase + 0xD00000) 0 0).getLsbD 97 = false ∧
      debugDenied (wDbg id) (regBase + 0x3FFFFFC) = false ∧ (modRead (wDbg id) (regBase + 0x3FFFFFC)).isSome = false) ∧
    (debugDenied (wDbg id) 0x013000000000 = false ∧ populated 0x013000000000 4 = false ∧ 0x013000000000 < regBase) ∧
    (populated (storeBase 0) 4 = true ∧ inDram (storeBase 0) 4 = false ∧ poisoned (wDbg id) (storeBase 0) 4 = false ∧ storeBase 0 < regBase ∧
      (wAcc (storeBase 0) 1 0).getLsbD 96 = true) ∧
    ((1 : Word).getLsbD 0 = true ∧ (wDbg id).dbg.halted.getLsbD 0 = false ∧ (wDbg fun d => { d with halted := 1 }).dbg.halted.getLsbD 0 = true) ∧
    (let s := wDbg fun d => { d with halted := 3, stalled := true }
     s.dbg.halted ≠ 0 ∧ s.dbg.halted &&& ~~~ ((3 : Word).setWidth 16) = 0 ∧ s.dbg.halted &&& ~~~ ((1 : Word).setWidth 16) ≠ 0 ∧ s.dbg.stalled = true) ∧
    (wUp.dbg.halted = 0 ∧ (wDbg fun d => { d with halted := 1 }).dbg.stalled = false) := by
  refine ⟨?_, ?_, ?_, ?_, ?_, ?_, ?_, ?_, ?_⟩ <;> decide +kernel

/-- An UNLOCK on a module whose challenge is the first 128 bytes of the payload, the rest a signature that `Config.unlockSigned` judges. -/
def wUnlock (b : List Byte) : State := wHost { wUp with dbg := { wUp.dbg with challenge := some b } } (b ++ zeros 64)

theorem witness_DebugRequests :
    (let x := [(3, 1, 2), (0x20, 8, 0x20000), (0x28, 4, 128)]
     wTurn wUp 0x0A 1 x ∧ wTurn wUp 0x0A 5 x) ∧
    (wUp.dbg.challenge = none ∧ (wUnlock (zeros 128)).dbg.challenge ≠ none) ∧
    (let s := wReqOn (wUnlock (zeros 128)) (wExec 0x0A 2 (wIn 192))
     wTurn (wUnlock (zeros 128)) 0x0A 2 (wIn 192) ∧ challengeValid s = true ∧ eraseList s = [] ∧
       (Config.unlockSigned (zeros 128) (zeros 64) = true → unlockFails s s.dbg.challenge (inPayload s (wExec 0x0A 2 (wIn 192))) = none)) ∧
    (let s := wReqOn (wDbg id) (wExec 0x0A 2 (wIn 192))
     wTurn (wDbg id) 0x0A 2 (wIn 192) ∧ unlockFails s none (inPayload s (wExec 0x0A 2 (wIn 192))) = some (0x0100, 0)) ∧
    (wTurn wUp 0x0A 3 [] ∧ wUp.dbg.stalled = false ∧ wTurn (wDbg fun d => { d with halted := 1 }) 0x0A 3 [] ∧
      (wDbg fun d => { d with halted := 1 }).dbg.halted ≠ 0) ∧
    wTurn wUp 0x0A 4 [(0x20, 1, 1)] := by
  refine ⟨?_, ?_, ⟨?_, ?_, ?_, ?_⟩, ?_, ?_, ?_⟩
  case refine_6 =>
    intro h
    have e : inPayload (wReqOn (wUnlock (zeros 128)) (wExec 0x0A 2 (wIn 192))) (wExec 0x0A 2 (wIn 192)) = zeros 128 ++ zeros 64 := by
      decide +kernel
    have a : (zeros 128 ++ zeros 64).take 128 = zeros 128 := by decide +kernel
    have b : (zeros 128 ++ zeros 64).drop 128 = zeros 64 := by decide +kernel
    simp only [unlockFails, e, a, b, h]
    decide +kernel
  all_goals decide +kernel

/-! ### Registers, steps and codecs -/

/-- A window of the physical function, and one of another; a controller that exists and one that does not; addresses of each block's first
register, of none, and outside the store's window. -/
theorem witness_RegisterAccess :
    (Writable wUp 0 0 ∧ ownerOf wUp (0 : Mb).val = (0 : Fn).val ∧ windowOf wUp 0 0x001008 = some (0, 0x1008) ∧ windowOf wUp 0 0xFF0004 = some (255, 4)) ∧
    (let s := { wUp with prt := { wUp.prt with vfEnable := true, numVFs := 16, cfg := { wUp.prt.cfg with parts := [(0, { partRecNone with active := true, vf := 1 })] } } }
     vfExists s 1 = true ∧ partOfVf s 1 = some 0 ∧ windowOf s 1 0x0F1008 = some (15, 0x1008) ∧ windowOf s 1 0x100000 = none ∧ vfExists wUp 1 = false ∧
      ownerOf s (0 : Mb).val ≠ (0 : Fn).val ∧ windowOf s 0 0 = some (0, 0)) ∧
    (populated 0x013000000000 4 = false ∧ regAt 0x013000000000 = none ∧ ¬fwsWindow ≤ 0x013000000000) ∧
    (ctrlExists wUp (1 : Fn).val = false ∧ ctrlExists wUp (0 : Fn).val = true ∧ wUp.rst.active = false) ∧
    (regAt (regBase + 0x3FFFFFC) = none ∧ wUp.rst.sage = false ∧ (wRst fun r => { r with sage := true }).rst.sage = true) ∧
    (regAt (regBase + 0xD00000) = some (.rst, 0, 0) ∧ regAt (regBase + 0xD00044) = some (.rst, 0, 0x44) ∧
      regAt (regBase + 0xD0002C) = some (.rst, 0, 0x2C) ∧ regAt (regBase + 0xD10000) = some (.clk, 0, 0) ∧
      regAt (regBase + 0xE00000) = some (.fws, 0, 0) ∧ regAt (regBase + 0xF00004) = some (.ras, 0, 4) ∧
      regAt (regBase + 0xF00000) = some (.ras, 0, 0) ∧ regAt (regBase + 0xD20040) = some (.pwr, 0, 0x40)) ∧
    (regAt (regBase + 0x101004) = some (.clu, 1, 4) ∧ regAt (regBase + 0x30010C) = some (.num, 1, 0xC)) ∧
    (modRead (wRst fun r => { r with sage := true }) (regBase + 0x3FFFFFC)).isSome = false ∧ regBase + 0xD00000 < fwsWindow := by
  refine ⟨?_, ?_, ?_, ?_, ?_, ?_, ?_, ?_⟩ <;> decide +kernel

theorem witness_StepRunsFront : { wUp with pending := [.resetExit] }.pending = .resetExit :: [] ∧ wUp.pending = [] := ⟨rfl, rfl⟩

theorem zeros_allZero (n : Nat) : allZero (zeros n) = true := by simp [allZero, zeros]

theorem witness_ChunkCodec : (zeros 65536).length = 65536 ∧ allZero (zeros 65536) = true := ⟨zeros_length _, zeros_allZero _⟩

/-- A configuration with every record in its place. -/
def wCfg : Cfg :=
  { wUp.prt.cfg with
    parts := (List.range 16).map fun p => (p, partRecNone)
    links := { wUp.prt.cfg.links with shTrunk := List.replicate 16 0, ports := List.replicate 12 portRecNone } }

theorem witness_ConfigCodec :
    wCfg.parts = (List.range 16).map (fun p => (p, tget partRecNone wCfg.parts p)) ∧ (∀ x ∈ wCfg.parts, x.2.label.length = 32) ∧
    wCfg.links.shTrunk.length = 16 ∧ wCfg.links.ports.length = 12 ∧ (∀ q ∈ wCfg.links.ports, q.ipv6.length = 16) := by
  and_intros <;> decide +kernel

theorem witness_MemoryInvariant : wUp.memOk ∧ step wUp = .next (match step wUp with | .next t => t | _ => wUp) :=
  ⟨by decide +kernel, rfl⟩

end Sys2Proof.Machine
end

section
/-! PROOFS. The mailbox windows: who may write them (R30-R32) and what a doorbell write does (R37, R41). -/

namespace Sys2Proof.Machine

/-! ### Access to a window (R32) -/

theorem ownedWrite_writable {s : State} {fn : Fn} {n : Mb} (h : Writable s fn n) (f : State → State) : ownedWrite fn n s f = f s := by
  obtain ⟨howner, hreset, hevsel⟩ := h
  simp [ownedWrite, howner, hreset, hevsel]

theorem ownedWrite_notOwner {s : State} {fn : Fn} {n : Mb} (h : ownerOf s n.val ≠ fn.val) (f : State → State) : ownedWrite fn n s f = s := by
  simp [ownedWrite, h]

theorem ctrlRow_notOwner {s : State} {fn : Fn} {n : Mb} (h : ownerOf s n.val ≠ fn.val) (v : Word) (i : Nat) (on : Bool) :
    ctrlRow fn n v i on s = .next s := by
  simp only [ctrlRow, ownedWrite_notOwner h, ite_self]

/-- A write through BAR2 where the function has no window, or that of a mailbox it does not own. -/
theorem execRegisterWrite_bar2_notOwner {s : State} {fn : Fn} {off : BitVec 24}
    (h : ∀ n o, windowOf s fn off.toNat = some (n, o) → ownerOf s n.val ≠ fn.val) (v : Word) :
    execRegisterWrite (.bar2 fn off) v s = .next s := by
  cases hw : windowOf s fn off.toNat with
  | none => simp only [execRegisterWrite, hw]
  | some w => simp only [execRegisterWrite, hw, ownedWrite_notOwner (h w.1 w.2 hw)]

theorem regRead_bar2_notOwner {s : State} {fn : Fn} {off : BitVec 24}
    (h : ∀ n o, windowOf s fn off.toNat = some (n, o) → ownerOf s n.val ≠ fn.val) : regRead s (.bar2 fn off) = (0, s) := by
  cases hw : windowOf s fn off.toNat with
  | none => simp only [regRead, hw]
  | some w => simp [regRead, hw, h w.1 w.2 hw]

/-- Settles O2: every row of a window writes through `ownedWrite`, and a read answers the owner alone. -/
theorem notOwned : Obligations.NotOwned := by
  refine ⟨fun s fn n v h => ?_, fun s fn off v h => ⟨execRegisterWrite_bar2_notOwner h v, ?_⟩⟩
  · exact ⟨congrArg Host.Outcome.next (ownedWrite_notOwner h _), congrArg Host.Outcome.next (ownedWrite_notOwner h _),
      ctrlRow_notOwner h v 0 true, ctrlRow_notOwner h v 0 false, ctrlRow_notOwner h v 1 true, ctrlRow_notOwner h v 3 true⟩
  · change execRcRead (.bar2 fn off) false s = _
    simp [execRcRead, sageFaults, regRead_bar2_notOwner h]

/-! ### Doorbells (R37, R41) -/

section
variable {m : Mailbox} {v : Word}

theorem reqDoorbell_taken (h : m.enabled = true ∧ v.toNat % 4096 < 2 ^ m.reqLog2.toNat) :
    reqDoorbell v m = { m with reqTail := v.toNat % 4096 } := by
  simp [reqDoorbell, reqEntries, bits, h]

theorem reqDoorbell_ignored (h : ¬(m.enabled = true ∧ v.toNat % 4096 < 2 ^ m.reqLog2.toNat)) :
    reqDoorbell v m = { m with cfgErr := true } := by
  simp [reqDoorbell, reqEntries, bits, h]

theorem cplDoorbell_taken (h : m.enabled = true ∧ v.toNat % 4096 < 2 ^ m.cplLog2.toNat) :
    cplDoorbell v m = { m with cplHead := v.toNat % 4096, msixArmed := true } := by
  simp [cplDoorbell, cplEntries, bits, h]

theorem cplDoorbell_ignored (h : ¬(m.enabled = true ∧ v.toNat % 4096 < 2 ^ m.cplLog2.toNat)) :
    cplDoorbell v m = { m with cfgErr := true } := by
  simp [cplDoorbell, cplEntries, bits, h]

end

/-- The message that fell due is sent: the mailbox is disarmed and owes none. -/
def disarm (m : Mailbox) : Mailbox := { m with msixArmed := false, msixDue := false }

/-- Taking head index `i` sends the message that fell due meanwhile (R41; the model's choice, log entry 87). -/
def headSignals (m : Mailbox) (i : Nat) : Bool := m.msixDue && m.msixEn && i != m.cplTail.toNat

theorem cplDbWrite_ignored {s : State} {n : Nat} {v : Word}
    (h : ¬((mbox s n).enabled = true ∧ v.toNat % 4096 < 2 ^ (mbox s n).cplLog2.toNat)) :
    cplDbWrite s n v = updMb s n (cplDoorbell v) := by
  simp [cplDbWrite, cplEntries, bits, h]

theorem cplDbWrite_taken {s : State} {n : Nat} {v : Word}
    (h : (mbox s n).enabled = true ∧ v.toNat % 4096 < 2 ^ (mbox s n).cplLog2.toNat) :
    cplDbWrite s n v =
      if headSignals (mbox s n) (v.toNat % 4096) then
        emit (updMb (updMb s n (cplDoorbell v)) n disarm) (.msix (ownerOf s n) (mbox s n).msixVec.toNat)
      else updMb s n (cplDoorbell v) := by
  have howner : ownerOf (updMb s n (cplDoorbell v)) n = ownerOf s n := ownerOf_congr (updMb_prt _ _ _) n
  simp only [cplDbWrite, mbox_updMb_same, cplDoorbell_taken h, howner]
  simp [headSignals, cplEntries, bits, h]
  rfl

/-- Whether taken or not, a head index touches its own mailbox and the messages sent. -/
theorem cplDbWrite_frame (s : State) (n : Nat) (v : Word) :
    (∀ k, k ≠ n → mbox (cplDbWrite s n v) k = mbox s k) ∧ { cplDbWrite s n v with klv := s.klv, out := s.out } = s := by
  by_cases h : (mbox s n).enabled = true ∧ v.toNat % 4096 < 2 ^ (mbox s n).cplLog2.toNat
  · rw [cplDbWrite_taken h]
    split
    · exact ⟨(onlyMailbox_updMb2 s n (cplDoorbell v) disarm).1, rfl⟩
    · exact ⟨(onlyMailbox_updMb s n (cplDoorbell v)).1, rfl⟩
  · rw [cplDbWrite_ignored h]
    exact ⟨(onlyMailbox_updMb s n (cplDoorbell v)).1, rfl⟩

theorem cplDbWrite_taken_out {s : State} {n : Nat} {v : Word}
    (h : (mbox s n).enabled = true ∧ v.toNat % 4096 < 2 ^ (mbox s n).cplLog2.toNat) :
    (cplDbWrite s n v).out = s.out ++
      (if headSignals (mbox s n) (v.toNat % 4096) then [.msix (ownerOf s n) (mbox s n).msixVec.toNat] else []) := by
  rw [cplDbWrite_taken h]
  split <;> simp [emit]

theorem cplDbWrite_taken_mbox {s : State} {n : Nat} {v : Word}
    (h : (mbox s n).enabled = true ∧ v.toNat % 4096 < 2 ^ (mbox s n).cplLog2.toNat) :
    mbox (cplDbWrite s n v) n = { mbox s n with
      cplHead := v.toNat % 4096, msixArmed := !headSignals (mbox s n) (v.toNat % 4096)
      msixDue := (mbox s n).msixDue && !headSignals (mbox s n) (v.toNat % 4096) } := by
  rw [cplDbWrite_taken h]
  cases hsig : headSignals (mbox s n) (v.toNat % 4096) <;> simp [cplDoorbell_taken h, disarm]

/-- Settles O1: either doorbell is one function of the mailbox, taken or ignored; the completion head may send a message besides. -/
theorem doorbells : Obligations.Doorbells := by
  intro s fn n v hw
  refine ⟨⟨updMb s n.val (reqDoorbell v), congrArg Host.Outcome.next (ownedWrite_writable hw _), onlyMailbox_updMb s n.val _, ?_, ?_⟩,
    ⟨cplDbWrite s n.val v, congrArg Host.Outcome.next (ownedWrite_writable hw _), (cplDbWrite_frame s n.val v).1,
      (cplDbWrite_frame s n.val v).2, ?_, ?_⟩⟩
  · intro hok
    rw [mbox_updMb_same, reqDoorbell_taken hok]
  · intro hbad
    rw [mbox_updMb_same, reqDoorbell_ignored hbad]
  · intro hok
    exact ⟨cplDbWrite_taken_out hok, cplDbWrite_taken_mbox hok⟩
  · intro hbad
    rw [cplDbWrite_ignored hbad]
    exact ⟨updMb_out _ _ _, by rw [mbox_updMb_same, cplDoorbell_ignored hbad]⟩

end Sys2Proof.Machine
end
